-- ==== Sys2Proof/Word.lean ====
section
/-! DEFINITION. The word types of the machine and their plainest arithmetic (R5, R6). -/

namespace Sys2Proof

/-- One byte (R5). -/
abbrev Byte := BitVec 8
/-- One 32-bit instruction word (R5, R222). -/
abbrev Word := BitVec 32
/-- A 64-bit value: an S register or a pair (R6, R173). -/
abbrev Dword := BitVec 64
/-- A register tag code (R101). -/
abbrev Tag := BitVec 4

end Sys2Proof
end

