-- ==== Sys2Proof/Syntax.lean ====
section
/-! DEFINITION. The instruction set of the Lokai LX-9 and the steps of the part that carry no word:
one constructor per row of spec/opcode_table.json. A word's fields keep the names of its row, most significant first:
`g` is the guard predicate (R222, R223); `d`, `a`, `b`, `s`, `x`, `y`, `z` are the register, slot and tile fields of
R222; `i` is IMM11, `o` the offset field, `w` the width code, `c`, `t`, `p`, `n`, `l` the selectors of R232 and R234.
A row without a word is an event of an agent of the part: the values it brings from outside are its arguments, and
which queue, team, command, core or access it concerns is the selection that State holds (`State.sel`). -/

namespace Sys2Proof

/-- One constructor per row of spec/opcode_table.json. -/
inductive Instr where
  /-- R247. Adds two integer registers, wrapping to the stream width. -/
  | iadd (g : BitVec 3) (d : BitVec 6) (a : BitVec 6) (b : BitVec 6)
  /-- R247. Subtracts two integer registers, wrapping to the stream width. -/
  | isub (g : BitVec 3) (d : BitVec 6) (a : BitVec 6) (b : BitVec 6)
  /-- R247. Writes the low half of the product of two integers. -/
  | imul (g : BitVec 3) (d : BitVec 6) (a : BitVec 6) (b : BitVec 6)
  /-- R247. Writes the high half of the signed product of two integers. -/
  | imulh (g : BitVec 3) (d : BitVec 6) (a : BitVec 6) (b : BitVec 6)
  /-- R247. Writes the high half of the unsigned product of two integers. -/
  | imulhu (g : BitVec 3) (d : BitVec 6) (a : BitVec 6) (b : BitVec 6)
  /-- R247. Signed truncating division, with defined results for zero divisor and overflow. -/
  | idiv (g : BitVec 3) (d : BitVec 6) (a : BitVec 6) (b : BitVec 6)
  /-- R247. Unsigned division, with all ones for a zero divisor. -/
  | idivu (g : BitVec 3) (d : BitVec 6) (a : BitVec 6) (b : BitVec 6)
  /-- R247. Signed remainder with the sign of the dividend. -/
  | irem (g : BitVec 3) (d : BitVec 6) (a : BitVec 6) (b : BitVec 6)
  /-- R247. Unsigned remainder. -/
  | iremu (g : BitVec 3) (d : BitVec 6) (a : BitVec 6) (b : BitVec 6)
  /-- R247. Writes the signed lesser of two integers. -/
  | imin (g : BitVec 3) (d : BitVec 6) (a : BitVec 6) (b : BitVec 6)
  /-- R247. Writes the signed greater of two integers. -/
  | imax (g : BitVec 3) (d : BitVec 6) (a : BitVec 6) (b : BitVec 6)
  /-- R247. Writes the unsigned lesser of two integers. -/
  | iminu (g : BitVec 3) (d : BitVec 6) (a : BitVec 6) (b : BitVec 6)
  /-- R247. Writes the unsigned greater of two integers. -/
  | imaxu (g : BitVec 3) (d : BitVec 6) (a : BitVec 6) (b : BitVec 6)
  /-- R247. Signed saturating addition. -/
  | iadds (g : BitVec 3) (d : BitVec 6) (a : BitVec 6) (b : BitVec 6)
  /-- R247. Signed saturating subtraction. -/
  | isubs (g : BitVec 3) (d : BitVec 6) (a : BitVec 6) (b : BitVec 6)
  /-- R247. Absolute value, the most negative value giving itself. -/
  | iabs (g : BitVec 3) (d : BitVec 6) (a : BitVec 6)
  /-- R248. Bitwise AND of two registers. -/
  | and (g : BitVec 3) (d : BitVec 6) (a : BitVec 6) (b : BitVec 6)
  /-- R248. Bitwise OR of two registers. -/
  | or (g : BitVec 3) (d : BitVec 6) (a : BitVec 6) (b : BitVec 6)
  /-- R248. Bitwise XOR of two registers. -/
  | xor (g : BitVec 3) (d : BitVec 6) (a : BitVec 6) (b : BitVec 6)
  /-- R248. A AND NOT B. -/
  | andn (g : BitVec 3) (d : BitVec 6) (a : BitVec 6) (b : BitVec 6)
  /-- R248. A OR NOT B. -/
  | orn (g : BitVec 3) (d : BitVec 6) (a : BitVec 6) (b : BitVec 6)
  /-- R248. NOT (A XOR B). -/
  | xnor (g : BitVec 3) (d : BitVec 6) (a : BitVec 6) (b : BitVec 6)
  /-- R248. Logical left shift by a register count. -/
  | shl (g : BitVec 3) (d : BitVec 6) (a : BitVec 6) (b : BitVec 6)
  /-- R248. Logical right shift by a register count. -/
  | shr (g : BitVec 3) (d : BitVec 6) (a : BitVec 6) (b : BitVec 6)
  /-- R248. Arithmetic right shift by a register count. -/
  | sar (g : BitVec 3) (d : BitVec 6) (a : BitVec 6) (b : BitVec 6)
  /-- R248. Rotates left by a register count. -/
  | rol (g : BitVec 3) (d : BitVec 6) (a : BitVec 6) (b : BitVec 6)
  /-- R248. Rotates right by a register count. -/
  | rot (g : BitVec 3) (d : BitVec 6) (a : BitVec 6) (b : BitVec 6)
  /-- R248. Counts the one bits of a register. -/
  | popc (g : BitVec 3) (d : BitVec 6) (a : BitVec 6)
  /-- R248. Counts leading zero bits. -/
  | clz (g : BitVec 3) (d : BitVec 6) (a : BitVec 6)
  /-- R248. Counts trailing zero bits. -/
  | ctz (g : BitVec 3) (d : BitVec 6) (a : BitVec 6)
  /-- R248. Reverses the bit order of a register. -/
  | brev (g : BitVec 3) (d : BitVec 6) (a : BitVec 6)
  /-- R249. Extracts a zero-extended bit field. -/
  | bfe (g : BitVec 3) (d : BitVec 6) (a : BitVec 6) (b : BitVec 6)
  /-- R249. Inserts a bit field into the destination register. -/
  | bfi (g : BitVec 3) (d : BitVec 6) (a : BitVec 6) (b : BitVec 6)
  /-- R248. Copies a register with its tag. -/
  | mov (g : BitVec 3) (d : BitVec 6) (a : BitVec 6)
  /-- R250. Adds an immediate to a register. -/
  | iaddi (g : BitVec 3) (d : BitVec 6) (a : BitVec 6) (i : BitVec 11)
  /-- R250. Multiplies a register by an immediate. -/
  | imuli (g : BitVec 3) (d : BitVec 6) (a : BitVec 6) (i : BitVec 11)
  /-- R250. ANDs a register with an immediate. -/
  | andi (g : BitVec 3) (d : BitVec 6) (a : BitVec 6) (i : BitVec 11)
  /-- R250. ORs a register with an immediate. -/
  | ori (g : BitVec 3) (d : BitVec 6) (a : BitVec 6) (i : BitVec 11)
  /-- R250. XORs a register with an immediate. -/
  | xori (g : BitVec 3) (d : BitVec 6) (a : BitVec 6) (i : BitVec 11)
  /-- R251. Logical left shift by an immediate count. -/
  | shli (g : BitVec 3) (d : BitVec 6) (a : BitVec 6) (c : BitVec 11)
  /-- R251. Logical right shift by an immediate count. -/
  | shri (g : BitVec 3) (d : BitVec 6) (a : BitVec 6) (c : BitVec 11)
  /-- R251. Arithmetic right shift by an immediate count. -/
  | sari (g : BitVec 3) (d : BitVec 6) (a : BitVec 6) (c : BitVec 11)
  /-- R250. Writes an immediate to a register. -/
  | movi (g : BitVec 3) (d : BitVec 6) (i : BitVec 11)
  /-- R252. Adds two 64-bit address pairs. -/
  | aadd (g : BitVec 3) (d : BitVec 6) (a : BitVec 6) (b : BitVec 6)
  /-- R252. Subtracts two 64-bit address pairs. -/
  | asub (g : BitVec 3) (d : BitVec 6) (a : BitVec 6) (b : BitVec 6)
  /-- R252. Adds a sign-extended 32-bit register to a pair. -/
  | aadds (g : BitVec 3) (d : BitVec 6) (a : BitVec 6) (b : BitVec 6)
  /-- R252. Adds a zero-extended 32-bit register to a pair. -/
  | aaddu (g : BitVec 3) (d : BitVec 6) (a : BitVec 6) (b : BitVec 6)
  /-- R252. Copies an address pair with its tags. -/
  | amov (g : BitVec 3) (d : BitVec 6) (a : BitVec 6)
  /-- R252. Signed 32x32 product written exactly to a pair. -/
  | amuls (g : BitVec 3) (d : BitVec 6) (a : BitVec 6) (b : BitVec 6)
  /-- R252. Unsigned 32x32 product written exactly to a pair. -/
  | amulu (g : BitVec 3) (d : BitVec 6) (a : BitVec 6) (b : BitVec 6)
  /-- R252. Adds a sign-extended immediate to a pair. -/
  | aaddi (g : BitVec 3) (d : BitVec 6) (a : BitVec 6) (i : BitVec 11)
  /-- R253. Compares two integers or pairs and writes a predicate. -/
  | icmp (g : BitVec 3) (d : BitVec 3) (a : BitVec 6) (b : BitVec 6) (w : BitVec 1) (c : BitVec 4)
  /-- R254. ANDs two predicates. -/
  | pand (g : BitVec 3) (d : BitVec 3) (a : BitVec 3) (b : BitVec 3)
  /-- R254. ORs two predicates. -/
  | por (g : BitVec 3) (d : BitVec 3) (a : BitVec 3) (b : BitVec 3)
  /-- R254. XORs two predicates. -/
  | pxor (g : BitVec 3) (d : BitVec 3) (a : BitVec 3) (b : BitVec 3)
  /-- R254. A AND NOT B on predicates. -/
  | pandn (g : BitVec 3) (d : BitVec 3) (a : BitVec 3) (b : BitVec 3)
  /-- R254. Inverts a predicate. -/
  | pnot (g : BitVec 3) (d : BitVec 3) (a : BitVec 3)
  /-- R254. Copies a predicate. -/
  | pmov (g : BitVec 3) (d : BitVec 3) (a : BitVec 3)
  /-- R254. Writes all predicates as a bit mask to a register. -/
  | pget (g : BitVec 3) (d : BitVec 6)
  /-- R254. Sets predicates P1 to P7 from a register. -/
  | pput (g : BitVec 3) (a : BitVec 6)
  /-- R255. Selects one of two registers by a predicate. -/
  | sel (g : BitVec 3) (d : BitVec 6) (a : BitVec 6) (b : BitVec 6) (p : BitVec 3)
  /-- R301. ORs a predicate over the active threads of a fragment. -/
  | voteAny (g : BitVec 3) (d : BitVec 3) (a : BitVec 3)
  /-- R301. ANDs a predicate over the active threads of a fragment. -/
  | voteAll (g : BitVec 3) (d : BitVec 3) (a : BitVec 3)
  /-- R301. Writes the ballot mask of a predicate to a pair. -/
  | voteBal (g : BitVec 3) (d : BitVec 6) (a : BitVec 3)
  /-- R302. Exchanges a register from an indexed thread of the fragment. -/
  | shflIdx (g : BitVec 3) (d : BitVec 6) (a : BitVec 6) (b : BitVec 6)
  /-- R302. Exchanges a register from a lower thread. -/
  | shflUp (g : BitVec 3) (d : BitVec 6) (a : BitVec 6) (b : BitVec 6)
  /-- R302. Exchanges a register from a higher thread. -/
  | shflDown (g : BitVec 3) (d : BitVec 6) (a : BitVec 6) (b : BitVec 6)
  /-- R302. Exchanges a register with the thread at index XOR b. -/
  | shflXor (g : BitVec 3) (d : BitVec 6) (a : BitVec 6) (b : BitVec 6)
  /-- R256. Branches to a PC-relative target. -/
  | bra (g : BitVec 3) (o : BitVec 23)
  /-- R256. Calls a PC-relative target and writes the link. -/
  | call (g : BitVec 3) (o : BitVec 23)
  /-- R256. Returns to the address in a pair. -/
  | ret (g : BitVec 3) (a : BitVec 6)
  /-- R256. Jumps to the address in a pair. -/
  | jmpr (g : BitVec 3) (a : BitVec 6)
  /-- R256. Calls the address in a pair and writes the link. -/
  | callr (g : BitVec 3) (a : BitVec 6)
  /-- R256. Indexed branch into a table of words. -/
  | brx (g : BitVec 3) (a : BitVec 6) (b : BitVec 6)
  /-- R259. Ends every active thread whose guard is true. -/
  | exit (g : BitVec 3)
  /-- R260. Performs nothing and counts as retired. -/
  | nop (g : BitVec 3)
  /-- R260. Makes the thread not ready for 16 core cycles. -/
  | yield (g : BitVec 3)
  /-- R261. Selects a schedule entry from the launch's catalogue. -/
  | schsel (g : BitVec 3) (d : BitVec 6) (a : BitVec 6) (b : BitVec 6)
  /-- R275. Tag-driven floating-point addition with one rounding. -/
  | fadd (g : BitVec 3) (d : BitVec 6) (a : BitVec 6) (b : BitVec 6)
  /-- R275. Floating-point subtraction. -/
  | fsub (g : BitVec 3) (d : BitVec 6) (a : BitVec 6) (b : BitVec 6)
  /-- R275. Floating-point multiplication. -/
  | fmul (g : BitVec 3) (d : BitVec 6) (a : BitVec 6) (b : BitVec 6)
  /-- R275. Floating-point division. -/
  | fdiv (g : BitVec 3) (d : BitVec 6) (a : BitVec 6) (b : BitVec 6)
  /-- R275. Returns the lesser operand bit for bit. -/
  | fmin (g : BitVec 3) (d : BitVec 6) (a : BitVec 6) (b : BitVec 6)
  /-- R275. Returns the greater operand bit for bit. -/
  | fmax (g : BitVec 3) (d : BitVec 6) (a : BitVec 6) (b : BitVec 6)
  /-- R275. Correctly rounded square root. -/
  | fsqrt (g : BitVec 3) (d : BitVec 6) (a : BitVec 6)
  /-- R278. Clears each element's sign bit. -/
  | fabs (g : BitVec 3) (d : BitVec 6) (a : BitVec 6)
  /-- R278. Inverts each element's sign bit. -/
  | fneg (g : BitVec 3) (d : BitVec 6) (a : BitVec 6)
  /-- R278. Copies A with sign bits taken from B. -/
  | fcpys (g : BitVec 3) (d : BitVec 6) (a : BitVec 6) (b : BitVec 6)
  /-- R279. Approximate FP32 reciprocal. -/
  | frcp (g : BitVec 3) (d : BitVec 6) (a : BitVec 6)
  /-- R279. Approximate FP32 reciprocal square root. -/
  | frsq (g : BitVec 3) (d : BitVec 6) (a : BitVec 6)
  /-- R279. Approximate FP32 base-2 exponential. -/
  | fexp2 (g : BitVec 3) (d : BitVec 6) (a : BitVec 6)
  /-- R279. Approximate FP32 base-2 logarithm. -/
  | flog2 (g : BitVec 3) (d : BitVec 6) (a : BitVec 6)
  /-- R279. Approximate FP32 sine. -/
  | fsin (g : BitVec 3) (d : BitVec 6) (a : BitVec 6)
  /-- R279. Approximate FP32 cosine. -/
  | fcos (g : BitVec 3) (d : BitVec 6) (a : BitVec 6)
  /-- R279. Approximate FP32 hyperbolic tangent. -/
  | ftanh (g : BitVec 3) (d : BitVec 6) (a : BitVec 6)
  /-- R277. Fused multiply-add into D with one rounding. -/
  | ffma (g : BitVec 3) (d : BitVec 6) (a : BitVec 6) (b : BitVec 6)
  /-- R277. Fused negated multiply-add into D with one rounding. -/
  | ffnma (g : BitVec 3) (d : BitVec 6) (a : BitVec 6) (b : BitVec 6)
  /-- R277. Two-element packed dot product into an FP32 accumulator. -/
  | fdot2 (g : BitVec 3) (d : BitVec 6) (a : BitVec 6) (b : BitVec 6)
  /-- R277. Four-element FP8 dot product into an FP32 accumulator. -/
  | fdot4 (g : BitVec 3) (d : BitVec 6) (a : BitVec 6) (b : BitVec 6)
  /-- R281. Compares floating-point values and writes a predicate. -/
  | fcmp (g : BitVec 3) (d : BitVec 3) (a : BitVec 6) (b : BitVec 6) (c : BitVec 3)
  /-- R282. Writes a class mask for each element. -/
  | fclass (g : BitVec 3) (d : BitVec 6) (a : BitVec 6)
  /-- R283. Rounds each element to an integral value. -/
  | frint (g : BitVec 3) (d : BitVec 6) (a : BitVec 6)
  /-- R284. Reads and clears the thread's FPSTAT. -/
  | fstat (g : BitVec 3) (d : BitVec 6)
  /-- R285. Converts between floating-point formats. -/
  | cvt (g : BitVec 3) (d : BitVec 6) (a : BitVec 6) (b : BitVec 6) (t : BitVec 4)
  /-- R286. Converts between integer and floating-point formats. -/
  | cvti (g : BitVec 3) (d : BitVec 6) (a : BitVec 6) (b : BitVec 6) (u : BitVec 1) (t : BitVec 4)
  /-- R287. Joins the low halves of two packed words. -/
  | pack (g : BitVec 3) (d : BitVec 6) (a : BitVec 6) (b : BitVec 6)
  /-- R287. Widens the low half of a packed word exactly. -/
  | unpkLo (g : BitVec 3) (d : BitVec 6) (a : BitVec 6)
  /-- R287. Widens the high half of a packed word exactly. -/
  | unpkHi (g : BitVec 3) (d : BitVec 6) (a : BitVec 6)
  /-- R288. Copies data and sets a new tag. -/
  | tagset (g : BitVec 3) (d : BitVec 6) (a : BitVec 6) (t : BitVec 4)
  /-- R288. Sets a predicate if a register carries a given tag. -/
  | tagchk (g : BitVec 3) (d : BitVec 3) (a : BitVec 6) (t : BitVec 4)
  /-- R288. Writes a register's tag code as data. -/
  | tagrd (g : BitVec 3) (d : BitVec 6) (a : BitVec 6)
  /-- R293. Loads from global memory into registers. -/
  | ld (g : BitVec 3) (d : BitVec 6) (a : BitVec 6) (o : BitVec 8) (w : BitVec 3)
  /-- R293. Stores registers to global memory. -/
  | st (g : BitVec 3) (s : BitVec 6) (a : BitVec 6) (o : BitVec 8) (w : BitVec 3)
  /-- R293. Loads from the scratchpad window. -/
  | lds (g : BitVec 3) (d : BitVec 6) (a : BitVec 6) (o : BitVec 8) (w : BitVec 3)
  /-- R293. Stores to the scratchpad window. -/
  | sts (g : BitVec 3) (s : BitVec 6) (a : BitVec 6) (o : BitVec 8) (w : BitVec 3)
  /-- R293. Loads from the launch's constant window. -/
  | ldc (g : BitVec 3) (d : BitVec 6) (a : BitVec 6) (o : BitVec 8) (w : BitVec 3)
  /-- R295. Performs an indivisible read-modify-write at the home slice. -/
  | atom (g : BitVec 3) (d : BitVec 6) (a : BitVec 6) (b : BitVec 6) (w : BitVec 1) (p : BitVec 4)
  /-- R295. Performs an indivisible read-modify-write in scratch. -/
  | atoms (g : BitVec 3) (d : BitVec 6) (a : BitVec 6) (b : BitVec 6) (w : BitVec 1) (p : BitVec 4)
  /-- R297. Performs a reduction at the home slice, returning nothing. -/
  | red (g : BitVec 3) (w : BitVec 1) (p : BitVec 4) (a : BitVec 6) (b : BitVec 6)
  /-- R294. Hints that a line be brought into the L1 and home slice. -/
  | pref (g : BitVec 3) (a : BitVec 6)
  /-- R298. Orders accesses with the ordering and scope of its hint. -/
  | fence (g : BitVec 3)
  /-- R298. Empties the core's instruction cache. -/
  | ifence (g : BitVec 3)
  /-- R299. Arms a watch on a line at its home slice. -/
  | mona (g : BitVec 3) (a : BitVec 6)
  /-- R300. Waits until the armed watch triggers or is lost. -/
  | mwait (g : BitVec 3)
  /-- R305. Arrives at a barrier and waits for its phase to complete. -/
  | bar (g : BitVec 3) (n : BitVec 6) (l : BitVec 2)
  /-- R305. Arrives at a barrier without waiting. -/
  | bara (g : BitVec 3) (n : BitVec 6) (l : BitVec 2)
  /-- R305. Waits for the thread's barrier phase without arriving. -/
  | barw (g : BitVec 3) (n : BitVec 6) (l : BitVec 2)
  /-- R306. Barrier arrival combining payloads by OR. -/
  | barredOr (g : BitVec 3) (d : BitVec 6) (a : BitVec 6) (n : BitVec 6) (l : BitVec 2)
  /-- R306. Barrier arrival combining payloads by AND. -/
  | barredAnd (g : BitVec 3) (d : BitVec 6) (a : BitVec 6) (n : BitVec 6) (l : BitVec 2)
  /-- R306. Barrier arrival combining payloads by unsigned maximum. -/
  | barredMax (g : BitVec 3) (d : BitVec 6) (a : BitVec 6) (n : BitVec 6) (l : BitVec 2)
  /-- R303. Sets a convergence register for the fragment. -/
  | cvset (g : BitVec 3) (d : BitVec 5) (i : BitVec 11)
  /-- R308. Appends an entry to the team's hardware queue. -/
  | qput (g : BitVec 3) (a : BitVec 6)
  /-- R308. Removes an entry from the team's hardware queue. -/
  | qget (g : BitVec 3) (d : BitVec 6)
  /-- R309. Sets bits of the team's flag word. -/
  | flagSet (g : BitVec 3) (a : BitVec 6)
  /-- R309. Clears bits of the team's flag word. -/
  | flagClr (g : BitVec 3) (a : BitVec 6)
  /-- R310. Waits until any masked flag is set. -/
  | fwaitAny (g : BitVec 3) (d : BitVec 6) (a : BitVec 6)
  /-- R310. Waits until every masked flag is set. -/
  | fwaitAll (g : BitVec 3) (d : BitVec 6) (a : BitVec 6)
  /-- R316. Commits the open region and hands its entries to the drain. -/
  | rgnc (g : BitVec 3)
  /-- R317. Discards the region's entries and restarts at its label. -/
  | rgnx (g : BitVec 3)
  /-- R313. Opens a region with a live-in mask and restart label. -/
  | rgnb (g : BitVec 3) (a : BitVec 6) (i : BitVec 11)
  /-- R313. Commits the open region and opens the next in one step. -/
  | rgnn (g : BitVec 3) (a : BitVec 6) (i : BitVec 11)
  /-- R149. Submits a group's slice of a bulk collective copy. -/
  | cpb (g : BitVec 3) (x : BitVec 6) (y : BitVec 6) (z : BitVec 6)
  /-- R323. Issues a single-run copy command. -/
  | cps (g : BitVec 3) (x : BitVec 6) (y : BitVec 6) (z : BitVec 6)
  /-- R323. Issues a strided multi-row copy command. -/
  | cpg (g : BitVec 3) (x : BitVec 6) (y : BitVec 6) (z : BitVec 6)
  /-- R323. Issues a transposing copy into scratch. -/
  | cpt (g : BitVec 3) (x : BitVec 6) (y : BitVec 6) (z : BitVec 6)
  /-- R151. Seals the thread's open batch and returns its number. -/
  | cpseal (g : BitVec 3) (d : BitVec 6)
  /-- R152. Waits for a sealed batch and all before it. -/
  | cpwait (g : BitVec 3) (a : BitVec 6)
  /-- R159. Waits for a counter to reach a target, acquire at group scope. -/
  | cpctrG (g : BitVec 3) (d : BitVec 6) (a : BitVec 6) (b : BitVec 6)
  /-- R159. Waits for a counter to reach a target, acquire at team scope. -/
  | cpctrT (g : BitVec 3) (d : BitVec 6) (a : BitVec 6) (b : BitVec 6)
  /-- R159. Waits for a counter to reach a target, acquire at cohort scope. -/
  | cpctrC (g : BitVec 3) (d : BitVec 6) (a : BitVec 6) (b : BitVec 6)
  /-- R159. Waits for a counter to reach a target, acquire at die scope. -/
  | cpctrD (g : BitVec 3) (d : BitVec 6) (a : BitVec 6) (b : BitVec 6)
  /-- R159. Waits for a counter to reach a target, acquire at device scope. -/
  | cpctrV (g : BitVec 3) (d : BitVec 6) (a : BitVec 6) (b : BitVec 6)
  /-- R159. Waits for a counter to reach a target, acquire at system scope. -/
  | cpctrS (g : BitVec 3) (d : BitVec 6) (a : BitVec 6) (b : BitVec 6)
  /-- R326. Arms an empty tile slot for a fill. -/
  | slotx (g : BitVec 3) (x : BitVec 6) (y : BitVec 6)
  /-- R327. Waits until a slot's PHASE equals a value. -/
  | slotw (g : BitVec 3) (x : BitVec 6) (p : BitVec 1)
  /-- R327. Releases a READY slot to EMPTY or DRAINING. -/
  | slotr (g : BitVec 3) (x : BitVec 6)
  /-- R327. Reads a slot's record. -/
  | slotq (g : BitVec 3) (x : BitVec 6) (y : BitVec 6)
  /-- R163. Sends a message to a ring, waiting for space. -/
  | msend (g : BitVec 3) (x : BitVec 6) (y : BitVec 6) (z : BitVec 6)
  /-- R163. Sends a message to a ring, returning FULL instead of waiting. -/
  | msendNb (g : BitVec 3) (x : BitVec 6) (y : BitVec 6) (z : BitVec 6)
  /-- R161. Configures and enables a message ring. -/
  | mringSet (g : BitVec 3) (r : BitVec 3) (a : BitVec 6)
  /-- R161. Disables a message ring. -/
  | mringOff (g : BitVec 3) (r : BitVec 3)
  /-- R161. Releases n messages by advancing HEAD. -/
  | mringPop (g : BitVec 3) (r : BitVec 3) (a : BitVec 6)
  /-- R161. Arms a watch on the ring's TAIL. -/
  | mringWatch (g : BitVec 3) (r : BitVec 3)
  /-- R161. Reads a ring's record. -/
  | mringQ (g : BitVec 3) (r : BitVec 3) (d : BitVec 6)
  /-- R331. Accumulates a matrix product of two slots into a tile. -/
  | mma (g : BitVec 3) (x : BitVec 6) (y : BitVec 6) (z : BitVec 6) (t : BitVec 1) (s : BitVec 1) (k : BitVec 2)
  /-- R331. Accumulates a block-scaled matrix product into a tile. -/
  | mmas (g : BitVec 3) (x : BitVec 6) (y : BitVec 6) (z : BitVec 6) (t : BitVec 1) (s : BitVec 1) (k : BitVec 2)
  /-- R331. Accumulates an asymmetric integer matrix product into an F32 tile. -/
  | mmaq (g : BitVec 3) (x : BitVec 6) (y : BitVec 6) (z : BitVec 6) (q : BitVec 2) (k : BitVec 2)
  /-- R332. Zeroes a tile and tags it RAW. -/
  | mzero (g : BitVec 3) (x : BitVec 6)
  /-- R332. Loads a tile from a READY slot. -/
  | mlda (g : BitVec 3) (x : BitVec 6) (y : BitVec 6)
  /-- R333. Drains a tile into a FILLING slot. -/
  | mdrnS (g : BitVec 3) (x : BitVec 6) (y : BitVec 6) (f : BitVec 4)
  /-- R333. Drains a tile into a slot by adding in place. -/
  | mdrnSadd (g : BitVec 3) (x : BitVec 6) (y : BitVec 6) (f : BitVec 4)
  /-- R333. Drains a tile to global memory. -/
  | mdrnG (g : BitVec 3) (x : BitVec 6) (y : BitVec 6) (f : BitVec 4)
  /-- R333. Drains a tile to global memory as one add-on-store. -/
  | mdrnGadd (g : BitVec 3) (x : BitVec 6) (y : BitVec 6) (f : BitVec 4)
  /-- R336. Starts a matrix-vector product on the plinth engines. -/
  | mmv (g : BitVec 3) (y : BitVec 6) (z : BitVec 6) (w : BitVec 2)
  /-- R339. Applies an Adam update to slot-resident state. -/
  | oadam (g : BitVec 3) (x : BitVec 6) (y : BitVec 6) (z : BitVec 6)
  /-- R339. Applies an SGD-with-momentum update to slot-resident state. -/
  | osgd (g : BitVec 3) (x : BitVec 6) (y : BitVec 6) (z : BitVec 6)
  /-- R341. Adds a source slot into a destination slot element-wise. -/
  | vredAdd (g : BitVec 3) (x : BitVec 6) (y : BitVec 6) (z : BitVec 6)
  /-- R341. Takes the element-wise maximum of two slots. -/
  | vredMax (g : BitVec 3) (x : BitVec 6) (y : BitVec 6) (z : BitVec 6)
  /-- R350. Loads a knot-grid register. -/
  | splkg (g : BitVec 3) (x : BitVec 5) (y : BitVec 6)
  /-- R351. Reads a knot-grid register's LOW and HIGH counters. -/
  | splkq (g : BitVec 3) (x : BitVec 5) (y : BitVec 6)
  /-- R352. Loads vitrine planes from a slot. -/
  | splld (g : BitVec 3) (x : BitVec 6) (y : BitVec 6) (z : BitVec 6)
  /-- R352. Stores vitrine planes into a FILLING slot. -/
  | splst (g : BitVec 3) (x : BitVec 6) (y : BitVec 6) (z : BitVec 6)
  /-- R354. Halves the knot spacing and rewrites the vitrine. -/
  | splrf (g : BitVec 3) (x : BitVec 5)
  /-- R353. Evaluates spline cells and accumulates into a tile. -/
  | splev (g : BitVec 3) (x : BitVec 6) (y : BitVec 6) (z : BitVec 5)
  /-- R353. Accumulates the spline input gradient into a tile. -/
  | spldr (g : BitVec 3) (x : BitVec 6) (y : BitVec 6) (z : BitVec 5)
  /-- R353. Accumulates coefficient gradients into G + D tiles. -/
  | splgr (g : BitVec 3) (x : BitVec 6) (y : BitVec 6) (z : BitVec 5)
  /-- R263. Reads a special register. -/
  | srd (g : BitVec 3) (d : BitVec 6) (n : BitVec 6)
  /-- R265. Reads the clock grant in effect on the die. -/
  | clkq (g : BitVec 3) (d : BitVec 6)
  /-- R266. Records a new clock request for the launch. -/
  | clkreq (g : BitVec 3) (a : BitVec 6) (b : BitVec 6)
  /-- R384. Raises a precise SOFTWARE trap. -/
  | trap (g : BitVec 3) (c : BitVec 6)
  /-- R384. Halts the team or raises a BREAKPOINT trap. -/
  | brkpt (g : BitVec 3) (c : BitVec 6)
  /-- R384. Probes the team's blocked groups for wait cycles. -/
  | probe (g : BitVec 3) (d : BitVec 6)
  /-- R385. Reads a control register. -/
  | csrr (g : BitVec 3) (d : BitVec 6) (n : BitVec 11)
  /-- R385. Writes a control register. -/
  | csrw (g : BitVec 3) (a : BitVec 6) (n : BitVec 11)
  /-- R386. Returns from custodian mode to EPC. -/
  | eret (g : BitVec 3)
  /-- R386. Halts the issuing team. -/
  | halt (g : BitVec 3)
  /-- R387. Starts a TLB invalidation of a selector and scope. -/
  | tlbinv (g : BitVec 3) (s : BitVec 2) (e : BitVec 2) (y : BitVec 6) (z : BitVec 6)
  /-- R388. Saves an accumulator tile record to memory. -/
  | accsave (g : BitVec 3) (x : BitVec 6) (y : BitVec 6)
  /-- R388. Restores an accumulator tile from a record. -/
  | accrest (g : BitVec 3) (x : BitVec 6) (y : BitVec 6)
  /-- R388. Saves the vitrine and knot-grid registers. -/
  | accsaveV (g : BitVec 3) (y : BitVec 6)
  /-- R388. Restores the vitrine and knot-grid registers. -/
  | accrestV (g : BitVec 3) (y : BitVec 6)
  /-- R228. Wide-immediate hint word widening the next instruction's immediate. -/
  | hwide (p : BitVec 24)
  /-- R229. Modifier hint word carrying rounding, ordering, scope, cache class and load tag. -/
  | hmod (p : BitVec 24)
  /-- R231. Scheduling hint word with stall, yield and reuse fields. -/
  | hsched (p : BitVec 24)
  /-- R401. The host writes a queue's doorbell QTAIL. -/
  | qtailWrite (q : BitVec 8) (tail : BitVec 32)
  /-- R205. The distributor places a team on a core where its claims fit. -/
  | teamPlacement (die : BitVec 1) (ctx : BitVec 16)
  /-- R80. An egress port grants one head packet per network cycle. -/
  | packetHop (port : Nat) (blocked : List Nat)
  /-- R83. A slice router fails while running and goes into bypass. -/
  | routerFailure (die : BitVec 1) (router : BitVec 5)
  /-- R84. A gallery fails while teams run and is disabled. -/
  | galleryFailure (gallery : BitVec 4)
  /-- R88. A write to a device register with no behaviour of its own. -/
  | registerWrite (addr : BitVec 48) (size : Nat) (value : BitVec 64)
  /-- R439. A write changing BELFRYCFG starts a belfry evaluation. -/
  | belfrycfgWrite (value : BitVec 32)
  /-- R439. The belfry measures module power every 10 us. -/
  | powerMeasurement (pnow : Nat) (s0 : Nat) (s1 : Nat) (a0 : List Nat) (a1 : List Nat)
  /-- R440. A die's hottest sensor crosses 100 C, or falls below 95 C. -/
  | thermalLimit (die : BitVec 1) (hot : Bool)
  /-- R383. Writing DBGDATA changes the selected state of a halted team, or sets WREJ. -/
  | dbgdataWrite (die : BitVec 1) (value : BitVec 64)
  /-- R430. A store to REDDOOR starts an in-network reduction descriptor. -/
  | reductionDoorbell (die : BitVec 1) (value : BitVec 64)
  /-- R422. A host access arrives through a BAR. -/
  | hostAccess (bar : BitVec 3) (write : Bool) (off : Nat) (size : Nat) (value : BitVec 128)
  /-- R427. A fabric peer access arrives and is performed at the home slice. -/
  | peerAccess (peer : Nat) (write : Bool) (addr : BitVec 48) (size : Nat) (value : BitVec 128)
  /-- R429. A fabric link changes state and traffic rehashes. -/
  | fabricLinkChange (link : BitVec 4) (up : Bool)
  /-- R441. A function finishes its self-test and sets its READY bit. -/
  | selfTestComplete (bit : BitVec 6) (ok : Bool)
  /-- R232. A fetched word with an unassigned major or minor traps ILLEGAL with reason BAD_MAJOR or BAD_MINOR. -/
  | unassignedEncoding (w : BitVec 32)
  /-- R404. The front end takes a LAUNCH packet, reads and checks its block. -/
  | launch
  /-- R412. The front end takes a GANG packet and begins reserving partitions. -/
  | gang
  /-- R412. All part reservations become whole and every part starts. -/
  | gangCommit
  /-- R413. The gang timeout expires and the reservations roll back. -/
  | gangTimeout
  /-- R404. The front end takes a WAIT packet and holds the queue. -/
  | wait
  /-- R404. A held WAIT's counter reaches its target and the queue moves on. -/
  | waitRelease
  /-- R404. A WAIT on host memory re-polls its counter every 1 us. -/
  | waitPoll
  /-- R404. The front end takes a SIGNAL packet and adds to a counter. -/
  | signal
  /-- R404. The front end takes a NOP packet. -/
  | nopPacket
  /-- R409. ADMIN operation creating a queue from its context record. -/
  | qcreate
  /-- R409. ADMIN operation destroying a queue. -/
  | qdestroy
  /-- R409. A destroyed queue's EN clears once its launches retire. -/
  | queueDisable
  /-- R409. ADMIN operation changing a queue's priority for later takes. -/
  | qprio
  /-- R409. ADMIN operation clearing STOPPED and consuming the bad packet. -/
  | qreset
  /-- R409. ADMIN operation making a masked policy register write. -/
  | regwrite
  /-- R411. ADMIN operation setting NPART. -/
  | partition
  /-- R409. ADMIN operation requesting pre-emption of a launch's teams. -/
  | preempt
  /-- R409. ADMIN operation withdrawing a pre-emption request or resuming a halted launch. -/
  | adminResume
  /-- R409. ADMIN operation halting every team of a launch. -/
  | adminHalt
  /-- R409. ADMIN operation ending a launch with ENDED. -/
  | adminEnd
  /-- R417. ADMIN operation loading, checking and booting a new firmware image. -/
  | fwload
  /-- R418. ADMIN operation blowing fuses up to the running image's SVN. -/
  | svncommit
  /-- R417. The curator finishes restarting from its image slot. -/
  | curatorRestartComplete
  /-- R202. A dispatcher draws a batch of team indices once capacity allows. -/
  | dispatchDraw
  /-- R209. Once spilled granules pass, the guaranteed team's threads start. -/
  | guaranteedTeamRelease
  /-- R44. Freed storage finishes zeroing and is counted as free capacity. -/
  | granuleZeroed
  /-- R177. A team whose threads, commands, drains and slots are done retires. -/
  | teamRetire
  /-- R201. A launch retires and the front end makes its counter add. -/
  | launchRetire
  /-- R370. A guaranteed team with a standing request is pre-empted when all its threads block. -/
  | teamPreempt
  /-- R372. A pre-empted team's wake condition holds and it becomes runnable. -/
  | teamWake
  /-- R372. A runnable pre-empted team is placed again and its state written back. -/
  | teamRestore
  /-- R366. A queued deferred report is taken by its fragment at a unit boundary. -/
  | deferredReport
  /-- R376. Writing CLAIM takes the held accumulator set and zeroes the team's part. -/
  | accownClaim
  /-- R146. The copy engine starts the next accepted command. -/
  | copyCommandStart
  /-- R149. A bulk command starts once every COPY group's slice has arrived. -/
  | bulkCommandStart
  /-- R65. Producer bytes arrive in a slot, possibly making it READY. -/
  | slotBytesArrive
  /-- R65. A consumer's operand read of a slot completes. -/
  | slotReadComplete
  /-- R157. A copy command's writes are performed and it completes. -/
  | copyCommandComplete
  /-- R321. The matrix engine performs its next queued matrix or spline instruction. -/
  | matrixEngineStep
  /-- R337. A stack's plinth engines finish an MMV command. -/
  | plinthMmvComplete
  /-- R316. The drain performs the next region store buffer entry. -/
  | regionDrainEntry
  /-- R40. A TLB invalidation's completion conditions hold and it retires. -/
  | tlbinvComplete
  /-- R35. A page-table walk finishes and delivers its leaf or fault. -/
  | walkComplete
  /-- R85. A home slice performs a load or store on a line. -/
  | sliceAccess
  /-- R87. A slice's atomic unit performs a scalar atomic or RED. -/
  | farAtomic
  /-- R87. A tile add-on-store arrives and reserves its block's lines. -/
  | addOnStore
  /-- R87. The add-on-store's updates are applied and its lines released. -/
  | addOnStoreRelease
  /-- R92. A pseudo-channel controller serves the next queued request. -/
  | hbmAccess
  /-- R92. A harvest request waiting 4,096 memory cycles is treated as holding tokens. -/
  | hbmAgedRequest
  /-- R293. A load's value returns and is written to its destination registers. -/
  | memoryResponse
  /-- R76. An instruction-cache miss is filled from the home slice. -/
  | fetchFill
  /-- R80. A head packet's age counter saturates at 4,096. -/
  | packetAgeSaturate
  /-- R164. A ring's interface appends an arriving message and answers the sender. -/
  | messageAppend
  /-- R159. A throttled CPCTR re-reads its counter every 256 core cycles. -/
  | cpctrPoll
  /-- R89. A SPIREPWR write setting an OFF bit starts a spire power-down. -/
  | spirePowerDown
  /-- R89. A SPIREPWR write clearing an OFF bit starts a spire power-up. -/
  | spirePowerUp
  /-- R89. A spire power change completes and BUSY clears. -/
  | spirePowerDone
  /-- R218. The periodic 50 us belfry evaluation chooses each die's grant. -/
  | belfryEvaluation
  /-- R218. Module power exceeds the cap for 100 us and forces an evaluation. -/
  | powerOverCap
  /-- R219. A new clock grant takes effect on a die. -/
  | grantChange
  /-- R383. Reading DBGDATA returns the selected item and loads DBGAUX. -/
  | dbgdataRead
  /-- R431. A reduction ends with one status and the result is written or not. -/
  | reductionEnd
  /-- R431. A reduction's TIMEOUT expires and it ends INCOMPLETE. -/
  | reductionTimeout
  /-- R428. A flit failing CRC is replayed on its link. -/
  | flitReplay
  /-- R425. A PCI Express Function Level Reset ends launches and disables queues. -/
  | functionLevelReset
  /-- R441. A module reset starts self-test and boot. -/
  | moduleReset
  /-- R438. Archive increments are committed every 10 minutes. -/
  | archiveCommit
  /-- R438. An orderly power-down commits the archive. -/
  | orderlyPowerDown
  /-- R434. A pseudo-channel scrubs its capacity on the 24-hour schedule. -/
  | scrubPass
  /-- R378. A group blocked for 1 ms of GTIME starts a wait-cycle probe. -/
  | watchdogProbe
  /-- R368. The curator's time-slice policy requests pre-emption of a guaranteed team by itself. -/
  | timeSliceRequest
  /-- R438. Power is lost without an orderly power-down, and archive increments since the last commit are lost. -/
  | powerLoss
  /-- R434. An uncorrectable error in the curator's tightly coupled memory makes the curator restart from its running slot. -/
  | curatorMemoryError
  deriving DecidableEq, Repr, Inhabited

end Sys2Proof
end

