-- ==== Sys2Proof/Decode.lean ====
section
/-! DEFINITION. The decoder and the encoder of instruction words (R222, R226 to R236), and the bridge from the opcode
table's numbering of bits. A word whose major or minor is unassigned decodes to `Instr.unassignedEncoding` (R232); a
word with a non-zero reserved field, or with an index bit set above a predicate, convergence or knot-grid field, is
rejected by name together with the instruction it would be, because R235 still judges the hint before it. -/

namespace Sys2Proof

/-- Why a word is no instruction. -/
inductive Reject where
  /-- R235 steps 4 and 5: the word is `i` but a field that must be zero is not (`rsv`, RESERVED_FIELD), or bits above
  an index field are set (`idx`, BAD_REGISTER, R226). -/
  | field (i : Instr) (rsv : Bool) (idx : Bool)
  /-- R227: a hint word of kind 11, which always traps BAD_HINT. -/
  | hintKind (payload : BitVec 24)
  /-- Fewer than four bytes were given. -/
  | tooShort
  deriving DecidableEq, Repr, Inhabited

/-- Major opcode, bits [31:26] (R222). -/
def fMajor (w : Word) : BitVec 6 := w.extractLsb' 26 6
/-- Guard, bits [25:23] (R222). -/
def fG (w : Word) : BitVec 3 := w.extractLsb' 23 3
/-- D, S or X field, bits [22:17] (R222). -/
def fD (w : Word) : BitVec 6 := w.extractLsb' 17 6
/-- A or Y field, bits [16:11] (R222). -/
def fA (w : Word) : BitVec 6 := w.extractLsb' 11 6
/-- B or Z field, bits [10:5] (R222). -/
def fB (w : Word) : BitVec 6 := w.extractLsb' 5 6
/-- Minor F, bits [4:0] (R222). -/
def fF (w : Word) : BitVec 5 := w.extractLsb' 0 5
/-- IMM11, bits [10:0] (R222). -/
def fI (w : Word) : BitVec 11 := w.extractLsb' 0 11
/-- OFF8, bits [10:3] (R222). -/
def fO (w : Word) : BitVec 8 := w.extractLsb' 3 8
/-- W, bits [2:0] (R222). -/
def fW (w : Word) : BitVec 3 := w.extractLsb' 0 3
/-- OFF23, bits [22:0] (R222). -/
def fT (w : Word) : BitVec 23 := w.extractLsb' 0 23
/-- Hint payload, bits [23:0] (R222). -/
def fP (w : Word) : BitVec 24 := w.extractLsb' 0 24

/-- The instruction, or its rejection for the fields found wrong (R235 steps 4 and 5, R226). -/
def field (i : Instr) (rsv idx : Bool) : Except Reject Instr :=
  if rsv || idx then .error (.field i rsv idx) else .ok i

/-- A word with no assigned meaning (R232). -/
def unassigned (w : Word) : Except Reject Instr := .ok (.unassignedEncoding w)

/-- The operation and width codes that R234 assigns to ATOM and ATOMS. -/
def atomOk (w : BitVec 1) (p : BitVec 4) : Bool :=
  decide (p.toNat ≤ 9) || (decide (p.toNat ≤ 12) && w == 0)

/-- The codes of RED: those of R234 without XCHG and CAS (R297). -/
def redOk (w : BitVec 1) (p : BitVec 4) : Bool :=
  atomOk w p && p != 8 && p != 9

/-- The format codes that CVTI accepts as its target (R286): I32, F32, BF16x2, F16x2, I8x4 and I4x8; the last two
are packed integers and take no unsigned form. -/
def cvtiOk (u : BitVec 1) (t : BitVec 4) : Bool :=
  (decide (1 ≤ t.toNat) && decide (t.toNat ≤ 4)) || ((t == 8 || t == 9) && u == 0)

/-- Major 0x01 (R232). Integer arithmetic. -/
def decode01 (w : Word) : Except Reject Instr :=
  match (fF w).toNat with
  | 0x00 => .ok (.iadd (fG w) (fD w) (fA w) (fB w))
  | 0x01 => .ok (.isub (fG w) (fD w) (fA w) (fB w))
  | 0x02 => .ok (.imul (fG w) (fD w) (fA w) (fB w))
  | 0x03 => .ok (.imulh (fG w) (fD w) (fA w) (fB w))
  | 0x04 => .ok (.imulhu (fG w) (fD w) (fA w) (fB w))
  | 0x05 => .ok (.idiv (fG w) (fD w) (fA w) (fB w))
  | 0x06 => .ok (.idivu (fG w) (fD w) (fA w) (fB w))
  | 0x07 => .ok (.irem (fG w) (fD w) (fA w) (fB w))
  | 0x08 => .ok (.iremu (fG w) (fD w) (fA w) (fB w))
  | 0x09 => .ok (.imin (fG w) (fD w) (fA w) (fB w))
  | 0x0A => .ok (.imax (fG w) (fD w) (fA w) (fB w))
  | 0x0B => .ok (.iminu (fG w) (fD w) (fA w) (fB w))
  | 0x0C => .ok (.imaxu (fG w) (fD w) (fA w) (fB w))
  | 0x0D => .ok (.iadds (fG w) (fD w) (fA w) (fB w))
  | 0x0E => .ok (.isubs (fG w) (fD w) (fA w) (fB w))
  | 0x0F => field (.iabs (fG w) (fD w) (fA w)) (fB w != 0) false
  | _ => unassigned w

/-- Major 0x02 (R232). Logic, shifts and bit fields. -/
def decode02 (w : Word) : Except Reject Instr :=
  match (fF w).toNat with
  | 0x00 => .ok (.and (fG w) (fD w) (fA w) (fB w))
  | 0x01 => .ok (.or (fG w) (fD w) (fA w) (fB w))
  | 0x02 => .ok (.xor (fG w) (fD w) (fA w) (fB w))
  | 0x03 => .ok (.andn (fG w) (fD w) (fA w) (fB w))
  | 0x04 => .ok (.orn (fG w) (fD w) (fA w) (fB w))
  | 0x05 => .ok (.xnor (fG w) (fD w) (fA w) (fB w))
  | 0x06 => .ok (.shl (fG w) (fD w) (fA w) (fB w))
  | 0x07 => .ok (.shr (fG w) (fD w) (fA w) (fB w))
  | 0x08 => .ok (.sar (fG w) (fD w) (fA w) (fB w))
  | 0x09 => .ok (.rol (fG w) (fD w) (fA w) (fB w))
  | 0x0A => .ok (.rot (fG w) (fD w) (fA w) (fB w))
  | 0x0B => field (.popc (fG w) (fD w) (fA w)) (fB w != 0) false
  | 0x0C => field (.clz (fG w) (fD w) (fA w)) (fB w != 0) false
  | 0x0D => field (.ctz (fG w) (fD w) (fA w)) (fB w != 0) false
  | 0x0E => field (.brev (fG w) (fD w) (fA w)) (fB w != 0) false
  | 0x0F => .ok (.bfe (fG w) (fD w) (fA w) (fB w))
  | 0x10 => .ok (.bfi (fG w) (fD w) (fA w) (fB w))
  | 0x11 => field (.mov (fG w) (fD w) (fA w)) (fB w != 0) false
  | _ => unassigned w

/-- Major 0x0C (R232). Address pairs. -/
def decode0C (w : Word) : Except Reject Instr :=
  match (fF w).toNat with
  | 0x00 => .ok (.aadd (fG w) (fD w) (fA w) (fB w))
  | 0x01 => .ok (.asub (fG w) (fD w) (fA w) (fB w))
  | 0x02 => .ok (.aadds (fG w) (fD w) (fA w) (fB w))
  | 0x03 => .ok (.aaddu (fG w) (fD w) (fA w) (fB w))
  | 0x04 => field (.amov (fG w) (fD w) (fA w)) (fB w != 0) false
  | 0x05 => .ok (.amuls (fG w) (fD w) (fA w) (fB w))
  | 0x06 => .ok (.amulu (fG w) (fD w) (fA w) (fB w))
  | _ => unassigned w

/-- Major 0x11 (R232). Predicates. -/
def decode11 (w : Word) : Except Reject Instr :=
  match (fF w).toNat with
  | 0x00 => field (.pand (fG w) ((fD w).setWidth 3) ((fA w).setWidth 3) ((fB w).setWidth 3)) false ((fD w).extractLsb' 3 3 != 0 || (fA w).extractLsb' 3 3 != 0 || (fB w).extractLsb' 3 3 != 0)
  | 0x01 => field (.por (fG w) ((fD w).setWidth 3) ((fA w).setWidth 3) ((fB w).setWidth 3)) false ((fD w).extractLsb' 3 3 != 0 || (fA w).extractLsb' 3 3 != 0 || (fB w).extractLsb' 3 3 != 0)
  | 0x02 => field (.pxor (fG w) ((fD w).setWidth 3) ((fA w).setWidth 3) ((fB w).setWidth 3)) false ((fD w).extractLsb' 3 3 != 0 || (fA w).extractLsb' 3 3 != 0 || (fB w).extractLsb' 3 3 != 0)
  | 0x03 => field (.pandn (fG w) ((fD w).setWidth 3) ((fA w).setWidth 3) ((fB w).setWidth 3)) false ((fD w).extractLsb' 3 3 != 0 || (fA w).extractLsb' 3 3 != 0 || (fB w).extractLsb' 3 3 != 0)
  | 0x04 => field (.pnot (fG w) ((fD w).setWidth 3) ((fA w).setWidth 3)) (fB w != 0) ((fD w).extractLsb' 3 3 != 0 || (fA w).extractLsb' 3 3 != 0)
  | 0x05 => field (.pmov (fG w) ((fD w).setWidth 3) ((fA w).setWidth 3)) (fB w != 0) ((fD w).extractLsb' 3 3 != 0 || (fA w).extractLsb' 3 3 != 0)
  | 0x06 => field (.pget (fG w) (fD w)) (fA w != 0 || fB w != 0) false
  | 0x07 => field (.pput (fG w) (fA w)) (fD w != 0 || fB w != 0) false
  | _ => unassigned w

/-- Major 0x13 (R232). Votes and shuffles. -/
def decode13 (w : Word) : Except Reject Instr :=
  match (fF w).toNat with
  | 0x00 => field (.voteAny (fG w) ((fD w).setWidth 3) ((fA w).setWidth 3)) (fB w != 0) ((fD w).extractLsb' 3 3 != 0 || (fA w).extractLsb' 3 3 != 0)
  | 0x01 => field (.voteAll (fG w) ((fD w).setWidth 3) ((fA w).setWidth 3)) (fB w != 0) ((fD w).extractLsb' 3 3 != 0 || (fA w).extractLsb' 3 3 != 0)
  | 0x02 => field (.voteBal (fG w) (fD w) ((fA w).setWidth 3)) (fB w != 0) ((fA w).extractLsb' 3 3 != 0)
  | 0x03 => .ok (.shflIdx (fG w) (fD w) (fA w) (fB w))
  | 0x04 => .ok (.shflUp (fG w) (fD w) (fA w) (fB w))
  | 0x05 => .ok (.shflDown (fG w) (fD w) (fA w) (fB w))
  | 0x06 => .ok (.shflXor (fG w) (fD w) (fA w) (fB w))
  | _ => unassigned w

/-- Major 0x16 (R232). Control. -/
def decode16 (w : Word) : Except Reject Instr :=
  match (fF w).toNat with
  | 0x00 => field (.ret (fG w) (fA w)) (fD w != 0 || fB w != 0) false
  | 0x01 => field (.jmpr (fG w) (fA w)) (fD w != 0 || fB w != 0) false
  | 0x02 => field (.callr (fG w) (fA w)) (fD w != 0 || fB w != 0) false
  | 0x03 => field (.brx (fG w) (fA w) (fB w)) (fD w != 0) false
  | 0x04 => field (.exit (fG w)) (fD w != 0 || fA w != 0 || fB w != 0) false
  | 0x05 => field (.nop (fG w)) (fD w != 0 || fA w != 0 || fB w != 0) false
  | 0x06 => field (.yield (fG w)) (fD w != 0 || fA w != 0 || fB w != 0) false
  | 0x07 => .ok (.schsel (fG w) (fD w) (fA w) (fB w))
  | _ => unassigned w

/-- Major 0x18 (R232). Floating point. -/
def decode18 (w : Word) : Except Reject Instr :=
  match (fF w).toNat with
  | 0x00 => .ok (.fadd (fG w) (fD w) (fA w) (fB w))
  | 0x01 => .ok (.fsub (fG w) (fD w) (fA w) (fB w))
  | 0x02 => .ok (.fmul (fG w) (fD w) (fA w) (fB w))
  | 0x03 => .ok (.fdiv (fG w) (fD w) (fA w) (fB w))
  | 0x04 => .ok (.fmin (fG w) (fD w) (fA w) (fB w))
  | 0x05 => .ok (.fmax (fG w) (fD w) (fA w) (fB w))
  | 0x06 => field (.fsqrt (fG w) (fD w) (fA w)) (fB w != 0) false
  | 0x07 => field (.fabs (fG w) (fD w) (fA w)) (fB w != 0) false
  | 0x08 => field (.fneg (fG w) (fD w) (fA w)) (fB w != 0) false
  | 0x09 => .ok (.fcpys (fG w) (fD w) (fA w) (fB w))
  | 0x0A => field (.frcp (fG w) (fD w) (fA w)) (fB w != 0) false
  | 0x0B => field (.frsq (fG w) (fD w) (fA w)) (fB w != 0) false
  | 0x0C => field (.fexp2 (fG w) (fD w) (fA w)) (fB w != 0) false
  | 0x0D => field (.flog2 (fG w) (fD w) (fA w)) (fB w != 0) false
  | 0x0E => field (.fsin (fG w) (fD w) (fA w)) (fB w != 0) false
  | 0x0F => field (.fcos (fG w) (fD w) (fA w)) (fB w != 0) false
  | 0x10 => field (.ftanh (fG w) (fD w) (fA w)) (fB w != 0) false
  | _ => unassigned w

/-- Major 0x19 (R232). Three-operand floating point. -/
def decode19 (w : Word) : Except Reject Instr :=
  match (fF w).toNat with
  | 0x00 => .ok (.ffma (fG w) (fD w) (fA w) (fB w))
  | 0x01 => .ok (.ffnma (fG w) (fD w) (fA w) (fB w))
  | 0x02 => .ok (.fdot2 (fG w) (fD w) (fA w) (fB w))
  | 0x03 => .ok (.fdot4 (fG w) (fD w) (fA w) (fB w))
  | _ => unassigned w

/-- Major 0x1B (R232). Classification, rounding, status. -/
def decode1B (w : Word) : Except Reject Instr :=
  match (fF w).toNat with
  | 0x00 => field (.fclass (fG w) (fD w) (fA w)) (fB w != 0) false
  | 0x01 => field (.frint (fG w) (fD w) (fA w)) (fB w != 0) false
  | 0x02 => field (.fstat (fG w) (fD w)) (fA w != 0 || fB w != 0) false
  | _ => unassigned w

/-- Major 0x1E (R232). Packing and tags. -/
def decode1E (w : Word) : Except Reject Instr :=
  match (fF w).toNat with
  | 0x00 => .ok (.pack (fG w) (fD w) (fA w) (fB w))
  | 0x01 => field (.unpkLo (fG w) (fD w) (fA w)) (fB w != 0) false
  | 0x02 => field (.unpkHi (fG w) (fD w) (fA w)) (fB w != 0) false
  | 0x03 => field (.tagset (fG w) (fD w) (fA w) ((fB w).setWidth 4)) ((fB w).extractLsb' 4 2 != 0) false
  | 0x04 => field (.tagchk (fG w) ((fD w).setWidth 3) (fA w) ((fB w).setWidth 4)) ((fB w).extractLsb' 4 2 != 0) ((fD w).extractLsb' 3 3 != 0)
  | 0x05 => field (.tagrd (fG w) (fD w) (fA w)) (fB w != 0) false
  | _ => unassigned w

/-- Major 0x27 (R232). Reductions, fences and monitors. -/
def decode27 (w : Word) : Except Reject Instr :=
  match (fF w).toNat with
  | 0x00 =>
    if redOk ((fD w).extractLsb' 4 1) ((fD w).extractLsb' 0 4) then
      field (.red (fG w) ((fD w).extractLsb' 4 1) ((fD w).extractLsb' 0 4) (fA w) (fB w)) ((fD w).extractLsb' 5 1 != 0) false
    else unassigned w
  | 0x01 => field (.pref (fG w) (fA w)) (fD w != 0 || fB w != 0) false
  | 0x02 => field (.fence (fG w)) (fD w != 0 || fA w != 0 || fB w != 0) false
  | 0x03 => field (.ifence (fG w)) (fD w != 0 || fA w != 0 || fB w != 0) false
  | 0x04 => field (.mona (fG w) (fA w)) (fD w != 0 || fB w != 0) false
  | 0x05 => field (.mwait (fG w)) (fD w != 0 || fA w != 0 || fB w != 0) false
  | _ => unassigned w

/-- Major 0x2A (R232). Queues, flags and regions. -/
def decode2A (w : Word) : Except Reject Instr :=
  match (fF w).toNat with
  | 0x00 => field (.qput (fG w) (fA w)) (fD w != 0 || fB w != 0) false
  | 0x01 => field (.qget (fG w) (fD w)) (fA w != 0 || fB w != 0) false
  | 0x02 => field (.flagSet (fG w) (fA w)) (fD w != 0 || fB w != 0) false
  | 0x03 => field (.flagClr (fG w) (fA w)) (fD w != 0 || fB w != 0) false
  | 0x04 => field (.fwaitAny (fG w) (fD w) (fA w)) (fB w != 0) false
  | 0x05 => field (.fwaitAll (fG w) (fD w) (fA w)) (fB w != 0) false
  | 0x06 => field (.rgnc (fG w)) (fD w != 0 || fA w != 0 || fB w != 0) false
  | 0x07 => field (.rgnx (fG w)) (fD w != 0 || fA w != 0 || fB w != 0) false
  | _ => unassigned w

/-- Major 0x2D (R232). Copies. -/
def decode2D (w : Word) : Except Reject Instr :=
  match (fF w).toNat with
  | 0x00 => .ok (.cps (fG w) (fD w) (fA w) (fB w))
  | 0x01 => .ok (.cpg (fG w) (fD w) (fA w) (fB w))
  | 0x02 => .ok (.cpt (fG w) (fD w) (fA w) (fB w))
  | _ => unassigned w

/-- Major 0x2E (R232). Batches and counters. -/
def decode2E (w : Word) : Except Reject Instr :=
  match (fF w).toNat with
  | 0x00 => field (.cpseal (fG w) (fD w)) (fA w != 0 || fB w != 0) false
  | 0x01 => field (.cpwait (fG w) (fA w)) (fD w != 0 || fB w != 0) false
  | 0x02 => .ok (.cpctrG (fG w) (fD w) (fA w) (fB w))
  | 0x03 => .ok (.cpctrT (fG w) (fD w) (fA w) (fB w))
  | 0x04 => .ok (.cpctrC (fG w) (fD w) (fA w) (fB w))
  | 0x05 => .ok (.cpctrD (fG w) (fD w) (fA w) (fB w))
  | 0x06 => .ok (.cpctrV (fG w) (fD w) (fA w) (fB w))
  | 0x07 => .ok (.cpctrS (fG w) (fD w) (fA w) (fB w))
  | _ => unassigned w

/-- Major 0x2F (R232). Slots. -/
def decode2F (w : Word) : Except Reject Instr :=
  match (fF w).toNat with
  | 0x00 => field (.slotx (fG w) (fD w) (fA w)) (fB w != 0) false
  | 0x01 => field (.slotw (fG w) (fD w) ((fA w).setWidth 1)) ((fA w).extractLsb' 1 5 != 0 || fB w != 0) false
  | 0x02 => field (.slotr (fG w) (fD w)) (fA w != 0 || fB w != 0) false
  | 0x03 => field (.slotq (fG w) (fD w) (fA w)) (fB w != 0) false
  | _ => unassigned w

/-- Major 0x30 (R232). Messages. -/
def decode30 (w : Word) : Except Reject Instr :=
  match (fF w).toNat with
  | 0x00 => .ok (.msend (fG w) (fD w) (fA w) (fB w))
  | 0x01 => .ok (.msendNb (fG w) (fD w) (fA w) (fB w))
  | _ => unassigned w

/-- Major 0x31 (R232). Rings. -/
def decode31 (w : Word) : Except Reject Instr :=
  match (fF w).toNat with
  | 0x00 => field (.mringSet (fG w) ((fD w).setWidth 3) (fA w)) ((fD w).extractLsb' 3 3 != 0 || fB w != 0) false
  | 0x01 => field (.mringOff (fG w) ((fD w).setWidth 3)) ((fD w).extractLsb' 3 3 != 0 || fA w != 0 || fB w != 0) false
  | 0x02 => field (.mringPop (fG w) ((fD w).setWidth 3) (fA w)) ((fD w).extractLsb' 3 3 != 0 || fB w != 0) false
  | 0x03 => field (.mringWatch (fG w) ((fD w).setWidth 3)) ((fD w).extractLsb' 3 3 != 0 || fA w != 0 || fB w != 0) false
  | 0x04 => field (.mringQ (fG w) ((fD w).setWidth 3) (fA w)) ((fD w).extractLsb' 3 3 != 0 || fB w != 0) false
  | _ => unassigned w

/-- Major 0x35 (R232). Tiles and drains. -/
def decode35 (w : Word) : Except Reject Instr :=
  match (fF w).toNat with
  | 0x00 => field (.mzero (fG w) (fD w)) (fA w != 0 || fB w != 0) false
  | 0x01 => field (.mlda (fG w) (fD w) (fA w)) (fB w != 0) false
  | 0x02 => field (.mdrnS (fG w) (fD w) (fA w) ((fB w).setWidth 4)) ((fB w).extractLsb' 4 2 != 0) false
  | 0x03 => field (.mdrnSadd (fG w) (fD w) (fA w) ((fB w).setWidth 4)) ((fB w).extractLsb' 4 2 != 0) false
  | 0x04 => field (.mdrnG (fG w) (fD w) (fA w) ((fB w).setWidth 4)) ((fB w).extractLsb' 4 2 != 0) false
  | 0x05 => field (.mdrnGadd (fG w) (fD w) (fA w) ((fB w).setWidth 4)) ((fB w).extractLsb' 4 2 != 0) false
  | _ => unassigned w

/-- Major 0x37 (R232). Optimiser. -/
def decode37 (w : Word) : Except Reject Instr :=
  match (fF w).toNat with
  | 0x00 => .ok (.oadam (fG w) (fD w) (fA w) (fB w))
  | 0x01 => .ok (.osgd (fG w) (fD w) (fA w) (fB w))
  | 0x02 => .ok (.vredAdd (fG w) (fD w) (fA w) (fB w))
  | 0x03 => .ok (.vredMax (fG w) (fD w) (fA w) (fB w))
  | _ => unassigned w

/-- Major 0x38 (R232). Knot grids. -/
def decode38 (w : Word) : Except Reject Instr :=
  match (fF w).toNat with
  | 0x00 => field (.splkg (fG w) ((fD w).setWidth 5) (fA w)) (fB w != 0) ((fD w).extractLsb' 5 1 != 0)
  | 0x01 => field (.splkq (fG w) ((fD w).setWidth 5) (fA w)) (fB w != 0) ((fD w).extractLsb' 5 1 != 0)
  | _ => unassigned w

/-- Major 0x39 (R232). Spline planes. -/
def decode39 (w : Word) : Except Reject Instr :=
  match (fF w).toNat with
  | 0x00 => .ok (.splld (fG w) (fD w) (fA w) (fB w))
  | 0x01 => .ok (.splst (fG w) (fD w) (fA w) (fB w))
  | 0x02 => field (.splrf (fG w) ((fD w).setWidth 5)) (fA w != 0 || fB w != 0) ((fD w).extractLsb' 5 1 != 0)
  | _ => unassigned w

/-- Major 0x3A (R232). Spline evaluation. -/
def decode3A (w : Word) : Except Reject Instr :=
  match (fF w).toNat with
  | 0x00 => field (.splev (fG w) (fD w) (fA w) ((fB w).setWidth 5)) false ((fB w).extractLsb' 5 1 != 0)
  | 0x01 => field (.spldr (fG w) (fD w) (fA w) ((fB w).setWidth 5)) false ((fB w).extractLsb' 5 1 != 0)
  | 0x02 => field (.splgr (fG w) (fD w) (fA w) ((fB w).setWidth 5)) false ((fB w).extractLsb' 5 1 != 0)
  | _ => unassigned w

/-- Major 0x3B (R232). System. -/
def decode3B (w : Word) : Except Reject Instr :=
  match (fF w).toNat with
  | 0x00 => field (.srd (fG w) (fD w) (fB w)) (fA w != 0) false
  | 0x01 => field (.clkq (fG w) (fD w)) (fA w != 0 || fB w != 0) false
  | 0x02 => field (.clkreq (fG w) (fA w) (fB w)) (fD w != 0) false
  | 0x03 => field (.trap (fG w) (fB w)) (fD w != 0 || fA w != 0) false
  | 0x04 => field (.brkpt (fG w) (fB w)) (fD w != 0 || fA w != 0) false
  | 0x05 => field (.probe (fG w) (fD w)) (fA w != 0 || fB w != 0) false
  | _ => unassigned w

/-- Major 0x3D (R232). Custodian instructions. -/
def decode3D (w : Word) : Except Reject Instr :=
  match (fF w).toNat with
  | 0x00 => field (.eret (fG w)) (fD w != 0 || fA w != 0 || fB w != 0) false
  | 0x01 => field (.halt (fG w)) (fD w != 0 || fA w != 0 || fB w != 0) false
  | 0x02 => field (.tlbinv (fG w) ((fD w).extractLsb' 2 2) ((fD w).setWidth 2) (fA w) (fB w)) ((fD w).extractLsb' 4 2 != 0) false
  | 0x03 => field (.accsave (fG w) (fD w) (fA w)) (fB w != 0) false
  | 0x04 => field (.accrest (fG w) (fD w) (fA w)) (fB w != 0) false
  | 0x05 => field (.accsaveV (fG w) (fA w)) (fD w != 0 || fB w != 0) false
  | 0x06 => field (.accrestV (fG w) (fA w)) (fD w != 0 || fB w != 0) false
  | _ => unassigned w

/-- Major 0x28 (R232, R304). Barriers: F[2:0] is the form and F[4:3] the level; level 11 and forms 6 and 7 are
unassigned minors. -/
def decode28 (w : Word) : Except Reject Instr :=
  if w.extractLsb' 3 2 = 3 then unassigned w
  else match (w.extractLsb' 0 3).toNat with
  | 0 => field (.bar (fG w) (fB w) (w.extractLsb' 3 2)) (fD w != 0 || fA w != 0) false
  | 1 => field (.bara (fG w) (fB w) (w.extractLsb' 3 2)) (fD w != 0 || fA w != 0) false
  | 2 => field (.barw (fG w) (fB w) (w.extractLsb' 3 2)) (fD w != 0 || fA w != 0) false
  | 3 => .ok (.barredOr (fG w) (fD w) (fA w) (fB w) (w.extractLsb' 3 2))
  | 4 => .ok (.barredAnd (fG w) (fD w) (fA w) (fB w) (w.extractLsb' 3 2))
  | 5 => .ok (.barredMax (fG w) (fD w) (fA w) (fB w) (w.extractLsb' 3 2))
  | _ => unassigned w

/-- What a word is (R222, R232). Every word decodes: to an instruction, to an unassigned encoding, or to a rejection
by name. -/
def decode (w : Word) : Except Reject Instr :=
  match (fMajor w).toNat with
  | 0x01 => decode01 w
  | 0x02 => decode02 w
  | 0x03 => .ok (.iaddi (fG w) (fD w) (fA w) (fI w))
  | 0x04 => .ok (.imuli (fG w) (fD w) (fA w) (fI w))
  | 0x05 => .ok (.andi (fG w) (fD w) (fA w) (fI w))
  | 0x06 => .ok (.ori (fG w) (fD w) (fA w) (fI w))
  | 0x07 => .ok (.xori (fG w) (fD w) (fA w) (fI w))
  | 0x08 => .ok (.shli (fG w) (fD w) (fA w) (fI w))
  | 0x09 => .ok (.shri (fG w) (fD w) (fA w) (fI w))
  | 0x0A => .ok (.sari (fG w) (fD w) (fA w) (fI w))
  | 0x0B => field (.movi (fG w) (fD w) (fI w)) (fA w != 0) false
  | 0x0C => decode0C w
  | 0x0D => .ok (.aaddi (fG w) (fD w) (fA w) (fI w))
  | 0x10 =>
    if (w.extractLsb' 0 4).toNat ≤ 9 then field (.icmp (fG w) ((fD w).setWidth 3) (fA w) (fB w) (w.extractLsb' 4 1) (w.extractLsb' 0 4)) false ((fD w).extractLsb' 3 3 != 0)
    else unassigned w
  | 0x11 => decode11 w
  | 0x12 => field (.sel (fG w) (fD w) (fA w) (fB w) (w.extractLsb' 0 3)) (w.extractLsb' 3 2 != 0) false
  | 0x13 => decode13 w
  | 0x14 => .ok (.bra (fG w) (fT w))
  | 0x15 => .ok (.call (fG w) (fT w))
  | 0x16 => decode16 w
  | 0x18 => decode18 w
  | 0x19 => decode19 w
  | 0x1A => field (.fcmp (fG w) ((fD w).setWidth 3) (fA w) (fB w) (w.extractLsb' 0 3)) (w.extractLsb' 3 2 != 0)
      ((fD w).extractLsb' 3 3 != 0)
  | 0x1B => decode1B w
  | 0x1C =>
    if 2 ≤ (w.extractLsb' 0 4).toNat ∧ (w.extractLsb' 0 4).toNat ≤ 6 then
      field (.cvt (fG w) (fD w) (fA w) (fB w) (w.extractLsb' 0 4)) (w.extractLsb' 4 1 != 0) false
    else unassigned w
  | 0x1D =>
    if cvtiOk (w.extractLsb' 4 1) (w.extractLsb' 0 4) then
      .ok (.cvti (fG w) (fD w) (fA w) (fB w) (w.extractLsb' 4 1) (w.extractLsb' 0 4))
    else unassigned w
  | 0x1E => decode1E w
  | 0x20 => .ok (.ld (fG w) (fD w) (fA w) (fO w) (fW w))
  | 0x21 => .ok (.st (fG w) (fD w) (fA w) (fO w) (fW w))
  | 0x22 => .ok (.lds (fG w) (fD w) (fA w) (fO w) (fW w))
  | 0x23 => .ok (.sts (fG w) (fD w) (fA w) (fO w) (fW w))
  | 0x24 => .ok (.ldc (fG w) (fD w) (fA w) (fO w) (fW w))
  | 0x25 =>
    if atomOk (w.extractLsb' 4 1) (w.extractLsb' 0 4) then
      .ok (.atom (fG w) (fD w) (fA w) (fB w) (w.extractLsb' 4 1) (w.extractLsb' 0 4))
    else unassigned w
  | 0x26 =>
    if atomOk (w.extractLsb' 4 1) (w.extractLsb' 0 4) then
      .ok (.atoms (fG w) (fD w) (fA w) (fB w) (w.extractLsb' 4 1) (w.extractLsb' 0 4))
    else unassigned w
  | 0x27 => decode27 w
  | 0x28 => decode28 w
  | 0x29 => field (.cvset (fG w) ((fD w).setWidth 5) (fI w)) (fA w != 0) ((fD w).extractLsb' 5 1 != 0)
  | 0x2A => decode2A w
  | 0x2B =>
    if fD w = 0 then .ok (.rgnb (fG w) (fA w) (fI w))
    else if fD w = 1 then .ok (.rgnn (fG w) (fA w) (fI w))
    else unassigned w
  | 0x2C => field (.cpb (fG w) (fD w) (fA w) (fB w)) (fF w != 0) false
  | 0x2D => decode2D w
  | 0x2E => decode2E w
  | 0x2F => decode2F w
  | 0x30 => decode30 w
  | 0x31 => decode31 w
  | 0x32 =>
    if w.extractLsb' 0 2 = 3 then unassigned w
    else field (.mma (fG w) (fD w) (fA w) (fB w) (w.extractLsb' 3 1) (w.extractLsb' 2 1) (w.extractLsb' 0 2))
      (w.extractLsb' 4 1 != 0) false
  | 0x33 =>
    if w.extractLsb' 0 2 = 3 then unassigned w
    else field (.mmas (fG w) (fD w) (fA w) (fB w) (w.extractLsb' 3 1) (w.extractLsb' 2 1) (w.extractLsb' 0 2))
      (w.extractLsb' 4 1 != 0) false
  | 0x34 =>
    if w.extractLsb' 0 2 = 3 ∨ w.extractLsb' 2 2 = 3 then unassigned w
    else field (.mmaq (fG w) (fD w) (fA w) (fB w) (w.extractLsb' 2 2) (w.extractLsb' 0 2))
      (w.extractLsb' 4 1 != 0) false
  | 0x35 => decode35 w
  | 0x36 => field (.mmv (fG w) (fA w) (fB w) (w.extractLsb' 0 2)) (fD w != 0 || w.extractLsb' 2 3 != 0) false
  | 0x37 => decode37 w
  | 0x38 => decode38 w
  | 0x39 => decode39 w
  | 0x3A => decode3A w
  | 0x3B => decode3B w
  | 0x3C =>
    if fD w = 0 then .ok (.csrw (fG w) (fA w) (fI w))
    else if fA w = 0 then .ok (.csrr (fG w) (fD w) (fI w))
    else unassigned w
  | 0x3D => decode3D w
  | 0x3F =>
    match (w.extractLsb' 24 2).toNat with
    | 0 => .ok (.hwide (fP w))
    | 1 => .ok (.hmod (fP w))
    | 2 => .ok (.hsched (fP w))
    | _ => .error (.hintKind (fP w))
  | _ => unassigned w

/-- The word of the fields that RRR and E words share (R222). -/
def wordRRR (major : Nat) (g : BitVec 3) (d a b : BitVec 6) (f : BitVec 5) : Word :=
  BitVec.ofNat 6 major ++ g ++ d ++ a ++ b ++ f
/-- The word of an RI instruction (R222). -/
def wordRI (major : Nat) (g : BitVec 3) (d a : BitVec 6) (i : BitVec 11) : Word :=
  BitVec.ofNat 6 major ++ g ++ d ++ a ++ i
/-- The word of an M instruction (R222). -/
def wordM (major : Nat) (g : BitVec 3) (d a : BitVec 6) (o : BitVec 8) (w : BitVec 3) : Word :=
  BitVec.ofNat 6 major ++ g ++ d ++ a ++ o ++ w
/-- The word of a BR instruction (R222). -/
def wordBR (major : Nat) (g : BitVec 3) (o : BitVec 23) : Word :=
  BitVec.ofNat 6 major ++ g ++ o
/-- A hint word (R222, R227). -/
def wordH (kind : Nat) (p : BitVec 24) : Word :=
  0x3F#6 ++ BitVec.ofNat 2 kind ++ p

/-- The word of an instruction, from the encoding tables of R222 and R232 to R234. A row that has no word is given 0. -/
def encode : Instr → Word
  | .iadd g d a b => wordRRR 0x01 g d a b 0
  | .isub g d a b => wordRRR 0x01 g d a b 1
  | .imul g d a b => wordRRR 0x01 g d a b 2
  | .imulh g d a b => wordRRR 0x01 g d a b 3
  | .imulhu g d a b => wordRRR 0x01 g d a b 4
  | .idiv g d a b => wordRRR 0x01 g d a b 5
  | .idivu g d a b => wordRRR 0x01 g d a b 6
  | .irem g d a b => wordRRR 0x01 g d a b 7
  | .iremu g d a b => wordRRR 0x01 g d a b 8
  | .imin g d a b => wordRRR 0x01 g d a b 9
  | .imax g d a b => wordRRR 0x01 g d a b 10
  | .iminu g d a b => wordRRR 0x01 g d a b 11
  | .imaxu g d a b => wordRRR 0x01 g d a b 12
  | .iadds g d a b => wordRRR 0x01 g d a b 13
  | .isubs g d a b => wordRRR 0x01 g d a b 14
  | .iabs g d a => wordRRR 0x01 g d a 0 15
  | .and g d a b => wordRRR 0x02 g d a b 0
  | .or g d a b => wordRRR 0x02 g d a b 1
  | .xor g d a b => wordRRR 0x02 g d a b 2
  | .andn g d a b => wordRRR 0x02 g d a b 3
  | .orn g d a b => wordRRR 0x02 g d a b 4
  | .xnor g d a b => wordRRR 0x02 g d a b 5
  | .shl g d a b => wordRRR 0x02 g d a b 6
  | .shr g d a b => wordRRR 0x02 g d a b 7
  | .sar g d a b => wordRRR 0x02 g d a b 8
  | .rol g d a b => wordRRR 0x02 g d a b 9
  | .rot g d a b => wordRRR 0x02 g d a b 10
  | .popc g d a => wordRRR 0x02 g d a 0 11
  | .clz g d a => wordRRR 0x02 g d a 0 12
  | .ctz g d a => wordRRR 0x02 g d a 0 13
  | .brev g d a => wordRRR 0x02 g d a 0 14
  | .bfe g d a b => wordRRR 0x02 g d a b 15
  | .bfi g d a b => wordRRR 0x02 g d a b 16
  | .mov g d a => wordRRR 0x02 g d a 0 17
  | .iaddi g d a i => wordRI 0x03 g d a i
  | .imuli g d a i => wordRI 0x04 g d a i
  | .andi g d a i => wordRI 0x05 g d a i
  | .ori g d a i => wordRI 0x06 g d a i
  | .xori g d a i => wordRI 0x07 g d a i
  | .shli g d a c => wordRI 0x08 g d a c
  | .shri g d a c => wordRI 0x09 g d a c
  | .sari g d a c => wordRI 0x0A g d a c
  | .movi g d i => wordRI 0x0B g d 0 i
  | .aadd g d a b => wordRRR 0x0C g d a b 0
  | .asub g d a b => wordRRR 0x0C g d a b 1
  | .aadds g d a b => wordRRR 0x0C g d a b 2
  | .aaddu g d a b => wordRRR 0x0C g d a b 3
  | .amov g d a => wordRRR 0x0C g d a 0 4
  | .amuls g d a b => wordRRR 0x0C g d a b 5
  | .amulu g d a b => wordRRR 0x0C g d a b 6
  | .aaddi g d a i => wordRI 0x0D g d a i
  | .icmp g d a b w c => wordRRR 0x10 g (d.setWidth 6) a b (w ++ c)
  | .pand g d a b => wordRRR 0x11 g (d.setWidth 6) (a.setWidth 6) (b.setWidth 6) 0
  | .por g d a b => wordRRR 0x11 g (d.setWidth 6) (a.setWidth 6) (b.setWidth 6) 1
  | .pxor g d a b => wordRRR 0x11 g (d.setWidth 6) (a.setWidth 6) (b.setWidth 6) 2
  | .pandn g d a b => wordRRR 0x11 g (d.setWidth 6) (a.setWidth 6) (b.setWidth 6) 3
  | .pnot g d a => wordRRR 0x11 g (d.setWidth 6) (a.setWidth 6) 0 4
  | .pmov g d a => wordRRR 0x11 g (d.setWidth 6) (a.setWidth 6) 0 5
  | .pget g d => wordRRR 0x11 g d 0 0 6
  | .pput g a => wordRRR 0x11 g 0 a 0 7
  | .sel g d a b p => wordRRR 0x12 g d a b (0#2 ++ p)
  | .voteAny g d a => wordRRR 0x13 g (d.setWidth 6) (a.setWidth 6) 0 0
  | .voteAll g d a => wordRRR 0x13 g (d.setWidth 6) (a.setWidth 6) 0 1
  | .voteBal g d a => wordRRR 0x13 g d (a.setWidth 6) 0 2
  | .shflIdx g d a b => wordRRR 0x13 g d a b 3
  | .shflUp g d a b => wordRRR 0x13 g d a b 4
  | .shflDown g d a b => wordRRR 0x13 g d a b 5
  | .shflXor g d a b => wordRRR 0x13 g d a b 6
  | .bra g o => wordBR 0x14 g o
  | .call g o => wordBR 0x15 g o
  | .ret g a => wordRRR 0x16 g 0 a 0 0
  | .jmpr g a => wordRRR 0x16 g 0 a 0 1
  | .callr g a => wordRRR 0x16 g 0 a 0 2
  | .brx g a b => wordRRR 0x16 g 0 a b 3
  | .exit g => wordRRR 0x16 g 0 0 0 4
  | .nop g => wordRRR 0x16 g 0 0 0 5
  | .yield g => wordRRR 0x16 g 0 0 0 6
  | .schsel g d a b => wordRRR 0x16 g d a b 7
  | .fadd g d a b => wordRRR 0x18 g d a b 0
  | .fsub g d a b => wordRRR 0x18 g d a b 1
  | .fmul g d a b => wordRRR 0x18 g d a b 2
  | .fdiv g d a b => wordRRR 0x18 g d a b 3
  | .fmin g d a b => wordRRR 0x18 g d a b 4
  | .fmax g d a b => wordRRR 0x18 g d a b 5
  | .fsqrt g d a => wordRRR 0x18 g d a 0 6
  | .fabs g d a => wordRRR 0x18 g d a 0 7
  | .fneg g d a => wordRRR 0x18 g d a 0 8
  | .fcpys g d a b => wordRRR 0x18 g d a b 9
  | .frcp g d a => wordRRR 0x18 g d a 0 10
  | .frsq g d a => wordRRR 0x18 g d a 0 11
  | .fexp2 g d a => wordRRR 0x18 g d a 0 12
  | .flog2 g d a => wordRRR 0x18 g d a 0 13
  | .fsin g d a => wordRRR 0x18 g d a 0 14
  | .fcos g d a => wordRRR 0x18 g d a 0 15
  | .ftanh g d a => wordRRR 0x18 g d a 0 16
  | .ffma g d a b => wordRRR 0x19 g d a b 0
  | .ffnma g d a b => wordRRR 0x19 g d a b 1
  | .fdot2 g d a b => wordRRR 0x19 g d a b 2
  | .fdot4 g d a b => wordRRR 0x19 g d a b 3
  | .fcmp g d a b c => wordRRR 0x1A g (d.setWidth 6) a b (0#2 ++ c)
  | .fclass g d a => wordRRR 0x1B g d a 0 0
  | .frint g d a => wordRRR 0x1B g d a 0 1
  | .fstat g d => wordRRR 0x1B g d 0 0 2
  | .cvt g d a b t => wordRRR 0x1C g d a b (0#1 ++ t)
  | .cvti g d a b u t => wordRRR 0x1D g d a b (u ++ t)
  | .pack g d a b => wordRRR 0x1E g d a b 0
  | .unpkLo g d a => wordRRR 0x1E g d a 0 1
  | .unpkHi g d a => wordRRR 0x1E g d a 0 2
  | .tagset g d a t => wordRRR 0x1E g d a (t.setWidth 6) 3
  | .tagchk g d a t => wordRRR 0x1E g (d.setWidth 6) a (t.setWidth 6) 4
  | .tagrd g d a => wordRRR 0x1E g d a 0 5
  | .ld g d a o w => wordM 0x20 g d a o w
  | .st g s a o w => wordM 0x21 g s a o w
  | .lds g d a o w => wordM 0x22 g d a o w
  | .sts g s a o w => wordM 0x23 g s a o w
  | .ldc g d a o w => wordM 0x24 g d a o w
  | .atom g d a b w p => wordRRR 0x25 g d a b (w ++ p)
  | .atoms g d a b w p => wordRRR 0x26 g d a b (w ++ p)
  | .red g w p a b => wordRRR 0x27 g (0#1 ++ w ++ p) a b 0
  | .pref g a => wordRRR 0x27 g 0 a 0 1
  | .fence g => wordRRR 0x27 g 0 0 0 2
  | .ifence g => wordRRR 0x27 g 0 0 0 3
  | .mona g a => wordRRR 0x27 g 0 a 0 4
  | .mwait g => wordRRR 0x27 g 0 0 0 5
  | .bar g n l => wordRRR 0x28 g 0 0 n (l ++ 0#3)
  | .bara g n l => wordRRR 0x28 g 0 0 n (l ++ 1#3)
  | .barw g n l => wordRRR 0x28 g 0 0 n (l ++ 2#3)
  | .barredOr g d a n l => wordRRR 0x28 g d a n (l ++ 3#3)
  | .barredAnd g d a n l => wordRRR 0x28 g d a n (l ++ 4#3)
  | .barredMax g d a n l => wordRRR 0x28 g d a n (l ++ 5#3)
  | .cvset g d i => wordRI 0x29 g (d.setWidth 6) 0 i
  | .qput g a => wordRRR 0x2A g 0 a 0 0
  | .qget g d => wordRRR 0x2A g d 0 0 1
  | .flagSet g a => wordRRR 0x2A g 0 a 0 2
  | .flagClr g a => wordRRR 0x2A g 0 a 0 3
  | .fwaitAny g d a => wordRRR 0x2A g d a 0 4
  | .fwaitAll g d a => wordRRR 0x2A g d a 0 5
  | .rgnc g => wordRRR 0x2A g 0 0 0 6
  | .rgnx g => wordRRR 0x2A g 0 0 0 7
  | .rgnb g a i => wordRI 0x2B g 0 a i
  | .rgnn g a i => wordRI 0x2B g 1 a i
  | .cpb g x y z => wordRRR 0x2C g x y z 0
  | .cps g x y z => wordRRR 0x2D g x y z 0
  | .cpg g x y z => wordRRR 0x2D g x y z 1
  | .cpt g x y z => wordRRR 0x2D g x y z 2
  | .cpseal g d => wordRRR 0x2E g d 0 0 0
  | .cpwait g a => wordRRR 0x2E g 0 a 0 1
  | .cpctrG g d a b => wordRRR 0x2E g d a b 2
  | .cpctrT g d a b => wordRRR 0x2E g d a b 3
  | .cpctrC g d a b => wordRRR 0x2E g d a b 4
  | .cpctrD g d a b => wordRRR 0x2E g d a b 5
  | .cpctrV g d a b => wordRRR 0x2E g d a b 6
  | .cpctrS g d a b => wordRRR 0x2E g d a b 7
  | .slotx g x y => wordRRR 0x2F g x y 0 0
  | .slotw g x p => wordRRR 0x2F g x (p.setWidth 6) 0 1
  | .slotr g x => wordRRR 0x2F g x 0 0 2
  | .slotq g x y => wordRRR 0x2F g x y 0 3
  | .msend g x y z => wordRRR 0x30 g x y z 0
  | .msendNb g x y z => wordRRR 0x30 g x y z 1
  | .mringSet g r a => wordRRR 0x31 g (r.setWidth 6) a 0 0
  | .mringOff g r => wordRRR 0x31 g (r.setWidth 6) 0 0 1
  | .mringPop g r a => wordRRR 0x31 g (r.setWidth 6) a 0 2
  | .mringWatch g r => wordRRR 0x31 g (r.setWidth 6) 0 0 3
  | .mringQ g r d => wordRRR 0x31 g (r.setWidth 6) d 0 4
  | .mma g x y z t s k => wordRRR 0x32 g x y z (0#1 ++ t ++ s ++ k)
  | .mmas g x y z t s k => wordRRR 0x33 g x y z (0#1 ++ t ++ s ++ k)
  | .mmaq g x y z q k => wordRRR 0x34 g x y z (0#1 ++ q ++ k)
  | .mzero g x => wordRRR 0x35 g x 0 0 0
  | .mlda g x y => wordRRR 0x35 g x y 0 1
  | .mdrnS g x y f => wordRRR 0x35 g x y (f.setWidth 6) 2
  | .mdrnSadd g x y f => wordRRR 0x35 g x y (f.setWidth 6) 3
  | .mdrnG g x y f => wordRRR 0x35 g x y (f.setWidth 6) 4
  | .mdrnGadd g x y f => wordRRR 0x35 g x y (f.setWidth 6) 5
  | .mmv g y z w => wordRRR 0x36 g 0 y z (0#3 ++ w)
  | .oadam g x y z => wordRRR 0x37 g x y z 0
  | .osgd g x y z => wordRRR 0x37 g x y z 1
  | .vredAdd g x y z => wordRRR 0x37 g x y z 2
  | .vredMax g x y z => wordRRR 0x37 g x y z 3
  | .splkg g x y => wordRRR 0x38 g (x.setWidth 6) y 0 0
  | .splkq g x y => wordRRR 0x38 g (x.setWidth 6) y 0 1
  | .splld g x y z => wordRRR 0x39 g x y z 0
  | .splst g x y z => wordRRR 0x39 g x y z 1
  | .splrf g x => wordRRR 0x39 g (x.setWidth 6) 0 0 2
  | .splev g x y z => wordRRR 0x3A g x y (z.setWidth 6) 0
  | .spldr g x y z => wordRRR 0x3A g x y (z.setWidth 6) 1
  | .splgr g x y z => wordRRR 0x3A g x y (z.setWidth 6) 2
  | .srd g d n => wordRRR 0x3B g d 0 n 0
  | .clkq g d => wordRRR 0x3B g d 0 0 1
  | .clkreq g a b => wordRRR 0x3B g 0 a b 2
  | .trap g c => wordRRR 0x3B g 0 0 c 3
  | .brkpt g c => wordRRR 0x3B g 0 0 c 4
  | .probe g d => wordRRR 0x3B g d 0 0 5
  | .csrr g d n => wordRI 0x3C g d 0 n
  | .csrw g a n => wordRI 0x3C g 0 a n
  | .eret g => wordRRR 0x3D g 0 0 0 0
  | .halt g => wordRRR 0x3D g 0 0 0 1
  | .tlbinv g s e y z => wordRRR 0x3D g (0#2 ++ s ++ e) y z 2
  | .accsave g x y => wordRRR 0x3D g x y 0 3
  | .accrest g x y => wordRRR 0x3D g x y 0 4
  | .accsaveV g y => wordRRR 0x3D g 0 y 0 5
  | .accrestV g y => wordRRR 0x3D g 0 y 0 6
  | .hwide p => wordH 0 p
  | .hmod p => wordH 1 p
  | .hsched p => wordH 2 p
  | .qtailWrite _ _ => 0
  | .launch => 0
  | .gang => 0
  | .gangCommit => 0
  | .gangTimeout => 0
  | .wait => 0
  | .waitRelease => 0
  | .waitPoll => 0
  | .signal => 0
  | .nopPacket => 0
  | .qcreate => 0
  | .qdestroy => 0
  | .queueDisable => 0
  | .qprio => 0
  | .qreset => 0
  | .regwrite => 0
  | .partition => 0
  | .preempt => 0
  | .adminResume => 0
  | .adminHalt => 0
  | .adminEnd => 0
  | .fwload => 0
  | .svncommit => 0
  | .curatorRestartComplete => 0
  | .dispatchDraw => 0
  | .teamPlacement _ _ => 0
  | .guaranteedTeamRelease => 0
  | .granuleZeroed => 0
  | .teamRetire => 0
  | .launchRetire => 0
  | .teamPreempt => 0
  | .teamWake => 0
  | .teamRestore => 0
  | .deferredReport => 0
  | .accownClaim => 0
  | .copyCommandStart => 0
  | .bulkCommandStart => 0
  | .slotBytesArrive => 0
  | .slotReadComplete => 0
  | .copyCommandComplete => 0
  | .matrixEngineStep => 0
  | .plinthMmvComplete => 0
  | .regionDrainEntry => 0
  | .tlbinvComplete => 0
  | .walkComplete => 0
  | .sliceAccess => 0
  | .farAtomic => 0
  | .addOnStore => 0
  | .addOnStoreRelease => 0
  | .hbmAccess => 0
  | .hbmAgedRequest => 0
  | .memoryResponse => 0
  | .fetchFill => 0
  | .packetHop _ _ => 0
  | .packetAgeSaturate => 0
  | .messageAppend => 0
  | .cpctrPoll => 0
  | .routerFailure _ _ => 0
  | .galleryFailure _ => 0
  | .spirePowerDown => 0
  | .spirePowerUp => 0
  | .spirePowerDone => 0
  | .registerWrite _ _ _ => 0
  | .belfrycfgWrite _ => 0
  | .belfryEvaluation => 0
  | .powerOverCap => 0
  | .grantChange => 0
  | .powerMeasurement _ _ _ _ _ => 0
  | .thermalLimit _ _ => 0
  | .dbgdataRead => 0
  | .dbgdataWrite _ _ => 0
  | .reductionDoorbell _ _ => 0
  | .reductionEnd => 0
  | .reductionTimeout => 0
  | .hostAccess _ _ _ _ _ => 0
  | .peerAccess _ _ _ _ _ => 0
  | .flitReplay => 0
  | .fabricLinkChange _ _ => 0
  | .functionLevelReset => 0
  | .moduleReset => 0
  | .selfTestComplete _ _ => 0
  | .archiveCommit => 0
  | .orderlyPowerDown => 0
  | .scrubPass => 0
  | .watchdogProbe => 0
  | .timeSliceRequest => 0
  | .powerLoss => 0
  | .curatorMemoryError => 0
  | .unassignedEncoding w => w

/-- The four bytes of a word, lowest address first (R5). -/
def wordBytes (w : Word) : List Byte :=
  [w.extractLsb' 0 8, w.extractLsb' 8 8, w.extractLsb' 16 8, w.extractLsb' 24 8]

/-- The word that four bytes hold, lowest address first (R5). -/
def bytesWord (b0 b1 b2 b3 : Byte) : Word := b3 ++ b2 ++ b1 ++ b0

/-- Decoding a list of bytes: the instruction and the bytes after its word (R5, R222). -/
def decodeBytes : List Byte → Except Reject (Instr × List Byte)
  | b0 :: b1 :: b2 :: b3 :: rest =>
    match decode (bytesWord b0 b1 b2 b3) with
    | .ok i => .ok (i, rest)
    | .error r => .error r
  | _ => .error .tooShort

/-- The instruction the decoder reads from an instruction whose bits, numbered as spec/opcode_table.json numbers them,
are `w`; bits at `nbits` and above are zero. -/
def decodeTableWord (nbits w : Nat) : Option Instr :=
  match decodeBytes (wordBytes (BitVec.ofNat 32 (w % 2 ^ nbits))) with
  | .ok (i, _) => some i
  | .error _ => none

end Sys2Proof
end

