-- ==== Sys2Proof/Config.lean ====
section
/-! DEFINITION. What one part fixes and the manual leaves open: the values the machine writes and the manual does not
state (log 8). None of them has a body, so nothing can be proved of a value; every statement holds whatever they are. -/

namespace Sys2Proof.Config

/-- The `n`-th value of the stochastic-rounding generators, 0 to 65,535 (R108). Free (log 8). -/
opaque srDraw : Nat → BitVec 16

/-- The approximation of function `f` at the positive FP32 pattern `x` (R279): a place in the interval that
R279 allows, of 2^64 evenly spaced ones. Free (log 8). -/
opaque approx : Nat → BitVec 32 → BitVec 64

/-- The hash of a peer number and a 4 KiB block that chooses a fabric link (R429). Free (log 8). -/
opaque linkHash : Nat → Nat → Nat

/-- The `n`-th byte that the spill engine writes to a context save area, whose layout is private (R371). Free (log 8). -/
opaque saveByte : Nat → BitVec 8

/-- The tag that a register takes from a spill record whose tag code is reserved, one of the codes that are not (R101,
R373). Free (log 8). -/
opaque recordTag : BitVec 4 → Fin 14

end Sys2Proof.Config
end

