-- ==== Sys2Proof/Machine/Bits.lean ====
section
/-! DEFINITION. Bit fields, sign extension and byte order (R5, R6, R9). -/

namespace Sys2Proof.Machine

open Sys2Proof

/-- `n` bytes of `v`, lowest address first (R5). -/
def leBytes : Nat → Nat → List Byte
  | 0, _ => []
  | n + 1, v => BitVec.ofNat 8 v :: leBytes n (v / 256)

/-- The number that bytes hold, lowest address first (R5). -/
def ofLe : List Byte → Nat
  | [] => 0
  | b :: bs => b.toNat + 256 * ofLe bs

/-- Bits [hi:lo] of a number (R5). -/
def bitsOf (v hi lo : Nat) : Nat := v / 2 ^ lo % 2 ^ (hi + 1 - lo)

/-- Bits [lo + n − 1:lo] of a 64-bit value as a number (R5). -/
def slice (v : BitVec 64) (lo n : Nat) : Nat := (v.extractLsb' lo n).toNat

/-- Sign extension to 64 bits of the low `n` bits (R9 `sext`). -/
def sext64 (n : Nat) (v : BitVec 64) : BitVec 64 := (v.setWidth n).signExtend 64

/-- The low 32 bits, zero-extended (R9 `zext`). -/
def low32 (v : BitVec 64) : BitVec 64 := (v.setWidth 32).setWidth 64

/-- A virtual address is canonical when bits [63:52] all equal bit 51 (R16). -/
def canonical (va : BitVec 64) : Bool :=
  va.extractLsb' 51 13 == 0 || va.extractLsb' 51 13 == BitVec.allOnes 13

/-- A signed value clamped to [lo, hi] (R110 `sat`). -/
def satInt (x lo hi : Int) : Int := if x < lo then lo else if hi < x then hi else x

/-- The bits of a 64-bit word that are set, ascending. -/
def setBits (m : BitVec 64) : List Nat := (List.range 64).filter fun j => m.getLsbD j

/-- A 64-bit mask with the bits listed. -/
def maskOf (js : List Nat) : BitVec 64 := js.foldl (fun m j => m ||| BitVec.ofNat 64 (2 ^ j)) 0

/-- Address plus a count, modulo 2^64. -/
def addNat (a : BitVec 64) (n : Nat) : BitVec 64 := a + BitVec.ofNat 64 n

end Sys2Proof.Machine
end

