-- ==== Sys2Proof/Machine/State.lean ====
section
/-! DEFINITION. Everything the manual gives the LX-9 to hold, as plain data: threads, groups, teams, launches, queues,
cores, dies, memory, the engines' queues, the front end, the curator, the belfry, the host and the fabric; and the few
fields of the model's own, which are the agenda (which agent moves next), the bundle being issued, the selection of an
event and the counter of free values (INVENTORY.md, State; log 3, 5, 8). Teams, launches and commands are named by
their place in their lists, which never shrink, so that a name stays good; a retired one stays with status `retired`. -/

namespace Sys2Proof.Machine

open Sys2Proof

/-- Bytes by address: strictly rising addresses, no entry equal to 0, which an unlisted address reads as (log 1, 2). -/
abbrev Mem := List Host.Cell

/-! ## Names -/

/-- A thread: its team's place in `State.teams` and its place in `Team.threads`; the control thread, if the team has
one, stands after the lane threads (R169, R173). -/
structure Ref where
  team : Nat
  thr : Nat
  deriving DecidableEq, Repr, Inhabited

/-- One register with its tag (R53, R101). A G register uses bits [31:0]. -/
structure Reg where
  val : BitVec 64
  tag : Tag
  deriving DecidableEq, Repr, Inhabited

/-- The registers of one thread: G0 to G63 of a lane thread, or S0 to S31 of a control thread, which has no use of the
others (R172, R173). -/
abbrev RegFile := Vector Reg 64

/-- The causes of R357, highest first. -/
inductive Cause where
  | none | illegal | role | format | region | misaligned | translation | permission | scratchBounds | poison
  | accOwner | breakpoint | software | waitCycle
  deriving DecidableEq, Repr, Inhabited

/-- What one lane that fails records (R30, R236, R360, R365). -/
structure LaneFault where
  cause : Cause
  /-- Code of R30 or R236, 0x3F for none. -/
  reason : BitVec 6 := 0x3F
  /-- Access code of R360. -/
  acc : BitVec 3 := 0
  /-- Table level of a TRANSLATION walk (R360). -/
  level : BitVec 2 := 0
  va : BitVec 64 := 0
  info : BitVec 64 := 0
  info2 : BitVec 64 := 0
  deriving DecidableEq, Repr, Inhabited

/-- The record registers of a thread and its handler scratch (R356). -/
structure TrapRegs where
  epc : BitVec 64
  trsum : BitVec 32
  trmask : BitVec 64
  trsib : BitVec 64
  traddr : BitVec 64
  trlane : BitVec 32
  trva : BitVec 64
  trinfo : BitVec 64
  trinfo2 : BitVec 64
  tscr0 : BitVec 64
  tscr1 : BitVec 64
  deriving DecidableEq, Repr, Inhabited

/-- A hint word that has issued and waits for its instruction word (R227). -/
inductive Hint where
  | wide (p : BitVec 24)
  | mods (p : BitVec 24)
  | sched (p : BitVec 24)
  deriving DecidableEq, Repr, Inhabited

/-- The state of a slot (R63). -/
inductive SlotState where
  | empty | filling | ready | draining
  deriving DecidableEq, Repr, Inhabited

/-- What an instruction that cannot go on waits for (R64, R141, R181, R364, R369). A thread that waits issues its
instruction again once the wait is over; an instruction marked (arrived) has already acted and only completes then. -/
inductive Wait where
  /-- (arrived) BAR or BARRED of barrier `n` at `level`, until its phase number differs from `target`; `dst` takes the
  result (R305). -/
  | bar (level : BitVec 2) (n : Nat) (target : BitVec 32) (dst : Option (BitVec 6)) (op : BitVec 2)
  /-- A second arrival in one phase, or BARW: until the phase number differs from `target` (R305). -/
  | barPhase (level : BitVec 2) (n : Nat) (target : BitVec 32)
  /-- QGET on an empty queue (R175). -/
  | qget
  /-- QPUT on a full queue (R175). -/
  | qput
  /-- SLOTW of slot `n` for `phase`; `seen` once the phase has been equal (R327). `was` is the slot's PHASE and STATE when
  the thread stalled, whose change wakes it (R369). -/
  | slotPhase (n : Nat) (phase : Bool) (seen : Bool) (was : Bool × SlotState)
  /-- A consumer or SLOTR until slot `n` is READY (R64). -/
  | slotReady (n : Nat) (was : Bool × SlotState)
  /-- A producer until slot `n` is FILLING (R64). -/
  | slotFilling (n : Nat) (was : Bool × SlotState)
  /-- SLOTX until slot `n` is EMPTY (R64). -/
  | slotEmpty (n : Nat)
  /-- The matrix engine's queue is full (R321). -/
  | engineQueue
  /-- An accepted instruction that changes storage which this one's checks read is still to be performed (R319, R321). -/
  | engineBusy
  /-- The copy engine's queue is full (R146). -/
  | copyQueue
  /-- The group's report queue is full (R364). -/
  | reports
  /-- Earlier accesses of the thread are not yet performed (R124, R127, R128, R133, R136, R140). -/
  | performed
  /-- A page-table walk of the page of `va` is in progress, for a read, a write or a fetch (R35). -/
  | walk (va : BitVec 64) (rd wr ex : Bool)
  /-- The instruction line at physical address `pa`, of an ordinary or a plinth-laid page, is being filled (R28, R76). -/
  | fetch (pa : Nat) (plinth : Bool)
  /-- CPWAIT of batch `b` (R152). -/
  | batch (b : BitVec 32)
  /-- CPSEAL that would leave nine sealed batches incomplete, until batch `oldest` is complete (R151). -/
  | seal (oldest : BitVec 32)
  /-- CPCTR of the counter at place `addr` of the coherent image for `target`; `slept` when it holds an entry of its
  die's counter-wait table (R159, R165), `hit` once its line has been written (R369). -/
  | counter (addr : Nat) (target : BitVec 64) (slept : Bool) (hit : Bool)
  /-- SCHSEL until access `flight` has returned entry `k` of its class (R262). -/
  | catalog (k flight : Nat)
  /-- MWAIT (R300). -/
  | watch
  /-- (arrived) MSEND of message `id` (R163). -/
  | message (id : Nat)
  /-- FWAIT; `got` holds the word that satisfied it (R310), `hit` says that the flags have been written (R369). -/
  | flags (all : Bool) (mask : BitVec 32) (got : Option (BitVec 32)) (hit : Bool)
  /-- (arrived) TLBINV of invalidation `id` (R40). -/
  | tlbinv (id : Nat)
  /-- (arrived) a CSRW that claims accumulator storage, until it is zeroed (R376). -/
  | claim
  /-- (arrived) an instruction that the matrix engine holds, until it is performed (R351, R388). -/
  | engine (id : Nat)
  /-- The region store buffer still holds a draining region (R315). -/
  | storeBuffer
  /-- Storage that an eviction has not yet passed to the team (R209). -/
  | handover
  /-- A load or returning atomic of host or peer memory, for a pre-empted thread: the accesses to come (R369, R372). -/
  | far (flights : List Nat)
  deriving DecidableEq, Repr, Inhabited

/-- A thread's watch (R139, R161). -/
structure Watch where
  /-- The line's place in the coherent image, or `none` for a ring watch. -/
  line : Option Nat
  /-- Physical address of the line, and the translation that it was armed through (R39, R139). -/
  pa : Nat
  va : BitVec 64
  level : Nat
  glob : Bool
  asid : BitVec 16
  /-- Core and physical number of the ring, for a ring watch. -/
  ring : Option (Nat × Nat)
  armed : BitVec 16
  triggered : Bool
  /-- The watch holds a monitor entry at its home slice (R165). -/
  entry : Bool
  deriving DecidableEq, Repr, Inhabited

/-- One leaf as a TLB or a walk holds it (R23). -/
structure Leaf where
  /-- Table level of the leaf: 1, 2 or 3 (R21). -/
  level : Nat
  /-- Physical address of the page. -/
  base : Nat
  rd : Bool
  wr : Bool
  ex : Bool
  cust : Bool
  glob : Bool
  dirty : Bool
  kind : BitVec 2
  plinth : Bool
  deriving DecidableEq, Repr, Inhabited

/-- The result of a walk, kept for the requester's retry (R35): the page, and its leaf or the reason and level of the
fault. -/
structure WalkResult where
  va : BitVec 64
  leaf : Option Leaf
  reason : BitVec 6
  level : BitVec 2
  /-- The walk was made for a store, so DIRTY is set where it passed (R25). -/
  wr : Bool
  deriving DecidableEq, Repr, Inhabited

/-- One batch of copy commands (R151, R152). -/
structure Batch where
  number : BitVec 32
  sealed : Bool
  /-- Commands of the batch not yet complete. -/
  open_ : Nat
  /-- Faults of its commands that no CPWAIT has reported (R155). -/
  faults : List LaneFault
  deriving DecidableEq, Repr, Inhabited

/-- One lane or control thread (R171 to R173, R185, R189, R200, R211, R355, R356). -/
structure Thread where
  /-- Thread index in the team; the control thread reads 0xFFFF_FFFF (R171). -/
  tidx : BitVec 32
  /-- The control thread of its team (R173). -/
  ctl : Bool
  /-- Index of the half of the team that holds it (R170). -/
  half : Nat
  /-- Thread slot on its core (R51). -/
  slot : Nat
  /-- Group index (R170). -/
  group : Nat
  /-- Fragment: index in the group of the fragment's lowest thread (R185). -/
  frag : Nat
  /-- Where the thread has gone since it stood level with the rest of its fragment: the address after each unit it has
  completed and some other thread of the fragment has not (R185; log 9). -/
  path : List (BitVec 64)
  pc : BitVec 64
  hint : Option Hint
  regs : RegFile
  preds : BitVec 8
  fpstat : BitVec 32
  /-- Custodian mode (R355). -/
  cm : Bool
  tr : TrapRegs
  exited : Bool
  parked : Bool
  wait : Option Wait
  /-- Age counter (R211). -/
  age : Nat
  /-- Core cycles for which YIELD or a scheduling hint holds the thread (R231, R260). -/
  holdoff : Nat
  /-- Register fields with a result still to come, each with the access it comes from (R181). -/
  pending : List (BitVec 6 × Nat)
  /-- Number of the open batch (R151) and the wrap bit (R152). -/
  batchNo : BitVec 32
  batchWrap : Bool
  batches : List Batch
  watch : Option Watch
  walked : List WalkResult
  /-- How many accesses the thread has issued: the next access's place in its program order (R120). -/
  seq : Nat
  /-- GTIME at which the thread last issued, stalled or parked (R378). -/
  since : Nat
  /-- An acquire that clears the L1 orders its later loads, which read their homes: all but UO ones, and UO ones too
  (R129). -/
  fromHome : Bool := false
  fromHomeUo : Bool := false
  deriving DecidableEq, Repr, Inhabited

/-! ## Groups and regions -/

/-- The ordering kind of a page (R26). -/
inductive Kind where
  | rc | so | uo
  deriving DecidableEq, Repr, Inhabited

/-- What a buffered or in-flight access does (R295, R297, R315). -/
inductive AccOp where
  | load
  | store
  /-- The operation of R234, its width, the operand and its tag, the compare value of CAS, rounding mode and SAT. -/
  | atom (op : BitVec 4) (wide : Bool) (b : BitVec 64) (tag : Tag) (cmp : BitVec 64) (rm : BitVec 3) (sat : Bool)
  /-- FENCE, kept among the accesses for the order it makes (R127). -/
  | fence
  /-- The add to a completion counter, with the fault mark (R158). -/
  | count (inc : BitVec 64) (mark : Bool)
  deriving DecidableEq, Repr, Inhabited

/-- The part of a store buffer entry that one thread wrote: offset in the block and bytes (R315). -/
structure Part where
  thr : Nat
  off : Nat
  bytes : List Byte
  deriving DecidableEq, Repr, Inhabited

/-- A drained tile on its way to memory: the format code, the add form, the rounding and SAT of its MDRN, the tile's tag,
its 4,096 bytes and its uncorrectable elements. In a region this is the group's 4 KiB hold (R333, R334). -/
structure Drain where
  fmt : BitVec 4
  add : Bool
  rm : BitVec 3
  sat : Bool
  tag : Tag
  data : Mem
  bad : List Nat
  deriving DecidableEq, Repr, Inhabited

/-- One entry of a region store buffer (R315). Its byte mask and data are those of its parts, applied in order. -/
structure BufEntry where
  /-- Window of half `n` for scratch, `none` for global memory. -/
  scratch : Option Nat
  /-- Physical address or window offset of the aligned 16-byte block. -/
  addr : Nat
  /-- The address the page maps there: of the coherent image for a plinth-laid page (R28). -/
  plinth : Option Nat
  kind : Kind
  ord : BitVec 3
  scope : BitVec 3
  op : AccOp
  parts : List Part
  asid : BitVec 16
  va : BitVec 64
  level : Nat
  glob : Bool
  /-- The entry stands for the group's deferred MDRN.G or MDRN.GADD (R334). -/
  drain : Option Drain
  /-- Threads whose open batch that drain joined, each with its batch number (R151, R333). -/
  joins : List (Nat × BitVec 32) := []
  /-- It has left for its home, as an access (R316). -/
  sent : Bool := false
  deriving DecidableEq, Repr, Inhabited

/-- One deferred report (R364 to R366). -/
structure Report where
  cause : Cause
  reason : BitVec 6
  acc : BitVec 3
  level : BitVec 2
  va : BitVec 64
  info : BitVec 64
  info2 : BitVec 64
  /-- The reporting instruction's address (R366). -/
  addr : BitVec 64
  /-- Threads of the issuing fragment, by place in the team. -/
  from_ : List Nat
  /-- Marked threads with their own records; empty when the lowest non-exited issuing thread is the one marked. -/
  marks : List (Nat × LaneFault)
  deriving DecidableEq, Repr, Inhabited

/-- Where a harvest group stands (R311, R373). -/
inductive Phase where
  | prologue | region | between
  deriving DecidableEq, Repr, Inhabited

/-- One group (R178, R211, R311, R315, R316, R334, R364). -/
structure Group where
  role : BitVec 2
  retired : Nat
  phase : Phase
  open_ : Bool
  mask : BitVec 64
  label : BitVec 64
  /-- Live-in mask of the region last committed (R373). -/
  lastMask : BitVec 64
  buf : List BufEntry
  /-- Committed entries still to be performed (R316). -/
  draining : List BufEntry
  reports : List Report
  /-- Number of CPB commands the group has submitted (R149). -/
  bulk : Nat
  deriving DecidableEq, Repr, Inhabited

/-! ## Teams -/

/-- One convergence register (R187). -/
structure CvReg where
  valid : Bool
  group : BitVec 7
  target : BitVec 50
  mask : BitVec 64
  deriving DecidableEq, Repr, Inhabited

/-- One tile slot (R63), with the group that armed it and the groups that have observed its READY phase (R369). -/
structure Slot where
  base : BitVec 13
  size : BitVec 13
  fmt : Tag
  state : SlotState
  phase : Bool
  err : Bool
  reads : Nat
  expect : Nat
  prods : Nat
  arrived : Nat
  armedBy : Nat
  observers : List Nat
  /-- Groups with producers in flight (R369). -/
  fillers : List Nat
  deriving DecidableEq, Repr, Inhabited

/-- One accumulator tile: its tag, its 4,096 bytes and the elements with an uncorrectable error (R70). -/
structure Tile where
  tag : Tag
  bytes : Mem
  bad : List Nat
  deriving DecidableEq, Repr, Inhabited

/-- One knot-grid register (R342). -/
structure Knot where
  w0 : BitVec 64
  w1 : BitVec 64
  w2 : BitVec 64
  deriving DecidableEq, Repr, Inhabited

/-- One barrier (R305). -/
structure Barrier where
  ph : BitVec 32
  arr : List Ref
  op : Option (BitVec 2)
  pay : BitVec 32
  last : List (Ref × BitVec 32)
  deriving DecidableEq, Repr, Inhabited

/-- A team's part on one core: the claims it holds there, by position, and the tables it names (R51, R55, R62, R70,
R71, R187, R204, R324, R342). -/
structure Half where
  core : Nat
  rows : List Nat
  regGran : List Nat
  accTiles : List Nat
  vitTiles : List Nat
  scrGran : List Nat
  slots : List Slot
  tiles : List Tile
  /-- The vitrine's 73,728 bytes, if the team has one, and its uncorrectable cells (R71). -/
  vit : Option Mem
  vitBad : List Nat
  knots : List Knot
  cvs : List CvReg
  scratch : Mem
  /-- Offsets of the 4-byte scratch words whose check bits hold the poison code (R61). -/
  scrPoison : List Nat
  /-- Physical numbers of the team's rings (R161). -/
  rings : List Nat
  /-- What an eviction has not yet passed (R209): register granules from 0, scratch granules of the window from 1,024,
  accumulator tiles from 2,048, the vitrine 4,096. -/
  awaiting : List Nat
  /-- Its storage shares the core's held set of another context (R374). -/
  shares : Bool
  /-- How many of its knot-grid registers, the highest ones, lie in that held set (R374, R376; log 54). -/
  heldKnots : Nat := 0
  /-- A claim has displaced its storage from the held set since it was last in it (R376; log 54). -/
  displaced : Bool := false
  /-- The team's resident index on this core, 0 to 23 (R162). -/
  resIdx : Nat
  deriving DecidableEq, Repr, Inhabited

/-- Where a team stands (R199 to R210, R370 to R374). -/
inductive TeamStatus where
  /-- Drawn and not yet placed. -/
  | drawn
  /-- Placed; its threads have not started (R194, R209). -/
  | placed
  | resident
  /-- Pre-empted; `runnable` once a wake condition holds (R371, R372). -/
  | preempted
  | runnable
  /-- Evicted harvest team that waits to be placed again (R207). -/
  | evicted
  | retired
  deriving DecidableEq, Repr, Inhabited

/-- One team (R169 to R177, R219, R320, R356, R374, R382). -/
structure Team where
  launch : Nat
  /-- Team index in the grid (R171). -/
  index : Nat
  status : TeamStatus
  cohort : Option Nat
  crank : Nat
  csize : Nat
  ctxid : BitVec 16
  halves : List Half
  groups : List Group
  threads : List Thread
  tflags : BitVec 32
  clkcnt : BitVec 32
  cpstat : BitVec 32
  estat : BitVec 32
  tvec : BitVec 64
  xroot : BitVec 64
  xasid : BitVec 64
  dbgctl : BitVec 32
  up : List Reg
  down : List Reg
  bars : List Barrier
  /-- A pre-emption request stands (R368, R370). -/
  preemptReq : Bool
  /-- Granted clock word of the die it left (R219). -/
  leftGrant : BitVec 32
  /-- The die whose dispatcher holds it (R202, R207). -/
  disp : Nat
  deriving DecidableEq, Repr, Inhabited

/-! ## Launches, queues and gangs -/

/-- One cohort of a launch: its teams and its barriers, held in its lowest cluster (R191, R304). -/
structure Cohort where
  teams : List Nat
  bars : List Barrier
  /-- The lower core of that cluster. -/
  cluster : Nat
  deriving DecidableEq, Repr, Inhabited

/-- The launch block's fields (R198). -/
structure Block where
  version : Nat
  kflags : BitVec 32
  lanepc : BitVec 64
  ctlpc : BitVec 64
  tsize : Nat
  nteam : Nat
  partword : BitVec 32
  regs : Nat
  scrg : Nat
  slots : Nat
  tiles : Nat
  cvreg : Nat
  kgreg : Nat
  tbar : Nat
  rings : Nat
  cbar : Nat
  gbar : Nat
  cohp : Nat
  cohf : Nat
  clkwant : BitVec 32
  crit : BitVec 8
  argptr : BitVec 64
  catptr : BitVec 64
  ctrptr : BitVec 64
  ctrinc : Nat
  stkbase : BitVec 64
  stksize : Nat
  spillptr : BitVec 64
  roles : List (BitVec 2)
  deriving DecidableEq, Repr, Inhabited

/-- Where a launch stands (R197 to R202, R404). -/
inductive LaunchStatus where
  /-- A gang part whose reservation is not committed (R412). -/
  | reserving
  | running
  /-- Ended by an error or an END command; its teams are being removed. -/
  | ending
  | retired
  deriving DecidableEq, Repr, Inhabited

/-- One launch taken by the front end (R196 to R202, R216, R220, R405). -/
structure Launch where
  queue : Nat
  seq : BitVec 32
  block : Block
  harvest : Bool
  /-- Effective priority (R197). -/
  prio : Nat
  home : Nat
  part : Nat
  tenant : Nat
  asid : BitVec 16
  root : BitVec 64
  tvec : BitVec 64
  saveptr : BitVec 64
  savestride : Nat
  statusPtr : BitVec 64
  status : LaunchStatus
  /-- Status code of R407. -/
  code : BitVec 8
  /-- The shared team counter (R202). -/
  counter : Nat
  placed : Nat
  retired : Nat
  clkwant : BitVec 32
  crit : BitVec 4
  gbars : List Barrier
  cohorts : List Cohort
  /-- Place in the order of taking: the stamp of the take (R140, R203, R216). -/
  order : Nat
  gang : Option Nat
  /-- NCLASS of the catalogue at take, 0 for none (R213). -/
  nclass : Nat
  /-- Teams of a launch with grid barriers start together once all are placed (R194). -/
  started : Bool
  /-- The line at LANEPC and the line at CTLPC, read at take (R200). -/
  laneLine : Nat × List Byte
  ctlLine : Nat × List Byte
  deriving DecidableEq, Repr, Inhabited

/-- One gang (R412 to R414). -/
structure Gang where
  queue : Nat
  seq : BitVec 32
  parts : List Nat
  /-- Partitions still to be reserved, in ascending order, and those reserved. -/
  reserved : List Nat
  started : Nat
  timeout : Nat
  statusPtr : BitVec 64
  ctrptr : BitVec 64
  ctrinc : BitVec 64
  committed : Bool
  done : Bool
  code : BitVec 8
  deriving DecidableEq, Repr, Inhabited

/-- One command queue's registers and its copy of the context record (R401, R402). -/
structure Queue where
  qbase : BitVec 48
  en : Bool
  harvest : Bool
  prio : BitVec 4
  homedie : BitVec 1
  part : BitVec 4
  tenant : BitVec 4
  admin : Bool
  logsz : BitVec 4
  head : BitVec 32
  tail : BitVec 32
  qctx : BitVec 48
  stopped : Bool
  errcode : BitVec 8
  asid : BitVec 16
  root : BitVec 64
  tvec : BitVec 64
  saveptr : BitVec 64
  savestride : BitVec 32
  /-- A WAIT at the head holds the queue (R404). -/
  held : Bool
  /-- A QDESTROY waits for the queue's launches (R409). -/
  destroying : Bool
  deriving DecidableEq, Repr, Inhabited

/-! ## Engines -/

/-- The kinds of R365. -/
inductive CmdKind where
  | cpb | cps | cpg | cpt | mmv | drain
  deriving DecidableEq, Repr, Inhabited

/-- Where a command stands (R146, R149, R157, R337). -/
inductive CmdStage where
  /-- A CPB slice that waits for its bulk command (R149). -/
  | slice
  | queued
  | started
  /-- Its add to its counter is on its way (R158). -/
  | counting
  /-- An add-on-store that holds its block's lines (R87). -/
  | reserved
  | complete
  deriving DecidableEq, Repr, Inhabited

/-- One engine command (R147, R149, R151, R158, R322, R335, R333). -/
structure Cmd where
  kind : CmdKind
  stage : CmdStage
  own : Ref
  /-- Threads whose open batch the command joins, each with its batch number (R151, R333, R337). -/
  joins : List (Nat × BitVec 32)
  half : Nat
  core : Nat
  addr : BitVec 64
  slot : Nat
  /-- The eight descriptor words (R322, R335). -/
  desc : List (BitVec 32)
  /-- Address of the counter, or of the block of a drain. -/
  ctr : BitVec 64
  hasCtr : Bool
  inc : BitVec 64
  rm : BitVec 3
  sat : Bool
  ccls : BitVec 2
  /-- Weight format of MMV. -/
  fmt : BitVec 4
  /-- Number of the bulk command (R149). -/
  bulk : Nat
  /-- Destination rows moved so far, and elements read of the row being moved; of an MMV, rows done and results of the row
  sent. -/
  row : Nat
  pos : Nat
  /-- Elements read and converted that are still to be written, each with whether it is uncorrectable. -/
  carry : List (Nat × Bool) := []
  /-- Lines of global memory that it has written (R138). -/
  wrote : List Nat := []
  /-- The pages that it last read and wrote (R157). -/
  srcPage : Option Nat := none
  dstPage : Option Nat := none
  /-- The fault of its counter's add (R158). -/
  countFault : Option LaneFault := none
  /-- The stack that holds the weights of an MMV, once the first is read (R336). -/
  stack : Option Nat := none
  /-- The engine has been told to stop at its next page (R157). -/
  stop : Bool
  fault : Option LaneFault
  /-- The drained tile, for MDRN.G, once the matrix engine has read it (R333). -/
  drain : Option Drain
  asid : BitVec 16
  root : BitVec 64
  cm : Bool
  /-- Issuing fragment, for reports (R366). -/
  from_ : List Nat
  /-- Physical address of the block of a drain, and whether its page is plinth-laid, translated at issue (R333). -/
  pa : Nat
  plinth : Bool
  /-- The vectors that an MMV has read into the batch stores: bytes, each with whether it is uncorrectable (R337). -/
  vecs : List (Byte × Bool)
  /-- The weights and the scale that it has read of its row, and the old value of the result to come (R336). -/
  wts : List (Byte × Bool) := []
  oldY : List (Byte × Bool) := []
  deriving DecidableEq, Repr, Inhabited

/-- One instruction accepted by a core's matrix engine (R321). -/
structure MEntry where
  id : Nat
  core : Nat
  team : Nat
  half : Nat
  group : Nat
  harvest : Bool
  instr : Instr
  addr : BitVec 64
  from_ : List Nat
  rm : BitVec 3
  sat : Bool
  /-- Operand values read at acceptance: a base address, an S-register word (R350, R388). -/
  arg : BitVec 64
  arg2 : BitVec 64
  /-- The pages' parts of the memory that it names, translated at issue: bytes, physical address, plinth-laid. -/
  parts : List (Nat × Nat × Bool)
  joins : List (Nat × BitVec 32)
  /-- The lowest-numbered active thread. -/
  own : Ref
  /-- The access that carries its record, once that is on its way (R388). -/
  sent : Option Nat := none
  deriving DecidableEq, Repr, Inhabited

/-- An operand read of a slot that the engine has finished with and that still counts in READS (R65, R321). -/
structure SlotRead where
  team : Nat
  half : Nat
  slot : Nat
  live : Bool
  deriving DecidableEq, Repr, Inhabited

/-- A message on its way to a ring (R163, R164). -/
structure Message where
  own : Ref
  core : Nat
  ring : Nat
  utag : BitVec 16
  payload : List Byte
  poison : Bool
  wait : Bool
  dst : BitVec 6
  done : Bool
  /-- It has arrived at its ring's core (R163, R164). -/
  here : Bool := false
  /-- The status that answers it (R163). -/
  status : Option (BitVec 32) := none
  /-- It has found its ring full and waits there for room (R163). -/
  met : Bool := false
  deriving DecidableEq, Repr, Inhabited

/-- One ring of a core's network interface (R161). -/
structure Ring where
  core : Nat
  phys : Nat
  team : Nat
  half : Nat
  tail : BitVec 16
  head : BitVec 16
  base : BitVec 13
  logn : BitVec 3
  en : Bool
  deriving DecidableEq, Repr, Inhabited

/-- A TLB invalidation in progress (R39, R40). -/
structure TlbInv where
  own : Ref
  core : Nat
  sel : BitVec 2
  scope : BitVec 2
  va : BitVec 64
  asid : BitVec 16
  /-- Accesses and drains that it waits for, by number. -/
  after : List Nat
  done : Bool
  deriving DecidableEq, Repr, Inhabited

/-! ## The memory path -/

/-- One TLB entry: of core `loc`, or of die `loc` − 256 for the last-level TLB (R33, R34). -/
structure TlbEntry where
  loc : Nat
  asid : BitVec 16
  vpage : BitVec 64
  leaf : Leaf
  deriving DecidableEq, Repr, Inhabited

/-- One pointer entry of a die's walk cache (R34). -/
structure WalkPtr where
  die : Nat
  asid : BitVec 16
  level : Nat
  /-- The addresses below the entry, without the bits that deeper levels index. -/
  va : BitVec 64
  /-- Physical address of the table it points to. -/
  table : Nat
  deriving DecidableEq, Repr, Inhabited

/-- One line of a core's L1 data cache (R73). -/
structure L1Line where
  core : Nat
  line : Nat
  data : List Byte
  bad : List Nat
  const : Bool
  /-- An add-on-store to its block has been performed since it was filled (R135). -/
  old : Bool := false
  deriving DecidableEq, Repr, Inhabited

/-- One line of a core's instruction cache (R76), with the stamp of its fill. -/
structure ILine where
  core : Nat
  line : Nat
  data : List Byte
  bad : List Nat
  filled : Nat := 0
  deriving DecidableEq, Repr, Inhabited

/-- One line of an L2 slice (R85, R86). The line's current bytes are those of the coherent image `State.mem`; a dirty
line keeps what HBM holds, which is what remains if the slice is lost (R83). -/
structure L2Line where
  die : Nat
  slice : Nat
  line : Nat
  /-- Physical address of the line, which gives its home. -/
  pa : Nat
  way : Nat
  /-- Byte mask of the bytes the line holds (R85). -/
  valid : BitVec 128
  dirty : Option (List Byte)
  dirtyBad : List Nat
  used : Nat
  deriving DecidableEq, Repr, Inhabited

/-- Where one piece of an access stands: held at the core by the ordering rules, on its way, at its home, waiting for
HBM, performed with its response on its way back, or answered. -/
inductive PieceStage where
  | held | net | slice | hbm | back | done
  deriving DecidableEq, Repr, Inhabited

/-- The part of an access that lies in one page and one line (R26, R85). -/
structure Piece where
  pa : Nat
  /-- Place in the coherent image (R28, R91). -/
  addr : Nat
  kind : Kind
  off : Nat
  len : Nat
  stage : PieceStage
  /-- Stamp of its arrival at its home (R85). -/
  arr : Nat
  /-- Bytes returned, and whether any was uncorrectable, per byte. -/
  bytes : List Byte
  bad : List Bool
  lost : Bool
  /-- The translation that it was made through (R40). -/
  va : BitVec 64 := 0
  level : Nat := 3
  glob : Bool := false
  /-- Its line has come from HBM for it (R85). -/
  fetched : Bool := false
  /-- Memory cycles of its home's die at its arrival, in eighths (R94). -/
  at8 : Nat := 0
  deriving DecidableEq, Repr, Inhabited

/-- For whom an access is made (R78, R119). -/
inductive Job where
  /-- A thread's own instruction. -/
  | thread
  /-- PREF: what returns is not used (R294); so too an instruction fill that IFENCE has cancelled. -/
  | pref (fill : Bool)
  /-- The fill of an instruction line (R76). -/
  | fetch
  /-- The head of a group's committed region entries (R316). -/
  | entry (team group : Nat)
  /-- `n` elements that a copy command reads, and what one writes (R146). -/
  | copyRead (cmd n : Nat)
  | copyWrite (cmd : Nat)
  /-- The add to a command's counter (R158). -/
  | count (cmd : Nat)
  /-- A drained tile (R333). -/
  | drain (cmd : Nat)
  /-- Vectors, an old value and a result of an MMV (R336). -/
  | vector (cmd : Nat)
  | oldY (cmd : Nat)
  | result (cmd : Nat)
  /-- The record of a context instruction that the matrix engine holds (R388). -/
  | record (id : Nat)
  /-- A spill record (R207). -/
  | spill (team : Nat)
  deriving DecidableEq, Repr, Inhabited

/-- An access to global memory that a thread, or an engine for one, has issued (R119, R293, R295). Accesses are named by
their place in `State.flights`. -/
structure Flight where
  own : Ref
  core : Nat
  /-- Its place in its thread's program order (R120). -/
  seq : Nat
  /-- Stamp of the bundle it was issued in (R58, R292). -/
  bundle : Nat
  op : AccOp
  va : BitVec 64
  size : Nat
  bytes : List Byte
  ord : BitVec 3
  scope : BitVec 3
  harvest : Bool
  prio : Nat
  ccls : BitVec 2
  dst : BitVec 6
  wcode : BitVec 3
  tag : Tag
  pieces : List Piece
  /-- Every piece is performed. -/
  performed : Bool
  /-- The response has been taken, or the access has been discarded. -/
  returned : Bool
  /-- Constant-window read (R45). -/
  const : Bool
  asid : BitVec 16
  glob : Bool
  level : Nat
  /-- Bytes that the thread's own buffered stores of an open region give the load, by offset (R315). -/
  fwd : List (Nat × Byte)
  job : Job := .thread
  /-- Offsets of the bytes that a store writes as uncorrectable (R105, R156). -/
  marks : List Nat := []
  deriving DecidableEq, Repr, Inhabited

/-- What a packet, or a request at a pseudo-channel, is of. -/
inductive Carried where
  | piece (flight piece : Nat)
  | message (n : Nat)
  /-- The write-back of a dirty line (R78). -/
  | writeBack
  /-- A block of weights of an MMV (R93). -/
  | weights (cmd : Nat)
  deriving DecidableEq, Repr, Inhabited

/-- One packet of the on-die network (R78). -/
structure Packet where
  load : Carried
  resp : Bool
  harvest : Bool
  prio : Nat
  input : Nat
  age : Nat
  route : List Nat
  deriving DecidableEq, Repr, Inhabited

/-- One egress port (R79, R80): its packets in order of arrival, the input port of its last winner and of its last
saturated winner, and the network cycles since that win, up to 4,095. -/
structure Port where
  id : Nat
  fifo : List Packet
  last : Nat
  lastSat : Nat
  sinceSat : Nat
  deriving DecidableEq, Repr, Inhabited

/-- One request in a pseudo-channel's queue (R92): oldest first. `line` is the place in the coherent image of the line, or of
the weights, that it is for. -/
structure HbmReq where
  channel : Nat
  line : Nat
  harvest : Bool
  load : Carried
  aged : Bool
  bytes : Nat
  /-- Memory cycles of its die when it joined, in eighths (R92). -/
  since : Nat
  deriving DecidableEq, Repr, Inhabited

/-- One monitor entry (R139, R165). -/
structure Monitor where
  die : Nat
  slice : Nat
  line : Nat
  team : Nat
  tenant : Nat
  deriving DecidableEq, Repr, Inhabited

/-! ## Cores and dies -/

/-- What storage a zeroing covers (R44). -/
inductive Store where
  | regs | acc | scratch
  deriving DecidableEq, Repr, Inhabited

/-- Storage of a core that is being zeroed (R44). -/
structure Zeroing where
  core : Nat
  store : Store
  pos : List Nat
  /-- The pre-empted team whose accepted work must first be complete (R371). -/
  team : Option Nat
  deriving DecidableEq, Repr, Inhabited

/-- One core (R47, R263, R374, R375). -/
structure Core where
  partition : BitVec 32
  /-- Core clock cycles since module reset, in sixteenths (R263). -/
  ccount16 : Nat
  /-- GTIME of its most recent gain of capacity (R205). -/
  gained : Nat
  owner : BitVec 16
  held : Bool
  /-- The team whose storage ACCOWN names. -/
  ownerTeam : Option Nat
  /-- Stamp of the last IFENCE on the core (R140). -/
  ifence : Nat := 0
  deriving DecidableEq, Repr, Inhabited

/-- One reduction descriptor (R430). -/
structure RedDesc where
  die : Nat
  src : BitVec 64
  dst : BitVec 64
  ctr : BitVec 64
  len : Nat
  fmt : BitVec 8
  group : Nat
  members : BitVec 16
  seq : BitVec 32
  timeout : Nat
  asid : BitVec 16
  root : BitVec 64
  launch : Option Nat
  /-- GTIME of the doorbell, in ns: its own contribution reaches a plane (R431). -/
  time : Nat
  /-- The member sends ABORT (R432). -/
  abort : Bool
  live : Bool
  deriving DecidableEq, Repr, Inhabited

/-- What another member of a reduction has sent (R431, R432). -/
structure Contribution where
  group : Nat
  seq : BitVec 32
  member : Nat
  abort : Bool
  len : Nat
  fmt : BitVec 8
  members : BitVec 16
  data : List Byte
  /-- GTIME at which it reached a plane, in ns. -/
  time : Nat
  deriving DecidableEq, Repr, Inhabited

/-- One die (R83, R86, R88, R196, R215 to R219, R383, R424, R436, R440). -/
structure Die where
  live : BitVec 32
  bypass : BitVec 32
  off : BitVec 8
  busy : Bool
  gways : BitVec 5
  grant : BitVec 32
  newGrant : Option (BitVec 32)
  /-- Fixed power and measured watts per sixteenth, matrix, vector, network, memory (R217, R439). -/
  sPower : Nat
  aPower : List Nat
  hot : Bool
  intcause : BitVec 32
  intmask : BitVec 32
  dbgsel : BitVec 64
  dbgaux : BitVec 32
  wrej : Bool
  errs : List (BitVec 256)
  errcnt : BitVec 32
  /-- Round-robin positions: guaranteed priority p at p, harvest at 16 + p (R196). -/
  rr : List (BitVec 8)
  /-- Memory cycles since reset, in eighths (R11, R92, R94). -/
  mem8 : Nat := 0
  /-- When each unit last served an aged harvest access, in `mem8`: slice k's pipeline is 2k, its atomic unit 2k + 1, and
  pseudo-channel c of the die 64 + c (R92, R94). -/
  aged : List (Nat × Nat) := []
  deriving DecidableEq, Repr, Inhabited

/-- One HBM4E stack's harvest bucket register and tokens, in sixty-fourths of a byte (R92). -/
structure Stack where
  rate : BitVec 7
  burst : BitVec 8
  borrow : Bool
  tokens : Nat
  deriving DecidableEq, Repr, Inhabited

/-- One tenant's quotas (R166). -/
structure Quota where
  bar : BitVec 7
  cbar : BitVec 5
  gbar : BitVec 4
  ring : BitVec 4
  mon : BitVec 7
  cwait : BitVec 9
  deriving DecidableEq, Repr, Inhabited

/-- One entry of the measurement log (R419). -/
structure LogEntry where
  digest : BitVec 384
  svn : Nat
  slot : Nat
  keyslot : Nat
  fuses : Nat
  deriving DecidableEq, Repr, Inhabited

/-- The curator's boot store, fuses and measurements (R415 to R420). -/
structure Curator where
  slotA : List Byte
  slotB : List Byte
  running : Option Nat
  restarting : Bool
  fuses : Nat
  keyHash : List (BitVec 384)
  revoked : BitVec 4
  meas : BitVec 384
  log : List LogEntry
  logFull : Bool
  deriving DecidableEq, Repr, Inhabited

/-- The core cycle in progress: which core, the bundles that its issue ports and its control unit have still to issue, in
the order in which they take effect, and the ready threads that no port has taken (R173, R182). -/
structure Issue where
  core : Nat
  todo : List (List Ref)
  left : List Ref
  deriving DecidableEq, Repr, Inhabited

/-- What the agenda asks for next (log 3): an event of the part with the item it concerns, a core cycle, time, or one
of the things that only the outside or chance brings about. -/
inductive Act where
  | event (i : Instr) (sel : Nat) (sel2 : Nat)
  | cycle (core : Nat)
  | tick (ns : Nat)
  /-- The host, or a peer, writes its own memory (R143). -/
  | ownWrite (pa : Nat) (bytes : List Byte)
  /-- An uncorrectable error arises at these places of the coherent image (R434). -/
  | memError (addr : Nat) (len : Nat)
  /-- An uncorrectable error in the scratch word at an offset (R61). -/
  | scratchError (team half off : Nat)
  /-- An uncorrectable error in an element of a tile (R70). -/
  | tileError (team half tile elem : Nat)
  /-- An uncorrectable error in a vitrine cell (R71). -/
  | vitError (team half cell : Nat)
  /-- An uncorrectable error in a register (R53). -/
  | regError (r : Ref) (n : Nat)
  /-- Both copies of a duplicated table entry of a launch, or an entry of a hardware queue, are bad: a table or barrier
  file (unit 0x0A), a queue (0x0C) or another table (0x16) (R434). -/
  | tableError (unit : BitVec 8) (launch : Nat)
  /-- A correctable error arises in HBM4E at a place of the coherent image (R434). -/
  | softError (addr : Nat)
  /-- A corrected error of a unit (R434, R437). -/
  | corrected (die : Nat) (unit : BitVec 8) (addr : BitVec 64)
  /-- A TLB or walk-cache entry is replaced, or dropped for its parity and recorded (R33, R434). -/
  | dropTlb (n : Nat) (parity : Bool)
  | dropWalk (n : Nat) (parity : Bool)
  /-- The host answers a piece of an access with Unsupported Request, Completer Abort or poison (R423). -/
  | hostAbort (flight piece : Nat)
  /-- An L1 or instruction line is lost to an error (R75, R76, R434). -/
  | dropL1 (n : Nat)
  | dropILine (n : Nat)
  /-- MWAIT of a thread returns without cause (R139). -/
  | spurious (r : Ref)
  /-- The firmware performs an ADMIN operation of its own, given as a packet (R408, R409, R441). -/
  | firmware (pkt : List Byte)
  /-- A 10 ms interval ends with this mean module power in W and these hottest-sensor readings in degrees (R437). -/
  | interval (watts t0 t1 : Nat)
  /-- A contribution of another member arrives at the planes (R431). -/
  | contribute (c : Contribution)
  deriving DecidableEq, Repr, Inhabited

/-- What the host last read through a BAR, or `none` for Unsupported Request (R422). -/
structure Reply where
  ok : Bool
  value : BitVec 128
  deriving DecidableEq, Repr, Inhabited

/-- Why a run stops. -/
inductive Fault where
  /-- Raised by `step` when the agenda names a core number of 256 or more, which no LX-9 has (R1). Safe: no part has
  such a core, so no behaviour of the part is lost. -/
  | noSuchCore (n : Nat)
  deriving DecidableEq, Repr, Inhabited

/-- Why the model gives no answer. -/
inductive Refusal where
  /-- An instruction whose meaning has not been written, by its mnemonic in spec/opcode_table.json. Safe: a run stops
  where the part goes on. -/
  | notModelled (mnemonic : String)
  deriving DecidableEq, Repr, Inhabited

/-- The whole module (INVENTORY.md, State). -/
structure State where
  teams : List Team
  launches : List Launch
  gangs : List Gang
  queues : List Queue
  cores : List Core
  dies : List Die
  hbmStacks : List Stack
  quotas : List Quota
  /-- The coherent image of HBM4E, host and peer memory, by storage address (R20, R91; log 1). -/
  mem : Mem
  /-- Byte places of the coherent image that read as uncorrectable (R434). -/
  poison : List Nat
  /-- Errors of HBM4E lines that nothing has detected yet: the line, and whether they are uncorrectable (R434). -/
  latent : List (Nat × Bool)
  l1 : List L1Line
  icache : List ILine
  l2 : List L2Line
  tlb : List TlbEntry
  walkCache : List WalkPtr
  flights : List Flight
  ports : List Port
  hbmq : List HbmReq
  monitors : List Monitor
  /-- Lines reserved by an add-on-store: the command that holds them (R87). -/
  reservedLines : List (Nat × Nat)
  /-- Accesses held at the rotunda while a spire changes power (R89): `(die, spire)` in change. -/
  spireChange : List (Nat × Nat × Bool)
  cmds : List Cmd
  engine : List MEntry
  slotReads : List SlotRead
  messages : List Message
  rings : List Ring
  tlbinvs : List TlbInv
  zeroing : List Zeroing
  npart : Nat
  curator : Curator
  share0 : BitVec 8
  capw : BitVec 12
  pnow : BitVec 12
  bud0 : BitVec 12
  bud1 : BitVec 12
  overCap : Bool
  fabcfg : BitVec 32
  redq : List RedDesc
  redSeq : List (Nat × BitVec 32)
  contributions : List Contribution
  archive : List (Nat × Nat)
  archiveCommitted : List (Nat × Nat)
  ready : BitVec 64
  /-- Functions of `ready` that have failed their self-test (R441). -/
  failed : BitVec 64
  gtime : Nat
  msix : Mem
  /-- MSI-X vectors signalled, latest first (R424). -/
  vectors : List Nat
  hostReply : Reply
  /-- Bundle of the instruction being issued: its threads in ascending slot order (R182). -/
  cur : List Ref
  issue : Option Issue
  agenda : List Act
  /-- The item an event concerns (log 3). -/
  sel : Nat
  sel2 : Nat
  /-- The core after the one whose cycle began last: where the default order looks first (log 3). -/
  turn : Nat
  /-- Free values drawn so far (log 8). -/
  drawn : Nat
  /-- Stamp of the next ordered happening. -/
  stamp : Nat
  deriving DecidableEq, Repr, Inhabited

/-! ## Reset -/

/-- A queue after reset (R401; the context copy is zero, log 2). -/
def Queue.reset : Queue :=
  { qbase := 0, en := false, harvest := false, prio := 0, homedie := 0, part := 0, tenant := 0, admin := false,
    logsz := 0, head := 0, tail := 0, qctx := 0, stopped := false, errcode := 0, asid := 0, root := 0, tvec := 0,
    saveptr := 0, savestride := 0, held := false, destroying := false }

/-- A core after reset (R47, R263, R375). -/
def Core.reset : Core :=
  { partition := 0, ccount16 := 0, gained := 0, owner := 0, held := false, ownerTeam := none }

/-- A die after reset (R88, R216, R383, R424, R436; measured inputs 0, log 6; positions 255, log 2). -/
def Die.reset : Die :=
  { live := 0xFFFF_FFFF, bypass := 0, off := 0, busy := false, gways := 12, grant := 0x0404_0404, newGrant := none,
    sPower := 0, aPower := [0, 0, 0, 0], hot := false, intcause := 0, intmask := 0, dbgsel := 0, dbgaux := 0,
    wrej := false, errs := [], errcnt := 0, rr := List.replicate 32 255 }

/-- A stack after reset (R92; a full bucket, log 2). -/
def Stack.reset : Stack := { rate := 32, burst := 16, borrow := true, tokens := 1048576 }

/-- The quotas of tenant `t` after reset (R166). -/
def Quota.reset (t : Nat) : Quota :=
  if t = 0 then { bar := 64, cbar := 16, gbar := 8, ring := 8, mon := 64, cwait := 256 }
  else { bar := 0, cbar := 0, gbar := 0, ring := 0, mon := 0, cwait := 0 }

/-- The curator after reset of a part with empty slots and no fuse blown (R416 to R419; log 6). -/
def Curator.reset : Curator :=
  { slotA := [], slotB := [], running := none, restarting := false, fuses := 0, keyHash := [0, 0, 0, 0],
    revoked := 0, meas := 0, log := [], logFull := false }

/-- The module right after reset (R88, R92, R166, R401, R411, R419, R424, R426, R436, R439, R441). No team is
resident, memory lists nothing, and the values the manual does not give are those of log 1, 2 and 6. -/
def State.reset : State :=
  { teams := [], launches := [], gangs := [], queues := List.replicate 256 Queue.reset,
    cores := List.replicate 256 Core.reset, dies := [Die.reset, Die.reset],
    hbmStacks := List.replicate 8 Stack.reset, quotas := (List.range 16).map Quota.reset,
    mem := [], poison := [], latent := [], l1 := [], icache := [], l2 := [], tlb := [], walkCache := [], flights := [],
    ports := [], hbmq := [], monitors := [], reservedLines := [], spireChange := [],
    cmds := [], engine := [], slotReads := [], messages := [], rings := [], tlbinvs := [], zeroing := [], npart := 1,
    curator := Curator.reset, share0 := 128, capw := 2400, pnow := 0, bud0 := 0, bud1 := 0, overCap := false,
    fabcfg := 0, redq := [], redSeq := [], contributions := [], archive := [], archiveCommitted := [], ready := 0, failed := 0,
    gtime := 0, msix := [], vectors := [], hostReply := { ok := true, value := 0 }, cur := [], issue := none,
    agenda := [], sel := 0, sel2 := 0, turn := 0, drawn := 0, stamp := 0 }

end Sys2Proof.Machine
end

