-- ==== Sys2Proof/Machine/Memory.lean ====
section
/-! DEFINITION. Bytes by address in one canonical form, and sets of addresses. An unlisted byte reads as 0 (log 1). -/

namespace Sys2Proof.Machine

open Sys2Proof

/-- The byte at an address; 0 where none is listed (log 1). -/
def readByte : Mem → Nat → Byte
  | [], _ => 0
  | (k, b) :: m, a => if a = k then b else if a < k then 0 else readByte m a

/-- The memory with one byte listed at the front, unless it is what an unlisted byte reads as. -/
def consByte (a : Nat) (b : Byte) (m : Mem) : Mem := if b = 0 then m else (a, b) :: m

/-- One byte written, keeping the canonical form. -/
def writeByte : Mem → Nat → Byte → Mem
  | [], a, b => consByte a b []
  | (k, c) :: m, a, b =>
    if a = k then consByte a b m
    else if a < k then consByte a b ((k, c) :: m)
    else (k, c) :: writeByte m a b

/-- `n` bytes from an address upwards. -/
def readBytes (m : Mem) (a : Nat) : Nat → List Byte
  | 0 => []
  | n + 1 => readByte m a :: readBytes m (a + 1) n

/-- Bytes written from an address upwards. -/
def writeBytes (m : Mem) (a : Nat) : List Byte → Mem
  | [] => m
  | b :: bs => writeBytes (writeByte m a b) (a + 1) bs

/-- The canonical form from `lo` up: addresses strictly rising and at least `lo`, no entry 0. -/
def memWfFrom : Nat → Mem → Bool
  | _, [] => true
  | lo, (k, b) :: m => decide (lo ≤ k) && b != 0 && memWfFrom (k + 1) m

/-- The canonical form of a memory. -/
def Memory.wf (m : Mem) : Bool := memWfFrom 0 m

/-- `n` bytes from an address set to 0, which lists none of them. -/
def clearBytes (m : Mem) (a n : Nat) : Mem := m.filter fun c => !(decide (a ≤ c.1) && decide (c.1 < a + n))

/-- Little-endian number of `n` bytes (R5). -/
def readLe (m : Mem) (a n : Nat) : Nat := ofLe (readBytes m a n)

/-- Little-endian write of `n` bytes (R5). -/
def writeLe (m : Mem) (a n v : Nat) : Mem := writeBytes m a (leBytes n v)

/-- An address joins a sorted set. -/
def setAdd (a : Nat) : List Nat → List Nat
  | [] => [a]
  | k :: ks => if a = k then k :: ks else if a < k then a :: k :: ks else k :: setAdd a ks

/-- Addresses `a` to `a + n − 1` join a set. -/
def setAddRange (p : List Nat) (a n : Nat) : List Nat := (List.range n).foldl (fun p i => setAdd (a + i) p) p

/-- Addresses `a` to `a + n − 1` leave a set. -/
def setDelRange (p : List Nat) (a n : Nat) : List Nat := p.filter fun k => !(decide (a ≤ k) && decide (k < a + n))

/-- Some address of `a` to `a + n − 1` is in the set. -/
def setHits (p : List Nat) (a n : Nat) : Bool := p.any fun k => decide (a ≤ k) && decide (k < a + n)

/-- The first `n` entries of a list that satisfy `p` stay, and all the others. -/
def capBy {α : Type} (p : α → Bool) : Nat → List α → List α
  | _, [] => []
  | n, x :: xs =>
    if p x then
      match n with
      | 0 => capBy p 0 xs
      | m + 1 => x :: capBy p m xs
    else x :: capBy p n xs

end Sys2Proof.Machine
end

