-- ==== Sys2Proof/Machine/Ops.lean ====
section
/-! DEFINITION. The named operations of the machine: reading and changing one thing of the state, ending and halting,
taking a trap and returning from one, and issuing one instruction for a bundle. -/

namespace Sys2Proof.Machine

open Sys2Proof

/-! ## Tags and reasons -/

/-- Tag codes (R101). -/
def tagRAW : Tag := 0x0
def tagI32 : Tag := 0x1
def tagF32 : Tag := 0x2
def tagBF16 : Tag := 0x3
def tagF16 : Tag := 0x4
def tagE4M3 : Tag := 0x5
def tagE5M2 : Tag := 0x6
def tagE2M1 : Tag := 0x7
def tagI8 : Tag := 0x8
def tagI4 : Tag := 0x9
def tagE8M0 : Tag := 0xA
def tagADLO : Tag := 0xB
def tagADHI : Tag := 0xC
def tagPOISON : Tag := 0xD

/-- Reason codes of R30 and R236. -/
def rNotCanonical : BitVec 6 := 0x00
def rNotValid : BitVec 6 := 0x01
def rBadEntry : BitVec 6 := 0x02
def rLeafAlign : BitVec 6 := 0x03
def rReservedKind : BitVec 6 := 0x04
def rPaHole : BitVec 6 := 0x05
def rBadPlinth : BitVec 6 := 0x06
def rDeviceKind : BitVec 6 := 0x07
def rWalkPoison : BitVec 6 := 0x08
def rConstBounds : BitVec 6 := 0x09
def rNoRead : BitVec 6 := 0x10
def rNoWrite : BitVec 6 := 0x11
def rNoExec : BitVec 6 := 0x12
def rCustodian : BitVec 6 := 0x13
def rBadMajor : BitVec 6 := 0x20
def rBadMinor : BitVec 6 := 0x21
def rReserved : BitVec 6 := 0x22
def rBadRegister : BitVec 6 := 0x23
def rBadHint : BitVec 6 := 0x24
def rBadModifier : BitVec 6 := 0x25
def rRange : BitVec 6 := 0x26
def rMismatch : BitVec 6 := 0x27
def rPrivileged : BitVec 6 := 0x28
def rValue : BitVec 6 := 0x29
def rNoPartner : BitVec 6 := 0x2A

/-- The code of a cause (R357). -/
def Cause.code : Cause → Nat
  | .none => 0 | .illegal => 1 | .role => 2 | .format => 3 | .region => 4 | .misaligned => 5 | .translation => 6
  | .permission => 7 | .scratchBounds => 8 | .poison => 9 | .accOwner => 10 | .breakpoint => 11 | .software => 12
  | .waitCycle => 13

/-- An ILLEGAL failure with its reason (R236). -/
def illegalFault (r : BitVec 6) : LaneFault := { cause := .illegal, reason := r }
/-- A failure whose cause has no reason code. -/
def plainFault (c : Cause) : LaneFault := { cause := c }
/-- A POISON failure (R104). -/
def poisonFault : LaneFault := { cause := .poison }

/-! ## Reading and changing one thing -/

/-- A team, by name. -/
def State.team (s : State) (t : Nat) : Team := s.teams.getD t default
/-- A thread, by name. -/
def State.thr (s : State) (r : Ref) : Thread := (s.team r.team).threads.getD r.thr default
/-- The launch of a team. -/
def State.launchOf (s : State) (t : Nat) : Launch := s.launches.getD (s.team t).launch default
/-- The launch block of a team. -/
def State.block (s : State) (t : Nat) : Block := (s.launchOf t).block
/-- A half of a team, by index. -/
def State.half (s : State) (t h : Nat) : Half := (s.team t).halves.getD h default
/-- The half that holds a thread (R170). -/
def State.halfOf (s : State) (r : Ref) : Half := s.half r.team (s.thr r).half
/-- A group of a team. -/
def State.group (s : State) (t g : Nat) : Group := (s.team t).groups.getD g default
/-- The core of a thread. -/
def State.coreOf (s : State) (r : Ref) : Nat := (s.halfOf r).core
/-- The die of a core: cores 0 to 127 lie on die 0 (R1, R263). -/
def dieOfCore (c : Nat) : Nat := c / 128
/-- The die of a thread. -/
def State.dieOf (s : State) (r : Ref) : Nat := dieOfCore (s.coreOf r)
/-- A die. -/
def State.die (s : State) (d : Nat) : Die := s.dies.getD d default
/-- A core. -/
def State.core (s : State) (c : Nat) : Core := s.cores.getD c default
/-- A queue. -/
def State.queue (s : State) (q : Nat) : Queue := s.queues.getD q default

/-- One team changed. -/
def State.modTeam (s : State) (t : Nat) (f : Team → Team) : State := { s with teams := s.teams.modify t f }
/-- One thread changed. -/
def State.modThr (s : State) (r : Ref) (f : Thread → Thread) : State :=
  s.modTeam r.team fun t => { t with threads := t.threads.modify r.thr f }
/-- One half changed. -/
def State.modHalf (s : State) (t h : Nat) (f : Half → Half) : State :=
  s.modTeam t fun x => { x with halves := x.halves.modify h f }
/-- One group changed. -/
def State.modGroup (s : State) (t g : Nat) (f : Group → Group) : State :=
  s.modTeam t fun x => { x with groups := x.groups.modify g f }
/-- One launch changed. -/
def State.modLaunch (s : State) (l : Nat) (f : Launch → Launch) : State :=
  { s with launches := s.launches.modify l f }
/-- One die changed. -/
def State.modDie (s : State) (d : Nat) (f : Die → Die) : State := { s with dies := s.dies.modify d f }
/-- One core changed. -/
def State.modCore (s : State) (c : Nat) (f : Core → Core) : State := { s with cores := s.cores.modify c f }
/-- One queue changed. -/
def State.modQueue (s : State) (q : Nat) (f : Queue → Queue) : State := { s with queues := s.queues.modify q f }
/-- One command changed. -/
def State.modCmd (s : State) (c : Nat) (f : Cmd → Cmd) : State := { s with cmds := s.cmds.modify c f }
/-- One flight changed. -/
def State.modFlight (s : State) (n : Nat) (f : Flight → Flight) : State :=
  { s with flights := s.flights.modify n f }

/-- Group width W of a kernel (R169, R198 WSEL). -/
def Block.width (b : Block) : Nat := 16 * 2 ^ ((b.kflags.extractLsb' 8 2).toNat)
/-- The launch spans both cores of a cluster (R198). -/
def Block.twoCore (b : Block) : Bool := b.kflags.getLsbD 6
/-- Group width of a team. -/
def State.width (s : State) (t : Nat) : Nat := (s.block t).width
/-- Number of lane threads of a team. -/
def State.lanes (s : State) (t : Nat) : Nat := (s.block t).tsize
/-- Index of a lane thread in its group (R170). -/
def State.idx (s : State) (r : Ref) : Nat := r.thr % s.width r.team
/-- The control thread of a team (R173). -/
def State.ctlRef (s : State) (t : Nat) : Ref := ⟨t, s.lanes t⟩
/-- The team has a control thread (R173). -/
def State.hasCtl (s : State) (t : Nat) : Bool := (s.block t).ctlpc != 0
/-- Harvest class (R2). -/
def State.harvest (s : State) (t : Nat) : Bool := (s.launchOf t).harvest

/-- The lane threads of a group (R170). -/
def State.groupRefs (s : State) (t g : Nat) : List Ref :=
  ((List.range (s.width t)).map fun k => (⟨t, g * s.width t + k⟩ : Ref)).filter fun r => decide (r.thr < s.lanes t)
/-- Every lane thread of a team. -/
def State.laneRefs (s : State) (t : Nat) : List Ref := (List.range (s.lanes t)).map fun k => ⟨t, k⟩
/-- Every thread of a team. -/
def State.allRefs (s : State) (t : Nat) : List Ref :=
  (List.range (s.team t).threads.length).map fun k => ⟨t, k⟩
/-- The threads of a group that have not exited. -/
def State.liveRefs (s : State) (t g : Nat) : List Ref := (s.groupRefs t g).filter fun r => !(s.thr r).exited
/-- Number of groups of a team (R170). -/
def State.groupCount (s : State) (t : Nat) : Nat := (s.team t).groups.length

/-- Two threads are of one group; a control thread is a unit of its own. -/
def State.sameGroup (s : State) (q r : Ref) : Bool := q.team == r.team && (s.thr q).group == (s.thr r).group
/-- Two threads are of one fragment (R185). -/
def State.sameFrag (s : State) (q r : Ref) : Bool := s.sameGroup q r && (s.thr q).frag == (s.thr r).frag
/-- The fragment of a thread: the threads of its group with its fragment number that have not exited (R185). -/
def State.fragOf (s : State) (r : Ref) : List Ref :=
  if (s.thr r).ctl then [r] else (s.liveRefs r.team (s.thr r).group).filter fun q => (s.thr q).frag == (s.thr r).frag

/-! ## Registers -/

/-- G0 and S0 (R102, R172, R173). -/
def zeroReg : Reg := { val := 0, tag := tagI32 }
/-- A register's value with its tag; one tagged POISON holds data bits 0 (R104). -/
def taggedReg (v : BitVec 64) (tag : Tag) : Reg := { val := if tag = tagPOISON then 0 else v, tag := tag }
/-- A register of a thread; register 0 reads zero tagged I32 (R172, R173). -/
def Thread.reg (t : Thread) (n : Nat) : Reg := if n = 0 then zeroReg else (t.regs[n]?).getD zeroReg
/-- A register written; a write to register 0 is discarded (R172, R173). -/
def Thread.setReg (t : Thread) (n : Nat) (v : Reg) : Thread :=
  if n = 0 then t else { t with regs := t.regs.setIfInBounds n v }
/-- A predicate; P0 reads true (R172). -/
def Thread.pred (t : Thread) (p : BitVec 3) : Bool := p == 0 || t.preds.getLsbD p.toNat
/-- A predicate written; a write to P0 is discarded (R172, R226). -/
def Thread.setPred (t : Thread) (p : BitVec 3) (b : Bool) : Thread :=
  if p = 0 then t
  else { t with preds := if b then t.preds ||| (1#8 <<< p.toNat) else t.preds &&& ~~~(1#8 <<< p.toNat) }

/-- The 64-bit value of a pair, or of an S register (R6, R225). -/
def Thread.pairVal (t : Thread) (n : Nat) : BitVec 64 :=
  if t.ctl then (t.reg n).val
  else ((t.reg (n + 1)).val.setWidth 32 ++ (t.reg n).val.setWidth 32 : BitVec 64)
/-- A pair, or an S register, written with one tag (R6, R225). -/
def Thread.setPair (t : Thread) (n : Nat) (v : BitVec 64) (tag : Tag) : Thread :=
  if t.ctl then t.setReg n { val := v, tag := tag }
  else (t.setReg n { val := low32 v, tag := tag }).setReg (n + 1) { val := v >>> 32, tag := tag }
/-- The 32-bit value of a register in either stream (R243). -/
def Thread.val32 (t : Thread) (n : Nat) : BitVec 32 := (t.reg n).val.setWidth 32
/-- A 32-bit result, zero-extended in the control stream (R243). -/
def Thread.set32 (t : Thread) (n : Nat) (v : BitVec 32) (tag : Tag) : Thread :=
  t.setReg n { val := v.setWidth 64, tag := tag }
/-- Word `k` of a block of registers: register n + k, or half of an S register (R225). -/
def Thread.blockWord (t : Thread) (n k : Nat) : BitVec 32 :=
  if t.ctl then ((t.reg (n + k / 2)).val >>> (32 * (k % 2))).setWidth 32 else t.val32 (n + k)
/-- Tag of the register that holds word `k` of a block (R225). -/
def Thread.blockTag (t : Thread) (n k : Nat) : Tag :=
  if t.ctl then (t.reg (n + k / 2)).tag else (t.reg (n + k)).tag

/-- The address of the word to issue: the unit's address, past its hint (R227). -/
def Thread.wordPc (t : Thread) : BitVec 64 := if t.hint.isSome then t.pc + 4 else t.pc
/-- The next unit's address. -/
def Thread.nextPc (t : Thread) : BitVec 64 := t.wordPc + 4

/-- A mask of flags satisfies the condition of an FWAIT (R310). -/
def flagsMet (all : Bool) (m w : BitVec 32) : Bool := if all then w &&& m == m else w &&& m != 0
/-- A thread that waits for flags sees them written: it keeps the first value that satisfies it (R310, R369). -/
def Thread.seeFlags (t : Thread) (w : BitVec 32) : Thread :=
  match t.wait with
  | some (.flags all m got _) =>
    { t with wait := some (.flags all m (got.orElse fun _ => if flagsMet all m w then some w else none) true) }
  | _ => t
/-- A thread that waits for a counter sees its line written (R159, R369). -/
def Thread.seeLine (t : Thread) (line : Nat) : Thread :=
  match t.wait with
  | some (.counter a tgt slept _) => if a / 128 = line / 128 then { t with wait := some (.counter a tgt slept true) } else t
  | _ => t

/-! ## Time, archive, error records and interrupts -/

/-- A counter of the archive grows, saturating (R437). -/
def archiveAdd (off n : Nat) : List (Nat × Nat) → List (Nat × Nat)
  | [] => [(off, n)]
  | (k, v) :: m =>
    if off = k then (k, min (v + n) (2 ^ 64 - 1)) :: m
    else if off < k then (off, n) :: (k, v) :: m
    else (k, v) :: archiveAdd off n m
/-- A counter of the archive (R437). -/
def archiveGet (m : List (Nat × Nat)) (off : Nat) : Nat := ((m.find? fun p => p.1 == off).map (·.2)).getD 0
/-- A counter of the archive grows by one. -/
def State.count (s : State) (off : Nat) : State := { s with archive := archiveAdd off 1 s.archive }

/-- A cause bit of a die rises; when it was 0 and is not masked, its vector is signalled (R424). -/
def State.raise (s : State) (d : Nat) (bit : Nat) : State :=
  let old := (s.die d).intcause.getLsbD bit
  let s1 := s.modDie d fun x => { x with intcause := x.intcause ||| BitVec.ofNat 32 (2 ^ bit) }
  if !old && (s.die d).intmask.getLsbD bit then { s1 with vectors := (2 * bit + d) :: s1.vectors } else s1

/-- An error record is written, counted, and ERRREC raised (R436, R437); what its callers put into ADDR and DETAIL: log 87. -/
def State.errorRecord (s : State) (d : Nat) (unit : Nat) (sev : Nat) (ctx : BitVec 16) (addr : Nat) (detail : BitVec 64) :
    State :=
  let r : BitVec 256 := detail ++ BitVec.ofNat 64 s.gtime ++ BitVec.ofNat 64 addr ++ (s.die d).errcnt ++ ctx ++
    0#6 ++ BitVec.ofNat 2 sev ++ BitVec.ofNat 8 unit
  let s1 := s.modDie d fun x => { x with errs := (r :: x.errs).take 256, errcnt := x.errcnt + 1 }
  (s1.count (16 * unit + (if sev = 0 then 0 else 8))).raise d 1

/-! ## Ending a launch and halting a team -/

/-- The commands of a team end early: one not started is discarded, a started one stops at its next page (R157). -/
def Cmd.stopped (c : Cmd) : Cmd := { c with stop := true }

/-- The front end ends one launch with a status code: its teams issue nothing more and its commands stop (R157, R201,
R405). A launch that has already an end keeps it. -/
def State.endOne (s : State) (l : Nat) (code : BitVec 8) : State :=
  let x := s.launches.getD l default
  if x.status = .ending ∨ x.status = .retired then s
  else
    let s1 := s.modLaunch l fun x => { x with status := .ending, code := code }
    let mine (t : Nat) : Bool := (s.team t).launch == l
    { s1 with
      teams := s1.teams.map fun t =>
        if t.launch = l then
          { t with
            threads := t.threads.map fun u => { u with exited := true, wait := none, hint := none }
            status := if t.status = .drawn ∨ t.status = .evicted then .retired else t.status }
        else t
      cmds := s1.cmds.map fun c => if mine c.own.team && c.stage != .complete then c.stopped else c
      redq := s1.redq.map fun d => if d.launch = some l then { d with abort := true } else d }

/-- The launches that end with a launch: the other parts of its gang, once that is committed (R414). -/
def State.gangMates (s : State) (l : Nat) : List Nat :=
  match (s.launches.getD l default).gang with
  | some g => if (s.gangs.getD g default).committed then (s.gangs.getD g default).parts.filter (· != l) else []
  | none => []

/-- The front end ends a launch with error status, and a gang's other parts with GANG_ABORT (R414). -/
def State.endLaunch (s : State) (l : Nat) (code : BitVec 8) : State :=
  let x := s.launches.getD l default
  if x.status = .ending ∨ x.status = .retired then s
  else (s.gangMates l).foldl (fun y m => y.endOne m 0x26) (s.endOne l code)

/-- A thread stops at a unit boundary with its wait abandoned (R367, R380): at the waiting instruction, or past it
when it has already arrived at a barrier. -/
def Thread.abandon (t : Thread) : Thread :=
  match t.wait with
  | some (.bar ..) =>
    { t with pc := t.nextPc, hint := none, wait := none, walked := [], path := if t.ctl then [] else t.path ++ [t.nextPc] }
  | _ => { t with hint := none, wait := none, walked := [] }

/-- A team halts: its threads stop issuing and its die reports a debug event (R363, R380, R424). -/
def State.haltTeam (s : State) (t : Nat) : State :=
  let s1 := s.modTeam t fun x =>
    { x with dbgctl := x.dbgctl ||| 2#32, threads := x.threads.map fun u => if u.exited then u else u.abandon }
  let s2 := { s1 with messages := s1.messages.map fun (m : Message) => if m.own.team = t then { m with done := true } else m }
  s2.raise (dieOfCore (s.half t 0).core) 2
/-- The team is halted (R382). -/
def Team.isHalted (t : Team) : Bool := t.dbgctl.getLsbD 1

/-! ## Fragments -/

/-- A convergence register of the thread's group holds it at its PC (R189). -/
def State.heldAt (s : State) (r : Ref) : Bool :=
  let t := s.thr r
  !t.ctl && (s.halfOf r).cvs.any fun c =>
    c.valid && c.group.toNat == t.group && c.target == t.pc.extractLsb' 2 50 && c.mask.getLsbD (s.idx r)

/-- Threads park where a convergence register holds them (R189). -/
def State.park (s : State) (rs : List Ref) : State :=
  rs.foldl (fun x r => if s.heldAt r then x.modThr r fun t => { t with parked := true, since := s.gtime } else x) s

/-- The least index of the threads of a list that satisfy `p`, or `d`. -/
def State.leastIdx (s : State) (rs : List Ref) (p : Ref → Bool) (d : Nat) : Nat :=
  (rs.filter p).foldl (fun m r => min m (s.idx r)) d

/-- Some threads, with what is left of their paths, cut into those that have gone the same way: the ones that have parked
where the others stand or passed, and, while every one has gone on, those that went to each next address (R185, R189; log 9).
Each round takes one address of the paths, so `fuel` is the length of the longest. -/
def State.splitRuns (s : State) : Nat → List (Ref × List (BitVec 64)) → List (List (Ref × List (BitVec 64)))
  | 0, m => [m]
  | fuel + 1, m =>
    let stays := m.filter fun p => p.2.isEmpty && (s.thr p.1).parked
    let goes := m.filter fun p => !(p.2.isEmpty && (s.thr p.1).parked)
    (if stays.isEmpty then [] else [stays]) ++
      if goes.isEmpty then [] else if goes.any fun p => p.2.isEmpty then [goes]
      else (goes.map fun p => p.2.headD 0).eraseDups.flatMap fun a =>
        s.splitRuns fuel ((goes.filter fun p => p.2.headD 0 == a).map fun p => (p.1, p.2.drop 1))

/-- The fragments of a group's threads: each is cut where its threads part, and takes the number of its lowest thread
(R185, R189; log 9). -/
def State.relabel (s : State) (rs : List Ref) : State :=
  let fuel := (rs.map fun r => (s.thr r).path.length).foldl max 0 + 1
  (rs.map fun r => (s.thr r).frag).eraseDups.foldl (fun x f =>
    (s.splitRuns fuel ((rs.filter fun r => (s.thr r).frag == f).map fun r => (r, (s.thr r).path))).foldl (fun x run =>
      let low := s.leastIdx (run.map (·.1)) (fun _ => true) 64
      run.foldl (fun x p => x.modThr p.1 fun u => { u with frag := low, path := p.2 }) x) x) s

/-- What follows each instruction of a group: threads park, fragments split (R185, R189). -/
def State.settle (s : State) (t g : Nat) : State :=
  let rs := s.liveRefs t g
  (s.park (rs.filter fun r => !(s.thr r).parked)).relabel rs

/-- Some threads of one group become one fragment; the fragments that they leave take the number of their lowest thread
(R185). -/
def State.regroup (s : State) (rs : List Ref) : State :=
  match rs with
  | [] => s
  | r :: _ =>
    (s.liveRefs r.team (s.thr r).group).foldl (fun x q =>
      if rs.contains q then x.modThr q fun u => { u with frag := s.leastIdx rs (fun _ => true) (s.idx q), path := [] }
      else x.modThr q fun u => { u with frag := s.leastIdx (s.liveRefs r.team (s.thr r).group) (fun p =>
        !rs.contains p && (s.thr p).frag == (s.thr q).frag) (s.idx q) }) s

/-- A convergence register fires when every thread of its mask is parked at its target or has exited (R189). -/
def State.fires (s : State) (t : Nat) (c : CvReg) : Bool :=
  c.valid && (setBits c.mask).all fun j =>
    let u := s.thr ⟨t, c.group.toNat * s.width t + j⟩
    u.exited || (u.parked && c.target == u.pc.extractLsb' 2 50)

/-- Registers of a group fire, and the parked threads that none holds go on, one fragment per PC (R189). -/
def State.fireCv (s : State) (t g : Nat) : State :=
  let s1 := s.modTeam t fun x => { x with halves := x.halves.map fun h =>
    { h with cvs := h.cvs.map fun c => if c.group.toNat = g ∧ s.fires t c then { c with valid := false } else c } }
  let out := (s.liveRefs t g).filter fun r => (s1.thr r).parked && !s1.heldAt r
  (out.map fun r => (s1.thr r).pc).eraseDups.foldl (fun x a =>
    let rs := out.filter fun r => (s1.thr r).pc == a
    (rs.foldl (fun x r => x.modThr r fun u => { u with parked := false }) x).regroup rs) s1

/-- The groups of a list of threads, each once, control threads left out. -/
def State.groupsOf (s : State) (rs : List Ref) : List (Nat × Nat) :=
  ((rs.filter fun r => !(s.thr r).ctl).map fun r => (r.team, (s.thr r).group)).eraseDups

/-- `settle` for every group of a list of threads. -/
def State.settleAll (s : State) (rs : List Ref) : State :=
  (s.groupsOf rs).foldl (fun x p => x.settle p.1 p.2) s

/-- Other fragments of a thread's group: bit j for the fragment numbered j (R185). -/
def State.siblings (s : State) (r : Ref) : BitVec 64 :=
  let t := s.thr r
  if t.ctl then 0
  else maskOf (((s.liveRefs r.team t.group).map fun q => (s.thr q).frag).filter (· != t.frag)).eraseDups

/-! ## Taking a trap (R357 to R363) -/

/-- The lane record of R360. -/
def LaneFault.word (f : LaneFault) : BitVec 32 :=
  0#17 ++ f.level ++ f.acc ++ f.reason ++ BitVec.ofNat 4 f.cause.code

/-- The lane record of a thread that did not fail (R358). -/
def laneNone : LaneFault := { cause := .none }

/-- The fault of highest cause, and among equal causes of the lowest index (R31, R359). -/
def primary : List (Nat × LaneFault) → Option (Nat × LaneFault)
  | [] => none
  | p :: ps =>
    match primary ps with
    | none => some p
    | some q =>
      if p.2.cause.code < q.2.cause.code ∨ (p.2.cause.code = q.2.cause.code ∧ p.1 ≤ q.1) then some p else some q

/-- The fragment word of R359. -/
def trapSum (prim : LaneFault) (defer ctl : Bool) (frag group : Nat) : BitVec 32 :=
  0#6 ++ prim.reason ++ BitVec.ofNat 7 group ++ BitVec.ofNat 7 frag ++ BitVec.ofBool ctl ++ BitVec.ofBool defer ++
    BitVec.ofNat 4 prim.cause.code

/-- Where a stopped thread goes on: past a barrier it has arrived at, else at its unit (R367). -/
def Thread.stopPc (t : Thread) : BitVec 64 :=
  match t.wait with
  | some (.bar ..) => t.nextPc
  | _ => t.pc

/-- One thread enters its handler, or a control thread takes the record only (R358, R363). -/
def Thread.enter (t : Thread) (epc addr sib mask : BitVec 64) (sum : BitVec 32) (own prim : LaneFault) (tvec : BitVec 64) :
    Thread :=
  { t with
    tr := { t.tr with epc := epc, trlane := own.word, trva := own.va, trsum := sum, trmask := mask, trsib := sib,
                      traddr := addr, trinfo := prim.info, trinfo2 := prim.info2 }
    cm := if t.ctl then t.cm else true
    pc := if t.ctl then t.pc else tvec
    hint := none
    wait := none
    walked := []
    parked := false }

/-- The messages that some threads wait to have answered are dropped: what abandons the wait abandons them (R367). -/
def State.dropMessages (s : State) (rs : List Ref) : State :=
  { s with messages := s.messages.map fun (m : Message) => if rs.contains m.own then { m with done := true } else m }

/-- A fragment takes a trap: the threads `frag` of a group, which are one fragment from then on. `faults` are the failing
lanes of the group by index in it; those of `frag` are its own. Each thread's EPC is where it stops, `addr` goes to TRADDR. A
fragment in custodian mode ends its launch with TRAP_NESTED, one without a handler with TRAP_UNHANDLED; a control thread
halts its team (R356, R358 to R363, R367). -/
def State.trapFrag (s : State) (frag : List Ref) (faults : List (Nat × LaneFault)) (defer : Bool) (addr : BitVec 64) : State :=
  match frag with
  | [] => s
  | r :: _ =>
    let t := s.thr r
    let ix (q : Ref) : Nat := if t.ctl then 0 else s.idx q
    let own := faults.filter fun p => frag.any fun q => ix q == p.1
    let prim : LaneFault := ((if defer then primary faults else (primary own).orElse fun _ => primary faults).map (·.2)).getD laneNone
    let low := s.leastIdx frag (fun _ => true) 64
    let sum := trapSum prim defer t.ctl (if t.ctl then 0 else low) (if t.ctl then 0x7F else t.group)
    let mask := maskOf (faults.map (·.1))
    let tvec := (s.team r.team).tvec
    let lane (q : Ref) : LaneFault := ((own.find? fun p => p.1 == ix q).map (·.2)).getD laneNone
    let l := (s.team r.team).launch
    if t.ctl then
      (s.modThr r fun u => u.enter u.stopPc addr 0 mask sum (lane r) prim tvec).haltTeam r.team
    else if t.cm && !defer then
      let pl : LaneFault := ((primary own).map (·.2)).getD prim
      (s.errorRecord (s.dieOf r) 0x12 2 (s.team r.team).ctxid 0 (pl.word ++ sum)).endLaunch l 0x21
    else if tvec = 0 then s.endLaunch l 0x20
    else
      let s1 := (s.dropMessages frag).regroup frag
      frag.foldl (fun x q => x.modThr q fun u => u.enter u.stopPc addr (s1.siblings q) mask sum (lane q) prim tvec) s1

/-- Return from a handler of one thread (R386). -/
def Thread.leave (t : Thread) : Thread := { t with pc := t.tr.epc, cm := false }

/-! ## Issuing one instruction for a bundle -/

/-- What one lane of a bundle does with the instruction. -/
inductive Verdict where
  /-- It acts. -/
  | run
  /-- Its guard is false: it retires the word with no effect (R223). -/
  | off
  /-- It cannot issue yet. -/
  | wait (w : Wait)
  /-- It fails, and its group performs nothing (R31). -/
  | fail (f : LaneFault)
  deriving DecidableEq, Repr, Inhabited

/-- The fault of a failing verdict. -/
def Verdict.fault? : Verdict → Option LaneFault
  | .fail f => some f
  | _ => none
/-- The wait of a waiting verdict. -/
def Verdict.wait? : Verdict → Option Wait
  | .wait w => some w
  | _ => none

/-- Core cycles for which a scheduling hint holds the thread after its instruction (R231). -/
def Thread.hintHold (t : Thread) : Nat :=
  match t.hint with
  | some (.sched p) => max ((p.extractLsb' 0 4).toNat) ((p.extractLsb' 4 1).toNat)
  | _ => 0

/-- A lane retires its word: the PC passes it, its hint is used up, its age restarts (R211, R227, R231). -/
def Thread.retire (t : Thread) : Thread :=
  { t with pc := t.nextPc, hint := none, wait := none, walked := [], age := 0, holdoff := t.hintHold }

/-- Each group retires one instruction for each of its fragments whose lowest thread is on the list (R211; log 9). -/
def State.countRetired (s : State) (rs : List Ref) : State :=
  (rs.filter fun r => !(s.thr r).ctl && (s.thr r).frag == s.idx r).foldl
    (fun x r => x.modGroup r.team (s.thr r).group fun g => { g with retired := min (g.retired + 1) 65535 }) s

/-- A thread has completed a unit: the address it goes to joins its path (R185; log 9). A thread that its own instruction has
sent to its handler, and a control thread, stand alone. -/
def Thread.noteUnit (t u : Thread) (now : Nat) : Thread :=
  if u.ctl || (u.cm && !t.cm) then { u with since := now } else { u with path := u.path ++ [u.pc], since := now }

/-- So for the lanes that have retired the word, given the state before it. -/
def State.notePath (s0 s : State) (go : List Ref) : State :=
  go.foldl (fun x r => x.modThr r fun u => (s0.thr r).noteUnit u s0.gtime) s

/-- A verdict that waits for a page-table walk: what the lane does is not yet known. -/
def Verdict.walks : Verdict → Bool
  | .wait (.walk ..) => true
  | _ => false

/-- Some lane of the bundle in the thread's group satisfies `p`. -/
def State.anyLane (s : State) (r : Ref) (p : Ref → Bool) : Bool := s.cur.any fun q => s.sameGroup q r && p q
/-- The lanes of the bundle whose group has a failing lane, once every lane of the group has been judged (R31). -/
def State.badLanes (s : State) (v : Ref → Verdict) : List Ref :=
  s.cur.filter fun r => s.anyLane r (fun q => (v q).fault?.isSome) && !s.anyLane r fun q => (v q).walks
/-- The lanes of the bundle that wait: each that has to by itself, and those of a group with a lane that waits for a walk,
which may yet fail for the group (R31, R184). -/
def State.stalledLanes (s : State) (v : Ref → Verdict) : List Ref :=
  let bad := s.badLanes v
  s.cur.filter fun r => !bad.contains r && ((v r).wait?.isSome || s.anyLane r fun q => (v q).walks)
/-- The lanes of the bundle that retire the word. -/
def State.goLanes (s : State) (v : Ref → Verdict) : List Ref :=
  let bad := s.badLanes v
  let stalled := s.stalledLanes v
  s.cur.filter fun r => !bad.contains r && !stalled.contains r
/-- The lanes of the bundle that act. -/
def State.runLanes (s : State) (v : Ref → Verdict) : List Ref := (s.goLanes v).filter fun r => v r == .run

/-- The failing lanes of a thread's group, by index in the group. -/
def State.groupFaults (s : State) (v : Ref → Verdict) (r : Ref) : List (Nat × LaneFault) :=
  (s.cur.filter fun q => s.sameGroup q r).filterMap fun q =>
    (v q).fault?.map fun f => (if (s.thr q).ctl then 0 else s.idx q, f)

/-- The fragments of a list of threads, each by one of its threads. -/
def State.fragLeads (s : State) (rs : List Ref) : List Ref :=
  rs.filter fun r => (rs.find? fun q => s.sameFrag q r) == some r

/-- The threads that trap with a lane: those of its fragment in its mode (R184, R355, R358). -/
def State.trapping (s : State) (r : Ref) : List Ref := (s.fragOf r).filter fun q => (s.thr q).cm == (s.thr r).cm

/-- Every fragment of the bundle in a failing group traps, with the unit's address (R31, R184, R358). -/
def State.trapBad (s0 s : State) (v : Ref → Verdict) : State :=
  (s0.fragLeads (s0.badLanes v)).foldl (fun x r =>
    x.trapFrag (s0.trapping r) (s0.groupFaults v r) false (s0.thr r).pc) s

/-- The wait that a waiting lane takes: while a lane of its group waits for a walk, its own walk or else the first of those;
otherwise its own wait. -/
def State.waitOf (s : State) (v : Ref → Verdict) (r : Ref) : Option Wait :=
  if (v r).walks then (v r).wait?
  else ((s.cur.filter fun q => s.sameGroup q r && (v q).walks).findSome? fun q => (v q).wait?).orElse fun _ => (v r).wait?

/-- A thread waits from now on, or waits on. -/
def Thread.stall (t : Thread) (w : Wait) (now : Nat) : Thread :=
  { t with wait := some w, since := if t.wait.isSome then t.since else now }

/-- Every waiting lane takes its wait. -/
def State.waitStalled (s0 s : State) (v : Ref → Verdict) : State :=
  (s0.stalledLanes v).foldl (fun x r =>
    match s0.waitOf v r with
    | some w => x.modThr r fun t => t.stall w s0.gtime
    | none => x) s

/-- One instruction for the bundle `s.cur`: `v` judges each lane on the state before it, the lanes that go retire the
word, and `act` performs it for those that run (R9, R31, R182 to R184, R223, R358). -/
def State.perform (s : State) (v : Ref → Verdict) (act : State → List Ref → State) : State :=
  let go := s.goLanes v
  let s1 := go.foldl (fun x r => x.modThr r Thread.retire) s
  let s2 := s.notePath (act s1 (s.runLanes v)) go
  ((State.trapBad s (State.waitStalled s (s2.countRetired go) v) v)).settleAll s.cur

end Sys2Proof.Machine
end

