-- ==== Sys2Proof/Machine/Operands.lean ====
section
/-! DEFINITION. The operand forms of the instruction words: which register fields each names and in what shape, the
hints it accepts, its role, privilege and region class, and the checks of R235 that every word shares. The checks of an
instruction of its own follow them. -/

namespace Sys2Proof.Machine

open Sys2Proof

/-! ## What a word names -/

/-- The shape of a register field (R225). -/
inductive Shape where
  | one | pair | block4 | block8
  deriving DecidableEq, Repr, Inhabited

/-- One register field and its shape. -/
structure Use where
  field : BitVec 6
  shape : Shape
  deriving DecidableEq, Repr, Inhabited

/-- Which immediate a wide hint widens (R228). -/
inductive Wide where
  | none | ri | m
  deriving DecidableEq, Repr, Inhabited

/-- The modifier fields that a word accepts (R123, R230). -/
structure Mods where
  rm : Bool := false
  sat : Bool := false
  ccls : Bool := false
  lte : Bool := false
  /-- Ordering codes other than none. -/
  ord : List (BitVec 3) := []
  deriving DecidableEq, Repr, Inhabited

/-- Groups that may issue a word (R178). -/
inductive RoleClass where
  | any | copy | matrix | vector
  deriving DecidableEq, Repr, Inhabited

/-- What becomes of a word inside a region (R312). -/
inductive RgnClass where
  /-- Performed. -/
  | free
  /-- NOP and YIELD: performed, and permitted between regions (R311). -/
  | pause
  /-- Buffered or deferred; not permitted in the prologue (R311). -/
  | effect
  /-- Acts on the open region. -/
  | act
  /-- RGNB. -/
  | begin_
  /-- EXIT: traps inside a region, and ends a harvest thread outside one (R259). -/
  | exit_
  /-- Traps REGION inside a region. -/
  | forbid
  deriving DecidableEq, Repr, Inhabited

/-- What the shared checks need to know of a word. -/
structure Info where
  g : BitVec 3 := 0
  reads : List Use := []
  writes : List Use := []
  /-- A call: writes G62:G63 or S31 (R256). -/
  link : Bool := false
  wide : Wide := .none
  mods : Mods := {}
  /-- FENCE, which must be given an ordering (R298). -/
  needOrd : Bool := false
  /-- A hint word (R227). -/
  hint : Bool := false
  /-- A reserved field is non-zero, in the lane stream and in the control stream. -/
  rsvLane : Bool := false
  rsvCtl : Bool := false
  priv : Bool := false
  /-- The control stream may issue it (R174). -/
  ctl : Bool := true
  role : RoleClass := .any
  /-- Fragment-collective (R183). -/
  coll : Bool := false
  rgn : RgnClass := .free
  /-- It may queue a deferred report (R364). -/
  report : Bool := false
  deriving DecidableEq, Repr, Inhabited

/-- One register. -/
def u1 (f : BitVec 6) : Use := ⟨f, .one⟩
/-- A pair. -/
def u2 (f : BitVec 6) : Use := ⟨f, .pair⟩
/-- A block of four. -/
def u4 (f : BitVec 6) : Use := ⟨f, .block4⟩
/-- A block of eight. -/
def u8 (f : BitVec 6) : Use := ⟨f, .block8⟩

/-- The register use of a width code of R233. -/
def useW (w : BitVec 3) (f : BitVec 6) : Use :=
  match w.toNat with
  | 3 => u2 f
  | 4 => u4 f
  | _ => u1 f

/-- Register or pair by the width bit of R234. -/
def useD (w : BitVec 1) (f : BitVec 6) : Use := if w = 1 then u2 f else u1 f

/-- A width code that loads or stores reserve (R233). -/
def badW (store : Bool) (w : BitVec 3) : Bool := decide (w.toNat = 7) || (store && decide (5 ≤ w.toNat))

/-- The float operations of ATOM, ATOMS and RED (R234). -/
def atomFloat (p : BitVec 4) : Bool := decide (10 ≤ p.toNat)

/-- Special registers of 64 bits (R263). -/
def srdWide (n : BitVec 6) : Bool := n == 0x05 || n == 0x14 || n == 0x15 || n == 0x16
/-- The special registers that exist (R263). -/
def srdExists (n : BitVec 6) : Bool := decide (n.toNat ≤ 0x17)

/-- The control registers (R18, R356). -/
def csrExists (n : BitVec 11) : Bool :=
  let k := n.toNat
  k == 0x010 || k == 0x011 || (decide (0x020 ≤ k) && decide (k ≤ 0x02B)) || k == 0x030 || k == 0x031 || k == 0x038 ||
    k == 0x040 || k == 0x041
/-- The control registers of 64 bits (R18, R356). -/
def csrWide (n : BitVec 11) : Bool :=
  csrExists n && decide (0x020 ≤ n.toNat) && n != 0x022 && n != 0x026 && n != 0x030 && n != 0x031 && n != 0x038
/-- The control registers of custodian mode only (R18, R356). -/
def csrPriv (n : BitVec 11) : Bool := csrExists n && decide (0x020 ≤ n.toNat)

/-- Destination and two sources. -/
def iRRR (g : BitVec 3) (d a b : BitVec 6) : Info := { g := g, reads := [u1 a, u1 b], writes := [u1 d] }
/-- Destination and one source. -/
def iRR (g : BitVec 3) (d a : BitVec 6) : Info := { g := g, reads := [u1 a], writes := [u1 d] }
/-- Rounding mode and saturation. -/
def mRound : Mods := { rm := true, sat := true }
/-- The modifiers of a copy command (R230). -/
def mCopy : Mods := { rm := true, sat := true, ccls := true }

/-- The words' operand table, from the opcode map (R232) and the rules its entries cite. -/
def infoOf : Instr → Info
  | .iadd g d a b | .isub g d a b | .imul g d a b | .imulh g d a b | .imulhu g d a b | .idiv g d a b
  | .idivu g d a b | .irem g d a b | .iremu g d a b | .imin g d a b | .imax g d a b | .iminu g d a b
  | .imaxu g d a b | .iadds g d a b | .isubs g d a b | .and g d a b | .or g d a b | .xor g d a b
  | .andn g d a b | .orn g d a b | .xnor g d a b | .shl g d a b | .shr g d a b | .sar g d a b
  | .rol g d a b | .rot g d a b | .bfe g d a b | .sel g d a b _
  | .fmin g d a b | .fmax g d a b | .fcpys g d a b | .pack g d a b => iRRR g d a b
  | .bfi g d a b => { g := g, reads := [u1 a, u1 b, u1 d], writes := [u1 d] }
  | .iabs g d a | .popc g d a | .clz g d a | .ctz g d a | .brev g d a | .mov g d a
  | .fabs g d a | .fneg g d a | .fclass g d a | .unpkLo g d a | .unpkHi g d a | .tagset g d a _ | .tagrd g d a =>
    iRR g d a
  | .iaddi g d a _ | .imuli g d a _ | .andi g d a _ | .ori g d a _ | .xori g d a _ => { iRR g d a with wide := .ri }
  | .shli g d a c | .shri g d a c | .sari g d a c =>
    { iRR g d a with rsvLane := decide (32 ≤ c.toNat), rsvCtl := decide (64 ≤ c.toNat) }
  | .movi g d _ => { g := g, writes := [u1 d], wide := .ri }
  | .aadd g d a b | .asub g d a b => { g := g, reads := [u2 a, u2 b], writes := [u2 d] }
  | .aadds g d a b | .aaddu g d a b => { g := g, reads := [u2 a, u1 b], writes := [u2 d] }
  | .amov g d a => { g := g, reads := [u2 a], writes := [u2 d] }
  | .amuls g d a b | .amulu g d a b => { g := g, reads := [u1 a, u1 b], writes := [u2 d] }
  | .aaddi g d a _ => { g := g, reads := [u2 a], writes := [u2 d], wide := .ri }
  | .icmp g _ a b w _ => { g := g, reads := [useD w a, useD w b] }
  | .pand g _ _ _ | .por g _ _ _ | .pxor g _ _ _ | .pandn g _ _ _ | .pnot g _ _ | .pmov g _ _ => { g := g }
  | .pget g d => { g := g, writes := [u1 d] }
  | .pput g a => { g := g, reads := [u1 a] }
  | .voteAny g _ _ | .voteAll g _ _ => { g := g, ctl := false, coll := true }
  | .voteBal g d _ => { g := g, writes := [u2 d], ctl := false, coll := true }
  | .shflIdx g d a b | .shflUp g d a b | .shflDown g d a b | .shflXor g d a b =>
    { iRRR g d a b with ctl := false, coll := true }
  | .bra g _ => { g := g }
  | .call g _ => { g := g, link := true }
  | .ret g a | .jmpr g a => { g := g, reads := [u2 a] }
  | .callr g a => { g := g, reads := [u2 a], link := true }
  | .brx g a b => { g := g, reads := [u2 a, u1 b] }
  | .exit g => { g := g, rgn := .exit_ }
  | .nop g | .yield g => { g := g, rgn := .pause }
  | .schsel g d a b => { g := g, reads := [u1 a, u1 b], writes := [u4 d] }
  | .fadd g d a b | .fsub g d a b | .fmul g d a b | .fdiv g d a b => { iRRR g d a b with mods := mRound }
  | .fsqrt g d a | .frcp g d a | .frsq g d a | .fexp2 g d a | .flog2 g d a | .fsin g d a | .fcos g d a
  | .ftanh g d a | .frint g d a => { iRR g d a with mods := mRound }
  | .ffma g d a b | .ffnma g d a b => { g := g, reads := [u1 a, u1 b, u1 d], writes := [u1 d], mods := mRound }
  | .fdot2 g d a b | .fdot4 g d a b =>
    { g := g, reads := [u1 a, u1 b, u1 d], writes := [u1 d], mods := mRound, ctl := false, role := .vector }
  | .fcmp g _ a b _ => { g := g, reads := [u1 a, u1 b] }
  | .fstat g d => { g := g, writes := [u1 d] }
  | .cvt g d a b t => { iRRR g d a b with mods := mRound, ctl := t == 2 }
  | .cvti g d a b _ t => { iRRR g d a b with mods := mRound, ctl := t == 1 || t == 2 }
  | .tagchk g _ a _ => { g := g, reads := [u1 a] }
  | .ld g d a _ w =>
    { g := g, reads := [u2 a], writes := [useW w d], wide := .m, rsvLane := badW false w, rsvCtl := badW false w,
      mods := { ccls := true, ord := [1], lte := decide (2 ≤ w.toNat) && decide (w.toNat ≤ 4) } }
  | .st g r a _ w =>
    { g := g, reads := [u2 a, useW w r], wide := .m, rsvLane := badW true w, rsvCtl := badW true w,
      mods := { ccls := true, ord := [2] }, rgn := .effect }
  | .lds g d a _ w =>
    { g := g, reads := [u1 a], writes := [useW w d], wide := .m, rsvLane := badW false w, rsvCtl := badW false w,
      mods := { ord := [1], lte := decide (2 ≤ w.toNat) && decide (w.toNat ≤ 4) } }
  | .sts g r a _ w =>
    { g := g, reads := [u1 a, useW w r], wide := .m, rsvLane := badW true w, rsvCtl := badW true w,
      mods := { ord := [2] }, rgn := .effect }
  | .ldc g d a _ w =>
    { g := g, reads := [u1 a], writes := [useW w d], wide := .m, rsvLane := badW false w, rsvCtl := badW false w,
      mods := { lte := decide (2 ≤ w.toNat) && decide (w.toNat ≤ 4) } }
  | .atom g d a b w p =>
    { g := g, reads := [u2 a, useD w b] ++ (if p = 9 then [useD w d] else []), writes := if d = 0 then [] else [useD w d],
      mods := { rm := atomFloat p, sat := atomFloat p, ord := [1, 2, 3] },
      rgn := if d = 0 ∧ p ≠ 9 then .effect else .forbid }
  | .atoms g d a b w p =>
    { g := g, reads := [u1 a, useD w b] ++ (if p = 9 then [useD w d] else []), writes := if d = 0 then [] else [useD w d],
      mods := { rm := atomFloat p, sat := atomFloat p, ord := [1, 2, 3] },
      rgn := if d = 0 ∧ p ≠ 9 then .effect else .forbid }
  | .red g w p a b =>
    { g := g, reads := [u2 a, useD w b], mods := { rm := atomFloat p, sat := atomFloat p, ord := [2] }, rgn := .effect }
  | .pref g a => { g := g, reads := [u2 a], mods := { ccls := true } }
  | .fence g => { g := g, mods := { ord := [1, 2, 3, 4] }, needOrd := true, rgn := .forbid }
  | .ifence g | .mwait g => { g := g, rgn := .forbid }
  | .mona g a => { g := g, reads := [u2 a], rgn := .forbid }
  | .bar g _ _ | .bara g _ _ | .barw g _ _ => { g := g, coll := true, rgn := .forbid }
  | .barredOr g d a _ _ | .barredAnd g d a _ _ | .barredMax g d a _ _ => { iRR g d a with coll := true, rgn := .forbid }
  | .cvset g _ _ => { g := g, wide := .ri, ctl := false, coll := true }
  | .qput g a => { g := g, reads := [u2 a], coll := true, rgn := .forbid }
  | .qget g d => { g := g, writes := [u2 d], coll := true, rgn := .forbid }
  | .flagSet g a | .flagClr g a => { g := g, reads := [u1 a], coll := true, rgn := .forbid }
  | .fwaitAny g d a | .fwaitAll g d a => { iRR g d a with coll := true, rgn := .forbid }
  | .rgnc g | .rgnx g => { g := g, ctl := false, coll := true, rgn := .act }
  | .rgnb g a _ => { g := g, reads := [u2 a], wide := .ri, ctl := false, coll := true, rgn := .begin_ }
  | .rgnn g a _ => { g := g, reads := [u2 a], wide := .ri, ctl := false, coll := true, rgn := .act }
  | .cpb g _ y z =>
    { g := g, reads := [u8 y, u2 z], mods := mCopy, ctl := false, role := .copy, coll := true, rgn := .forbid,
      report := true }
  | .cps g _ y z | .cpg g _ y z | .cpt g _ y z =>
    { g := g, reads := [u8 y, u2 z], mods := mCopy, role := .copy, rgn := .forbid }
  | .cpseal g d => { g := g, writes := [u1 d], rgn := .forbid }
  | .cpwait g a => { g := g, reads := [u1 a], rgn := .forbid, report := true }
  | .cpctrG g d a b | .cpctrT g d a b | .cpctrC g d a b | .cpctrD g d a b | .cpctrV g d a b | .cpctrS g d a b =>
    { g := g, reads := [u2 a, u2 b], writes := [u2 d], rgn := .forbid }
  | .slotx g _ y => { g := g, reads := [u2 y], coll := true, rgn := .forbid }
  | .slotw g _ _ | .slotr g _ => { g := g, coll := true, rgn := .forbid }
  | .slotq g _ y => { g := g, writes := [u4 y], coll := true }
  | .msend g x y z | .msendNb g x y z => { g := g, reads := [u1 y, u1 z], writes := [u1 x], rgn := .forbid }
  | .mringSet g _ a | .mringPop g _ a => { g := g, reads := [u1 a], coll := true, rgn := .forbid }
  | .mringOff g _ | .mringWatch g _ => { g := g, coll := true, rgn := .forbid }
  | .mringQ g _ d => { g := g, writes := [u2 d], coll := true, rgn := .forbid }
  | .mma g _ _ _ _ _ _ | .mmas g _ _ _ _ _ _ | .mmaq g _ _ _ _ _ =>
    { g := g, mods := { sat := true }, ctl := false, role := .matrix, coll := true, report := true }
  | .mzero g _ | .mlda g _ _ | .splrf g _ | .splev g _ _ _ | .spldr g _ _ _ | .splgr g _ _ _ | .splld g _ _ _ =>
    { g := g, ctl := false, role := .matrix, coll := true, report := true }
  | .mdrnS g _ _ _ | .mdrnSadd g _ _ _ =>
    { g := g, mods := mRound, ctl := false, role := .matrix, coll := true, rgn := .forbid, report := true }
  | .mdrnG g _ y _ | .mdrnGadd g _ y _ =>
    { g := g, reads := [u2 y], mods := mRound, ctl := false, role := .matrix, coll := true, report := true }
  | .mmv g y z _ =>
    { g := g, reads := [u8 y, u2 z], ctl := false, role := .matrix, coll := true, rgn := .forbid, report := true }
  | .oadam g _ _ z | .osgd g _ _ z =>
    { g := g, reads := [u8 z], mods := mRound, ctl := false, role := .vector, coll := true, rgn := .forbid,
      report := true }
  | .vredAdd g _ _ z =>
    { g := g, reads := [u1 z], mods := mRound, ctl := false, role := .vector, coll := true, rgn := .forbid,
      report := true }
  | .vredMax g _ _ z =>
    { g := g, reads := [u1 z], ctl := false, role := .vector, coll := true, rgn := .forbid, report := true }
  | .splkg g _ y => { g := g, reads := [u4 y], ctl := false, role := .matrix, coll := true, report := true }
  | .splkq g _ y => { g := g, writes := [u2 y], ctl := false, role := .matrix, coll := true, report := true }
  | .splst g _ _ _ => { g := g, ctl := false, role := .matrix, coll := true, rgn := .forbid, report := true }
  | .srd g d n => { g := g, writes := [if srdWide n then u2 d else u1 d] }
  | .clkq g d => { g := g, writes := [u1 d] }
  | .clkreq g a b => { g := g, reads := [u1 a, u1 b] }
  | .trap g _ => { g := g, rgn := .forbid }
  | .brkpt g _ => { g := g }
  | .probe g d => { g := g, writes := [u1 d], rgn := .forbid }
  | .csrr g d n => { g := g, writes := [if csrWide n then u2 d else u1 d], priv := csrPriv n }
  | .csrw g a n => { g := g, reads := [if csrWide n then u2 a else u1 a], priv := csrPriv n, rgn := .forbid }
  | .eret g | .halt g => { g := g, priv := true, rgn := .forbid }
  | .tlbinv g c e y z =>
    let bad := c = 3 ∨ (e ≠ 0 ∧ y ≠ 0) ∨ ((e = 2 ∨ e = 3) ∧ z ≠ 0)
    { g := g, reads := (if e = 0 then [u2 y] else []) ++ (if e = 0 ∨ e = 1 then [u1 z] else []),
      rsvLane := decide bad, rsvCtl := decide bad, priv := true, rgn := .forbid }
  | .accsave g _ y | .accrest g _ y | .accsaveV g y | .accrestV g y =>
    { g := g, reads := [u2 y], priv := true, coll := true, rgn := .forbid }
  | .hwide _ | .hmod _ | .hsched _ => { hint := true, rgn := .pause }
  | _ => {}

/-! ## Registers that exist -/

/-- A lane register exists with `r` declared registers (R172). -/
def laneExists (r n : Nat) : Bool := decide (n ≤ r - 4) || (decide (61 ≤ n) && decide (n < 64))

/-- How many registers a shape takes, in the lane stream and in the control stream (R225). -/
def Shape.size (ctl : Bool) : Shape → Nat
  | .one => 1
  | .pair => if ctl then 1 else 2
  | .block4 => if ctl then 2 else 4
  | .block8 => if ctl then 4 else 8

/-- The registers that a field names. -/
def Use.span (ctl : Bool) (u : Use) : List Nat := (List.range (u.shape.size ctl)).map fun k => u.field.toNat + k

/-- A field obeys R224 and R225 and its registers exist (R172). -/
def Use.ok (ctl : Bool) (r : Nat) (u : Use) : Bool :=
  if ctl then decide (u.field.toNat + u.shape.size true ≤ 32)
  else u.field.toNat % u.shape.size false == 0 && (u.span false).all (laneExists r)

/-- Every register that a word writes (R314). -/
def Info.writeRegs (f : Info) (ctl : Bool) : List Nat :=
  f.writes.flatMap (Use.span ctl) ++ (if f.link then (if ctl then [31] else [62, 63]) else [])
/-- Every register that a word reads. -/
def Info.readRegs (f : Info) (ctl : Bool) : List Nat := f.reads.flatMap (Use.span ctl)

/-- Registers that a word names, source before destination, one of which carries POISON (R104). -/
def Thread.poisoned (t : Thread) (us : List Use) : Bool :=
  us.any fun u => (u.span t.ctl).any fun n => (t.reg n).tag == tagPOISON

/-! ## Modifier fields -/

/-- The modifier payload of a pending hint; zero is the default of every field (R229). -/
def Thread.modWord (t : Thread) : BitVec 24 :=
  match t.hint with
  | some (.mods p) => p
  | _ => 0
/-- RM (R229). -/
def Thread.rm (t : Thread) : BitVec 3 := t.modWord.extractLsb' 0 3
/-- SAT (R229). -/
def Thread.sat (t : Thread) : Bool := t.modWord.getLsbD 3
/-- ORD (R229). -/
def Thread.ord (t : Thread) : BitVec 3 := t.modWord.extractLsb' 4 3
/-- SCOPE (R229). -/
def Thread.scope (t : Thread) : BitVec 3 := t.modWord.extractLsb' 7 3
/-- CCLS (R229). -/
def Thread.ccls (t : Thread) : BitVec 2 := t.modWord.extractLsb' 10 2
/-- The tag that a load writes (R229, R290). -/
def Thread.ltag (t : Thread) : Tag := if t.modWord.getLsbD 16 then t.modWord.extractLsb' 12 4 else tagI32

/-- The immediate of an RI word, at 32 bits (R250). -/
def Thread.imm32 (t : Thread) (i : BitVec 11) : BitVec 32 :=
  match t.hint with
  | some (.wide p) => (p.extractLsb' 0 21 ++ i : BitVec 32)
  | _ => i.signExtend 32
/-- The offset of an M word in units of its size (R228, R289). -/
def Thread.offM (t : Thread) (o : BitVec 8) : Int :=
  match t.hint with
  | some (.wide p) => (p ++ o : BitVec 32).toInt
  | _ => o.toInt

/-! ## The shared checks (R235) -/

/-- Step 3: the hint before the word is of a kind that the word does not accept (R227, R230). -/
def badHint (f : Info) (h : Option Hint) : Bool :=
  match h with
  | none => false
  | some (.wide _) => f.wide == .none
  | some (.mods _) => !(f.mods.rm || f.mods.sat || f.mods.ccls || f.mods.lte || f.mods.ord != [])
  | some (.sched _) => f.hint

/-- Step 4: a wide hint before an RI word has bits [23:21] set (R228). -/
def badWide (f : Info) (h : Option Hint) : Bool :=
  match h with
  | some (.wide p) => f.wide == .ri && p.extractLsb' 21 3 != 0
  | _ => false

/-- Step 4: a modifier field that the word does not accept, or a violation of R123 (R230). -/
def badMods (f : Info) (ctl : Bool) (h : Option Hint) : Bool :=
  match h with
  | some (.mods p) =>
    let ord := p.extractLsb' 4 3
    (p.extractLsb' 0 3 != 0 && !f.mods.rm) || (p.getLsbD 3 && !f.mods.sat) ||
    (ord != 0 && !f.mods.ord.contains ord) || (p.extractLsb' 7 3 != 0 && ord == 0) || (f.needOrd && ord == 0) ||
    (p.extractLsb' 10 2 != 0 && !f.mods.ccls) || (p.extractLsb' 12 5 != 0 && !f.mods.lte) ||
    (ctl && p.getLsbD 16 && decide (3 ≤ (p.extractLsb' 12 4).toNat))
  | _ => false

/-- FENCE without a modifier hint (R298). -/
def noOrd (f : Info) (h : Option Hint) : Bool :=
  match h with
  | some (.mods _) => false
  | _ => f.needOrd

/-- The role of a thread permits the word (R174, R178). -/
def roleOk (f : Info) (ctl : Bool) (role : BitVec 2) : Bool :=
  if ctl then f.ctl
  else match f.role with
    | .any => true
    | .copy => role == 1
    | .matrix => role == 2
    | .vector => role == 0

/-- Steps 5 to 7, for a word whose index fields are sound or not (`idx`). -/
def State.headFault (s : State) (f : Info) (idx : Bool) (r : Ref) : Option LaneFault :=
  let t := s.thr r
  if idx || !((f.reads ++ f.writes).all fun u => u.ok t.ctl (s.block r.team).regs) then some (illegalFault rBadRegister)
  else if f.priv && !t.cm then some (illegalFault rPrivileged)
  else if !roleOk f t.ctl (s.group r.team t.group).role then some (plainFault .role)
  else none

/-- The region rules of R311, R312 and R314; a group in custodian mode is not bound by them (R355). -/
def State.regionBad (s : State) (f : Info) (r : Ref) : Bool :=
  let t := s.thr r
  let g := s.group r.team t.group
  if s.harvest r.team && f.role == .copy then true
  else if t.ctl || t.cm then false
  else if g.open_ then
    f.rgn == .forbid || f.rgn == .begin_ || f.rgn == .exit_ || (f.writeRegs false).any fun n => g.mask.getLsbD n
  else if s.harvest r.team then
    match g.phase with
    | .between => !(f.rgn == .pause || f.rgn == .begin_ || f.rgn == .exit_)
    | _ => f.rgn == .effect || f.rgn == .act || f.rgn == .forbid
  else f.rgn == .act

/-- A lane's own verdict joined with the region rules: a failure of higher cause than REGION stands (R291, R357). -/
def joinRegion (bad : Bool) (v : Verdict) : Verdict :=
  if bad then
    match v with
    | .fail f => if f.cause.code ≤ Cause.region.code then .fail f else .fail (plainFault .region)
    | _ => .fail (plainFault .region)
  else v

/-- The verdict on one lane of a word: the checks of R235 in their order, then the region rules with the checks of its
entry, `own`. `rsv` and `idx` say that the word's own fields are bad. -/
def State.judgeWord (s : State) (i : Instr) (rsv idx : Bool) (own : Ref → Verdict) (r : Ref) : Verdict :=
  let f := infoOf i
  let t := s.thr r
  let g := t.pred f.g
  if badHint f t.hint then .fail (illegalFault rBadHint)
  else if badWide f t.hint || (g && (rsv || (if t.ctl then f.rsvCtl else f.rsvLane))) then
    .fail (illegalFault rReserved)
  else if badMods f t.ctl t.hint || (g && noOrd f t.hint) then .fail (illegalFault rBadModifier)
  else if !g then .off
  else match s.headFault f idx r with
    | some x => .fail x
    | none => joinRegion (s.regionBad f r) (own r)

/-- The verdict on one lane of a per-thread word. -/
def State.judge (s : State) (i : Instr) (own : Ref → Verdict) (r : Ref) : Verdict := s.judgeWord i false false own r

/-- The active threads of a bundle: those whose guard is true (R223). -/
def State.active (s : State) (i : Instr) : List Ref := s.cur.filter fun r => (s.thr r).pred (infoOf i).g

/-- The lowest-numbered active thread of the bundle. -/
def State.lead (s : State) (i : Instr) : Ref := (s.active i).headD default

/-- The verdict on a fragment-collective word: the checks of its entry are made once, for its lowest-numbered active
thread, and hold for the fragment, whose other threads retire the word with it (R183, R185). -/
def State.judgeAll (s : State) (i : Instr) (own : Ref → Verdict) (r : Ref) : Verdict :=
  let l := s.lead i
  match s.judgeWord i false false (fun _ => own l) r with
  | .off => if (s.active i).isEmpty then .off else ((s.judgeWord i false false (fun _ => own l) l).wait?.map .wait).getD .off
  | v => v

/-! ## The shapes of a meaning -/

/-- A per-thread word whose effect is on the thread alone: `own` judges a lane, `f` changes its thread (R183, R246).
`f` is given the state before the word and the lane's thread before it, whose PC and hint are those of the word. -/
def State.lanewise (s : State) (i : Instr) (own : Ref → Verdict) (f : Thread → Thread → Thread) : State :=
  s.perform (s.judge i own) fun s1 rs => rs.foldl (fun x r => x.modThr r (f (s.thr r))) s1

/-- No failure of its own. -/
def noCheck : Ref → Verdict := fun _ => .run

/-- POISON in one of the registers that a word reads (R104, R244). -/
def State.poisonCheck (s : State) (us : List Use) (r : Ref) : Verdict :=
  if (s.thr r).poisoned us then .fail poisonFault else .run

/-- A word with a bad field: it fails in every lane whose guard is true, and retires in the others (R223, R235). -/
def execBadField (i : Instr) (rsv idx : Bool) (s : State) : Host.Outcome State Fault Refusal :=
  .next (s.perform (s.judgeWord i rsv idx noCheck) fun x _ => x)

end Sys2Proof.Machine
end

