-- ==== Sys2Proof/Machine/Report.lean ====
section
/-! DEFINITION. Deferred reports: queueing them and taking them at a unit boundary (R364 to R367). -/

namespace Sys2Proof.Machine

open Sys2Proof

/-- A report with the cause of a fault, for an instruction at `addr` issued by the threads `from_` of a group. -/
def Report.of (f : LaneFault) (addr : BitVec 64) (from_ : List Nat) : Report :=
  { cause := f.cause, reason := f.reason, acc := f.acc, level := f.level, va := f.va, info := f.info, info2 := f.info2,
    addr := addr, from_ := from_, marks := [] }

/-- A report joins its group's queue (R364). -/
def State.pushReport (s : State) (t g : Nat) (x : Report) : State :=
  s.modGroup t g fun y => { y with reports := y.reports ++ [x] }

/-- An instruction that may raise a report waits while its group's queue has no place among its 8 for it and for those of
the group's fragments that come before its own in the bundle (R364). -/
def State.reportRoom (s : State) (r : Ref) (v : Verdict) : Verdict :=
  let t := s.thr r
  let before := ((s.cur.takeWhile (· != r)).filter fun q => s.sameGroup q r && !s.sameFrag q r).map fun q => (s.thr q).frag
  if v = .run && !t.ctl && decide (8 ≤ (s.group r.team t.group).reports.length + before.eraseDups.length) then .wait .reports
  else v

/-- The lowest-numbered thread that has not exited among those that issued a report's instruction (R366). -/
def State.reportThread (s : State) (t : Nat) (x : Report) : Option Ref :=
  ((x.from_.map fun k => (⟨t, k⟩ : Ref)).filter fun r => !(s.thr r).exited).head?

/-- The oldest report that the fragment of a thread is to take (R366). -/
def State.dueReport (s : State) (r : Ref) : Option Report :=
  let t := s.thr r
  if t.ctl then none
  else (s.group r.team t.group).reports.find? fun x =>
    match s.reportThread r.team x with
    | some q => s.sameFrag q r
    | none => false

/-- A report is to be taken before the thread's fragment issues its next unit, or at once in a wait: not in custodian mode
(R355), and not while a thread stands between a hint and its instruction (R227, R366). -/
def State.reportDue (s : State) (r : Ref) : Bool :=
  !(s.thr r).cm && (s.dueReport r).isSome &&
    (s.trapping r).all fun q => (s.thr q).hint.isNone || (s.thr q).wait.isSome

/-- The failing threads that a report marks, by index in the group (R366). -/
def State.reportMarks (s : State) (t : Nat) (x : Report) : List (Nat × LaneFault) :=
  match x.marks with
  | [] =>
    match s.reportThread t x with
    | some q => [(s.idx q, { cause := x.cause, reason := x.reason, acc := x.acc, level := x.level, va := x.va,
                             info := x.info, info2 := x.info2 })]
    | none => []
  | ms => (ms.map fun m => (s.idx ⟨t, m.1⟩, m.2)).filter fun m =>
      ms.any fun k => s.idx ⟨t, k.1⟩ == m.1 && !(s.thr ⟨t, k.1⟩).exited

/-- A fragment takes a report: a deferred trap, its waits abandoned (R366, R367). -/
def State.takeReport (s : State) (r : Ref) (x : Report) : State :=
  let t := s.thr r
  let frag := s.trapping r
  let s1 := s.modGroup r.team t.group fun g => { g with reports := g.reports.erase x }
  s1.trapFrag frag (s.reportMarks r.team x) true x.addr

end Sys2Proof.Machine
end

