-- ==== Sys2Proof/Machine/Round.lean ====
section
/-! DEFINITION. Number formats, exact values and the one rounding helper (R96 to R100, R106 to R110, R116). -/

namespace Sys2Proof.Machine

open Sys2Proof

/-! ## Formats (R96) -/

/-- The floating-point formats. -/
inductive Fmt where
  | f32 | bf16 | f16 | e5m2 | e4m3 | e2m1
  deriving DecidableEq, Repr, Inhabited

/-- Exponent bits. -/
def Fmt.ebits : Fmt → Nat
  | .f32 => 8 | .bf16 => 8 | .f16 => 5 | .e5m2 => 5 | .e4m3 => 4 | .e2m1 => 2
/-- Fraction bits. -/
def Fmt.mbits : Fmt → Nat
  | .f32 => 23 | .bf16 => 7 | .f16 => 10 | .e5m2 => 2 | .e4m3 => 3 | .e2m1 => 1
/-- Bias. -/
def Fmt.bias : Fmt → Nat
  | .f32 => 127 | .bf16 => 127 | .f16 => 15 | .e5m2 => 15 | .e4m3 => 7 | .e2m1 => 1
/-- Width in bits. -/
def Fmt.width (f : Fmt) : Nat := 1 + f.ebits + f.mbits
/-- Exponent of the smallest normal. -/
def Fmt.emin (f : Fmt) : Int := 1 - (f.bias : Int)
/-- The format has infinities. -/
def Fmt.hasInf : Fmt → Bool
  | .e4m3 | .e2m1 => false
  | _ => true
/-- Code of the largest finite magnitude. -/
def Fmt.maxCode : Fmt → Nat
  | .f32 => 0x7F7FFFFF | .bf16 => 0x7F7F | .f16 => 0x7BFF | .e5m2 => 0x7B | .e4m3 => 0x7E | .e2m1 => 0x7
/-- Exponent of the largest finite value (R112). -/
def Fmt.emax : Fmt → Int
  | .f32 => 127 | .bf16 => 127 | .f16 => 15 | .e5m2 => 15 | .e4m3 => 8 | .e2m1 => 2
/-- Canonical NaN; E2M1 has none. -/
def Fmt.nan : Fmt → Nat
  | .f32 => 0x7FC00000 | .bf16 => 0x7FC0 | .f16 => 0x7E00 | .e5m2 => 0x7E | .e4m3 => 0x7F | .e2m1 => 0
/-- Code of a positive infinity. -/
def Fmt.infCode (f : Fmt) : Nat := (2 ^ f.ebits - 1) * 2 ^ f.mbits
/-- A magnitude code with a sign. -/
def Fmt.signed (f : Fmt) (neg : Bool) (c : Nat) : Nat := if neg then c + 2 ^ (f.width - 1) else c

/-- The value of an operand: `fin neg m e` is ± m × 2^e with m > 0. -/
inductive Num where
  | nan
  | inf (neg : Bool)
  | zero (neg : Bool)
  | fin (neg : Bool) (m : Nat) (e : Int)
  deriving DecidableEq, Repr, Inhabited

/-- The value of a pattern of a format (R96, R97). -/
def Fmt.decode (f : Fmt) (bits : Nat) : Num :=
  let mag := bits % 2 ^ (f.width - 1)
  let neg := decide (bits / 2 ^ (f.width - 1) % 2 = 1)
  let e := mag / 2 ^ f.mbits
  let m := mag % 2 ^ f.mbits
  if mag = 0 then .zero neg
  else if f.hasInf ∧ mag = f.infCode then .inf neg
  else if mag > f.maxCode then .nan
  else if e = 0 then .fin neg m (f.emin - f.mbits)
  else .fin neg (m + 2 ^ f.mbits) ((e : Int) - f.bias - f.mbits)

/-- The value with its sign inverted. -/
def Num.neg : Num → Num
  | .nan => .nan
  | .inf s => .inf (!s)
  | .zero s => .zero (!s)
  | .fin s m e => .fin (!s) m e
/-- The sign of a value other than NaN. -/
def Num.isNeg : Num → Bool
  | .inf s => s
  | .zero s => s
  | .fin s _ _ => s
  | .nan => false
/-- NaN. -/
def Num.isNan : Num → Bool
  | .nan => true
  | _ => false
/-- Infinite. -/
def Num.isInf : Num → Bool
  | .inf _ => true
  | _ => false
/-- Zero. -/
def Num.isZero : Num → Bool
  | .zero _ => true
  | _ => false

/-! ## Square roots -/

/-- Newton's iteration from above. -/
def sqrtGo (n : Nat) : Nat → Nat → Nat
  | 0, x => x
  | k + 1, x => if (x + n / x) / 2 < x then sqrtGo n k ((x + n / x) / 2) else x
/-- The integer square root. -/
def isqrt (n : Nat) : Nat := if n = 0 then 0 else sqrtGo n (Nat.log2 n + 8) (2 ^ (Nat.log2 n / 2 + 1))

/-! ## Exact reals -/

/-- The real (p ± √m) / d, minus if `sub`; `d` is positive. A rational has m = 0. -/
structure Ex where
  p : Int
  sub : Bool
  m : Nat
  d : Nat
  deriving DecidableEq, Repr, Inhabited

/-- A rational. -/
def Ex.rat (p : Int) (d : Nat) : Ex := { p := p, sub := false, m := 0, d := d }
/-- An integer times a power of two. -/
def Ex.dyadic (p : Int) (e : Int) : Ex :=
  if 0 ≤ e then Ex.rat (p * 2 ^ e.toNat) 1 else Ex.rat p (2 ^ (-e).toNat)
/-- A value whose root is a whole number has none. -/
def Ex.norm (x : Ex) : Ex :=
  let r := isqrt x.m
  if r * r = x.m then { p := if x.sub then x.p - r else x.p + r, sub := false, m := 0, d := x.d } else x
/-- Its negation. -/
def Ex.neg (x : Ex) : Ex := { x with p := -x.p, sub := !x.sub }
/-- The sign of a normal value: below zero. -/
def Ex.isNeg (x : Ex) : Bool :=
  if x.m = 0 then decide (x.p < 0)
  else if x.sub then decide (x.p < 0) || decide (x.p.natAbs * x.p.natAbs < x.m)
  else decide (x.p < 0) && decide (x.m < x.p.natAbs * x.p.natAbs)
/-- A normal value is zero. -/
def Ex.isZero (x : Ex) : Bool := decide (x.m = 0) && decide (x.p = 0)
/-- floor(x × 2^k) of a normal value that is not negative. -/
def Ex.scaled (x : Ex) (k : Int) : Nat :=
  let p := if 0 ≤ k then x.p * 2 ^ k.toNat else x.p
  let m := if 0 ≤ k then x.m * 4 ^ k.toNat else x.m
  let d := if 0 ≤ k then x.d else x.d * 2 ^ (-k).toNat
  if x.m = 0 then (p / d).toNat
  else if x.sub then ((p - isqrt m - 1) / d).toNat
  else ((p + isqrt m) / d).toNat
/-- x × 2^k is a whole number. -/
def Ex.whole (x : Ex) (k : Int) : Bool :=
  decide (x.m = 0) &&
    (if 0 ≤ k then decide (x.p * 2 ^ k.toNat % x.d = 0) else decide (x.p % (x.d * 2 ^ (-k).toNat) = 0))
/-- floor(log2 x) of a positive normal value, of at least 2^−4096. -/
def Ex.lg (x : Ex) : Int :=
  let n := x.scaled 0
  if n ≠ 0 then Nat.log2 n else (Nat.log2 (x.scaled 512) : Int) - 512 -
    (if x.scaled 512 = 0 then 3584 - (Nat.log2 (x.scaled 4096) : Int) else 0)

/-! ## Rounding (R107 to R109) -/

/-- Status conditions, in the layout of FPSTAT (R272): INV, OVF, UNF, INX, DZ. -/
abbrev Conds := BitVec 5
/-- INV. -/
def cINV : Conds := 1
/-- OVF. -/
def cOVF : Conds := 2
/-- UNF. -/
def cUNF : Conds := 4
/-- INX. -/
def cINX : Conds := 8
/-- DZ. -/
def cDZ : Conds := 16

/-- A rounding mode of R106 with SAT, and the 16 bits that stochastic rounding draws (R108). -/
structure Mode where
  rm : BitVec 3
  sat : Bool
  rnd : BitVec 16
  deriving DecidableEq, Repr, Inhabited

/-- RNE without SAT. -/
def Mode.rne : Mode := { rm := 0, sat := false, rnd := 0 }

/-- The increment of R107: `t` is floor(a / q × 2^16) and `sticky` says that a / q × 2^16 is not whole (R107, R108). -/
def roundUp (m : Mode) (neg : Bool) (t : Nat) (sticky : Bool) : Bool :=
  let n := t / 65536
  let w := t % 65536
  let inexact := w ≠ 0 || sticky
  match m.rm.toNat with
  | 0 => decide (32768 < w) || (decide (w = 32768) && (sticky || decide (n % 2 = 1)))
  | 1 => false
  | 2 => !neg && inexact
  | 3 => neg && inexact
  | _ => decide (65536 ≤ (if sticky then w / 2 * 2 + 1 else w) + m.rnd.toNat)

/-- What R109 returns on overflow, as a magnitude code of the format: NaN where the format has no infinity. -/
def overflowBits (f : Fmt) (neg : Bool) (m : Mode) : Nat :=
  let toInf := match m.rm.toNat with
    | 1 => false
    | 2 => !neg
    | 3 => neg
    | _ => true
  if m.sat || !toInf || f == .e2m1 then f.signed neg f.maxCode
  else if f.hasInf then f.signed neg f.infCode
  else f.nan

/-- A non-zero exact value of sign `neg` and magnitude `a`, rounded to a format (R107). -/
def roundEx (f : Fmt) (m : Mode) (neg : Bool) (a : Ex) : Nat × Conds :=
  let lg := a.lg
  let qe := max lg f.emin - f.mbits
  let t := a.scaled (16 - qe)
  let sticky := !a.whole (16 - qe)
  let inx := decide (t % 65536 ≠ 0) || sticky
  let n := t / 65536 + (if roundUp m neg t sticky then 1 else 0)
  let ef := (qe + f.mbits - f.emin).toNat
  let code := if n < 2 ^ f.mbits then n else (ef + 1) * 2 ^ f.mbits + (n - 2 ^ f.mbits)
  if f.maxCode < code then (overflowBits f neg m, cOVF ||| cINX)
  else (f.signed neg code, (if inx then cINX else 0) ||| (if inx && decide (lg < f.emin) then cUNF else 0))

/-- A value that R107 rounds. -/
inductive Exact where
  | nan
  | inf (neg : Bool)
  | zero (neg : Bool)
  /-- Not zero. -/
  | val (x : Ex)
  deriving DecidableEq, Repr, Inhabited

/-- `round(x, F, m)` for a floating-point F (R107). -/
def round (f : Fmt) (m : Mode) : Exact → Nat × Conds
  | .nan => (f.nan, 0)
  | .inf neg =>
    if m.sat then (f.signed neg f.maxCode, 0)
    else if f.hasInf then (f.signed neg f.infCode, 0) else (f.nan, 0)
  | .zero neg => (f.signed neg 0, 0)
  | .val x => if x.isNeg then roundEx f m true x.neg else roundEx f m false x

/-- A non-zero magnitude rounded to a whole number (R107 with q = 1): the number, and whether it was inexact. -/
def roundInt (m : Mode) (neg : Bool) (a : Ex) : Nat × Bool :=
  let t := a.scaled 16
  let sticky := !a.whole 16
  (t / 65536 + (if roundUp m neg t sticky then 1 else 0), decide (t % 65536 ≠ 0) || sticky)

/-! ## Exact arithmetic on operands -/

/-- An operand as an exact value. -/
def Num.exact : Num → Exact
  | .nan => .nan
  | .inf s => .inf s
  | .zero s => .zero s
  | .fin s m e => .val (Ex.dyadic (if s then -(m : Int) else m) e)

/-- A finite operand as an integer times a power of two. -/
def Num.parts : Num → Int × Int
  | .fin s m e => (if s then -(m : Int) else m, e)
  | _ => (0, 0)

/-- The exact sum of finite terms m × 2^e. -/
def sumParts (l : List (Int × Int)) : Int × Int :=
  l.foldl (fun a b =>
    if a.2 ≤ b.2 then (a.1 + b.1 * 2 ^ (b.2 - a.2).toNat, a.2)
    else (a.1 * 2 ^ (a.2 - b.2).toNat + b.1, b.2)) (0, 0)

/-- A value and the conditions that an invalid operation sets with it. -/
abbrev Res := Exact × Conds

/-- A sum of zero from operands that do not share a sign: −0 under RD (R271). -/
def zeroSum (m : Mode) : Exact := .zero (m.rm == 3)

/-- FADD (R271, R275, R276). -/
def addNum (m : Mode) (a b : Num) : Res :=
  match a, b with
  | .nan, _ => (.nan, 0)
  | _, .nan => (.nan, 0)
  | .inf s, .inf t => if s = t then (.inf s, 0) else (.nan, cINV)
  | .inf s, _ => (.inf s, 0)
  | _, .inf t => (.inf t, 0)
  | .zero s, .zero t => (if s = t then .zero s else zeroSum m, 0)
  | _, _ =>
    let x := sumParts [a.parts, b.parts]
    (if x.1 = 0 then zeroSum m else .val (Ex.dyadic x.1 x.2), 0)

/-- The exact product of two operands, as an operand; NaN for 0 × ∞. -/
def mulNum (a b : Num) : Num :=
  match a, b with
  | .nan, _ => .nan
  | _, .nan => .nan
  | .inf _, .zero _ => .nan
  | .zero _, .inf _ => .nan
  | .inf s, b => .inf (s != b.isNeg)
  | a, .inf t => .inf (a.isNeg != t)
  | .zero s, b => .zero (s != b.isNeg)
  | a, .zero t => .zero (a.isNeg != t)
  | .fin s m e, .fin t n k => .fin (s != t) (m * n) (e + k)

/-- The product is 0 × ∞ (R276). -/
def mulInvalid (a b : Num) : Bool := (a.isInf && b.isZero) || (a.isZero && b.isInf)

/-- FMUL (R275, R276). -/
def mulRes (a b : Num) : Res := ((mulNum a b).exact, if mulInvalid a b then cINV else 0)

/-- A rational p × 2^x / (q × 2^y). -/
def quotient (p q : Nat) (x : Int) : Ex :=
  if 0 ≤ x then Ex.rat (p * 2 ^ x.toNat) q else Ex.rat p (q * 2 ^ (-x).toNat)

/-- FDIV (R275, R276). -/
def divRes (a b : Num) : Res :=
  match a, b with
  | .nan, _ => (.nan, 0)
  | _, .nan => (.nan, 0)
  | .inf _, .inf _ => (.nan, cINV)
  | .zero _, .zero _ => (.nan, cINV)
  | .inf s, b => (.inf (s != b.isNeg), 0)
  | a, .inf t => (.zero (a.isNeg != t), 0)
  | .zero s, b => (.zero (s != b.isNeg), 0)
  | a, .zero t => (.inf (a.isNeg != t), cDZ)
  | .fin s m e, .fin t n k =>
    let x := quotient m n (e - k)
    (.val (if s != t then x.neg else x), 0)

/-- The square root of m × 2^e. -/
def sqrtEx (m : Nat) (e : Int) : Ex :=
  let e2 := if e % 2 = 0 then e else e - 1
  let m2 := if e % 2 = 0 then m else 2 * m
  let h := e2 / 2
  (if 0 ≤ h then { p := 0, sub := false, m := m2 * 4 ^ h.toNat, d := 1 }
   else { p := 0, sub := false, m := m2, d := 2 ^ (-h).toNat } : Ex).norm

/-- FSQRT (R275, R276). -/
def sqrtRes : Num → Res
  | .nan => (.nan, 0)
  | .inf false => (.inf false, 0)
  | .zero s => (.zero s, 0)
  | .fin false m e => (.val (sqrtEx m e), 0)
  | _ => (.nan, cINV)

/-- `exact_sum` of a list of products (R116). -/
def exactSum (l : List Num) : Exact :=
  if l.any Num.isNan then .nan
  else if l.any (fun x => x == .inf false) && l.any (fun x => x == .inf true) then .nan
  else if l.any (fun x => x == .inf false) then .inf false
  else if l.any (fun x => x == .inf true) then .inf true
  else
    let x := sumParts ((l.filter fun n => !n.isZero).map Num.parts)
    if x.1 = 0 then .zero (!l.isEmpty && l.all fun n => n == .zero true) else .val (Ex.dyadic x.1 x.2)

/-- FFMA with the product negated or not (R271, R277). -/
def fmaRes (m : Mode) (d a b : Num) (negate : Bool) : Res :=
  let p := if negate then (mulNum a b).neg else mulNum a b
  if mulInvalid a b then (.nan, cINV) else addNum m d p

/-- The less of two values other than NaN, −0 below +0 (R275). -/
def numLess (a b : Num) : Bool :=
  match a, b with
  | .inf s, .inf t => s && !t
  | .inf s, _ => s
  | _, .inf t => !t
  | .zero s, .zero t => s && !t
  | _, _ =>
    let x := sumParts [a.parts, (-b.parts.1, b.parts.2)]
    decide (x.1 < 0)

/-- Numeric order, −0 equal to +0 (R281). -/
def numLt (a b : Num) : Bool := if a.isZero && b.isZero then false else numLess a b

end Sys2Proof.Machine
end

