-- ==== Sys2Proof/Machine/Approx.lean ====
section
/-! DEFINITION. FRCP, FRSQ, FEXP2, FLOG2, FSIN, FCOS and FTANH (R279, R280). The manual bounds the approximation y of each
function and does not state it: y is a free value of the interval that the bound leaves about f(x), one of 2^64 evenly
spaced places of it (log 8). The interval's middle is computed here to within 2^−90. -/

namespace Sys2Proof.Machine

open Sys2Proof

/-- The functions of R279. -/
inductive Fun where
  | rcp | rsq | exp2 | log2 | sin | cos | tanh
  deriving DecidableEq, Repr, Inhabited

/-- Number of a function, for its free value. -/
def Fun.code : Fun → Nat
  | .rcp => 0 | .rsq => 1 | .exp2 => 2 | .log2 => 3 | .sin => 4 | .cos => 5 | .tanh => 6

/-! ## Fixed point with 128 fraction bits -/

/-- One. -/
def fxOne : Int := 2 ^ 128
/-- π, truncated. -/
def fxPi : Int := 0x3243f6a8885a308d313198a2e03707344
/-- ln 2, truncated. -/
def fxLn2 : Int := 0xb17217f7d1cf79abc9e3b39803f2f6af
/-- A product. -/
def fxMul (a b : Int) : Int := a * b / fxOne

/-- Σ x^k / k! from a term on. -/
def fxExpGo (x : Int) : Nat → Nat → Int → Int
  | 0, _, _ => 0
  | n + 1, k, t => t + fxExpGo x n (k + 1) (fxMul t x / (k : Int))
/-- 2^t for t in [0, 1). -/
def fxExp2 (t : Int) : Int := fxExpGo (fxMul t fxLn2) 40 1 fxOne

/-- Bits of log2 y for y in [1, 2), by squaring. -/
def fxLogGo : Nat → Int → Int → Int
  | 0, _, acc => acc
  | n + 1, y, acc =>
    let z := y * y / 2 ^ 256
    if 2 ^ 257 ≤ z then fxLogGo n (z / 2) (2 * acc + 1) else fxLogGo n z (2 * acc)
/-- log2 of m / 2^k for a ratio in [1, 2). -/
def fxLog2 (m : Nat) (k : Nat) : Int := fxLogGo 128 ((m : Int) * 2 ^ 256 / 2 ^ k) 0

/-- Alternating terms of sine or cosine, from a term on: `k` is the next factor. -/
def fxTrigGo (x2 : Int) : Nat → Nat → Int → Int
  | 0, _, _ => 0
  | n + 1, k, t => t + fxTrigGo x2 n (k + 2) (-(fxMul t x2) / ((k : Int) * (k + 1)))
/-- sin x for x in [0, 2π). -/
def fxSin (x : Int) : Int := fxTrigGo (fxMul x x) 45 2 x
/-- cos x for x in [0, 2π). -/
def fxCos (x : Int) : Int := fxTrigGo (fxMul x x) 45 1 fxOne

/-- tanh x for x in [0, 45]. -/
def fxTanh (x : Int) : Int :=
  let u := 2 * x * fxOne / fxLn2
  let e := fxExp2 (u % fxOne) * 2 ^ (u / fxOne).toNat
  (e - fxOne) * fxOne / (e + fxOne)

/-- m × 2^e in fixed point. -/
def fxOf (m : Nat) (e : Int) : Int :=
  if 0 ≤ e + 128 then (m : Int) * 2 ^ (e + 128).toNat else (m : Int) / 2 ^ (-(e + 128)).toNat

/-! ## Places of an interval -/

/-- The last place. -/
def lastPlace : Int := 2 ^ 64 - 1
/-- The place that the part has of its interval (log 8). -/
def placeOf (f : Fun) (x : BitVec 32) : Int := ((Config.approx f.code x).toNat : Int)

/-- A rational added to a value. -/
def Ex.plus (x : Ex) (q : Ex) : Ex :=
  { p := x.p * q.d + q.p * x.d, sub := x.sub, m := x.m * (q.d * q.d), d := x.d * q.d }
/-- A rational times 2^k. -/
def Ex.shift (x : Ex) (k : Int) : Ex :=
  if 0 ≤ k then { x with p := x.p * 2 ^ k.toNat } else { x with d := x.d * 2 ^ (-k).toNat }

/-- A place of the interval of half-width 2^k h / 2 about 0. -/
def spread (f : Fun) (x : BitVec 32) (h : Int) (k : Int) : Ex :=
  (Ex.rat (h * (2 * placeOf f x - lastPlace)) (2 * lastPlace.toNat)).shift k

/-- A place of the interval of half-width `b` about a fixed-point value, less the error of 2^−90 on either side, times
2^k. -/
def spreadFx (f : Fun) (x : BitVec 32) (mid b k : Int) : Ex :=
  let w := b - 2 ^ 38
  (Ex.rat ((mid - w) * lastPlace + 2 * w * placeOf f x) (lastPlace.toNat * 2 ^ 128)).shift k

/-- A value that may be zero. -/
def Ex.toExact (x : Ex) (neg : Bool) : Exact :=
  if x.norm.isZero then .zero neg else .val (if neg then x.norm.neg else x.norm)

/-! ## The approximations -/

/-- Exponent of the target's last place for a value of this exponent (R107). -/
def ulpExp (lg : Int) : Int := max lg (-126) - 23

/-- m is a power of two. -/
def powTwo (m : Nat) : Bool := m == 2 ^ Nat.log2 m

/-- y for a source m × 2^e greater than zero, and whether y is exactly f(x) (R279). -/
def approxPos (f : Fun) (x : BitVec 32) (m : Nat) (e : Int) : Exact × Bool :=
  let lg : Int := Nat.log2 m + e
  match f with
  | .rcp =>
    let q := quotient 1 m (-e)
    if powTwo m then (.val q, true) else ((q.plus (spread f x 1 (ulpExp q.lg))).toExact false, false)
  | .rsq =>
    let m2 := if e % 2 = 0 then m else 2 * m
    let h := -(if e % 2 = 0 then e else e - 1) / 2
    let q : Ex := if 0 ≤ h then { p := 0, sub := false, m := m2 * 4 ^ h.toNat, d := m2 }
      else { p := 0, sub := false, m := m2, d := m2 * 2 ^ (-h).toNat }
    if powTwo m2 && Nat.log2 m2 % 2 == 0 then (.val q.norm, true)
    else ((q.norm.plus (spread f x 3 (ulpExp q.norm.lg))).toExact false, false)
  | .log2 =>
    let n := fxLog2 m (Nat.log2 m)
    let mid := lg * fxOne + n
    if powTwo m then (if lg = 0 then .zero false else .val (Ex.rat lg 1), true)
    else if lg = 0 ∨ lg = -1 then ((spreadFx f x mid (2 ^ 106) 0).toExact false, false)
    else
      let a : Int := if mid < 0 then -mid else mid
      ((spreadFx f x mid (3 * 2 ^ (104 + (Nat.log2 (a / fxOne).toNat))) 0).toExact false, false)
  | .sin | .cos =>
    if fxOf m e ≤ fxOf 1 20 then
      let r := fxOf m e % (2 * fxPi)
      ((spreadFx f x (if f = .sin then fxSin r else fxCos r) (2 ^ 107) 0).toExact false, false)
    else ((spread f x 1 1).toExact false, false)
  | .tanh =>
    let mid := if 45 * fxOne < fxOf m e then fxOne else fxTanh (fxOf m e)
    ((spreadFx f x mid (2 ^ 107) 0).toExact false, false)
  | .exp2 => (.zero false, false)

/-- y for FEXP2 of a finite source other than zero and below 128 (R279). -/
def approxExp2 (x : BitVec 32) (neg : Bool) (m : Nat) (e : Int) : Exact × Bool :=
  if neg ∧ fxOf 200 0 < fxOf m e then
    ((Ex.rat (placeOf .exp2 x) lastPlace.toNat).shift (-150) |>.toExact false, false)
  else
    let v : Int := if neg then -max 1 (fxOf m e) else fxOf m e
    let n := v / fxOne
    let t := v % fxOne
    let whole := t = 0 ∧ e ≥ -128
    let mid := fxExp2 t
    if whole ∧ -149 ≤ n then (.val (Ex.dyadic 1 n), true)
    else if n < -126 then
      let y := spreadFx .exp2 x mid (2 ^ (-n - 150 + 128).toNat) n
      ((if y.isNeg then Ex.rat 0 1 else y).toExact false, false)
    else ((spreadFx .exp2 x mid (3 * 2 ^ 104) n).toExact false, false)

/-- The negation of a value. -/
def Exact.neg : Exact → Exact
  | .nan => .nan
  | .inf s => .inf (!s)
  | .zero s => .zero (!s)
  | .val x => .val x.neg

/-- The outcome for a special source, with its conditions (R280), or none for an ordinary one. -/
def funSpecial (f : Fun) (x : Num) : Option (Exact × Conds) :=
  match x with
  | .nan => some (.nan, 0)
  | .zero s =>
    some (match f with
      | .rcp => (.inf s, cDZ)
      | .rsq => (.inf s, cDZ)
      | .log2 => (.inf true, cDZ)
      | .exp2 | .cos => (.val (Ex.rat 1 1), 0)
      | .sin | .tanh => (.zero s, 0))
  | .inf s =>
    some (match f with
      | .rcp => (.zero s, 0)
      | .rsq => if s then (.nan, cINV) else (.zero false, 0)
      | .exp2 => if s then (.zero false, 0) else (.inf false, 0)
      | .log2 => if s then (.nan, cINV) else (.inf false, 0)
      | .sin | .cos => (.nan, cINV)
      | .tanh => (.val (Ex.rat (if s then -1 else 1) 1), 0))
  | .fin s _ _ => if s && (f == .rsq || f == .log2) then some (.nan, cINV) else none

/-- y for an ordinary source, and whether it is exactly f(x) (R279). -/
def funOrdinary (f : Fun) (x : BitVec 32) (s : Bool) (m : Nat) (e : Int) : Exact × Bool :=
  match f with
  | .exp2 => approxExp2 x s m e
  | .cos => approxPos .cos (x &&& 0x7FFFFFFF) m e
  | .log2 | .rsq => approxPos f x m e
  | .rcp | .sin | .tanh =>
    let y := approxPos f (x &&& 0x7FFFFFFF) m e
    (if s then y.1.neg else y.1, y.2)

/-- A magnitude below the smallest normal of FP32. -/
def Exact.tiny : Exact → Bool
  | .val x => decide ((if x.isNeg then x.neg else x).lg < -126)
  | _ => false

/-- Result and conditions of a function of R279 at a pattern. INX says that the result is not f(x), or not what R280
gives; UNF follows it (R107). -/
def funResult (f : Fun) (x : BitVec 32) (md : Mode) : Nat × Conds :=
  match Fmt.f32.decode x.toNat with
  | .fin s m e =>
    match funSpecial f (.fin s m e) with
    | some (v, c) => ((round .f32 md v).1, c)
    | none =>
      if f = .exp2 ∧ s = false ∧ fxOf 128 0 ≤ fxOf m e then (overflowBits .f32 false md, cOVF ||| cINX)
      else
        let (y, exact) := funOrdinary f x s m e
        let (bits, c) := round .f32 md y
        if exact then (bits, c) else (bits, c ||| cINX ||| (if y.tiny then cUNF else 0))
  | n =>
    match funSpecial f n with
    | some (v, c) =>
      ((round .f32 md v).1, c ||| (match v with | .inf _ => if md.sat then cINX else 0 | _ => 0))
    | none => (Fmt.f32.nan, 0)

end Sys2Proof.Machine
end

