-- ==== Sys2Proof/Machine/Flags.lean ====
section
/-! DEFINITION. The status words: FPSTAT of a thread (R272, R273), CPSTAT and ESTAT of a team (R154, R320). -/

namespace Sys2Proof.Machine

open Sys2Proof

/-- Conditions join a thread's FPSTAT (R273). -/
def Thread.orFp (t : Thread) (c : Conds) : Thread := { t with fpstat := t.fpstat ||| c.setWidth 32 }

/-- Conditions join a team's CPSTAT, bits [3:0]: INV, OVF, UNF, INX (R154). -/
def State.orCpstat (s : State) (t : Nat) (c : Conds) : State :=
  s.modTeam t fun x => { x with cpstat := x.cpstat ||| (c.setWidth 4).setWidth 32 }

/-- Conditions join a team's ESTAT (R320). -/
def State.orEstat (s : State) (t : Nat) (c : Conds) : State :=
  s.modTeam t fun x => { x with estat := x.estat ||| c.setWidth 32 }

end Sys2Proof.Machine
end

