-- ==== Sys2Proof/Machine/Integer.lean ====
section
/-! DEFINITION. Integer arithmetic, logic, shifts, bit fields, immediates and address pairs (R243 to R252). -/

namespace Sys2Proof.Machine

open Sys2Proof

/-! ## Operations at N bits, N = 32 in the lane stream and 64 in the control stream (R243) -/

/-- IMULH (R247). -/
def mulhs (n : Nat) (a b : BitVec n) : BitVec n := BitVec.ofInt n (a.toInt * b.toInt / 2 ^ n)
/-- IMULHU (R247). -/
def mulhu (n : Nat) (a b : BitVec n) : BitVec n := BitVec.ofNat n (a.toNat * b.toNat / 2 ^ n)
/-- IDIV: truncating, all ones for a zero divisor, the dividend on overflow (R247). -/
def divs (n : Nat) (a b : BitVec n) : BitVec n :=
  if b = 0 then BitVec.allOnes n
  else if a = BitVec.intMin n ∧ b = BitVec.allOnes n then a
  else BitVec.ofInt n (a.toInt.tdiv b.toInt)
/-- IREM: the sign of the dividend, the dividend for a zero divisor (R247). -/
def rems (n : Nat) (a b : BitVec n) : BitVec n :=
  if b = 0 then a
  else if a = BitVec.intMin n ∧ b = BitVec.allOnes n then 0
  else BitVec.ofInt n (a.toInt - b.toInt * a.toInt.tdiv b.toInt)
/-- IDIVU (R247). -/
def divu (n : Nat) (a b : BitVec n) : BitVec n :=
  if b = 0 then BitVec.allOnes n else BitVec.ofNat n (a.toNat / b.toNat)
/-- IREMU (R247). -/
def remu (n : Nat) (a b : BitVec n) : BitVec n :=
  if b = 0 then a else BitVec.ofNat n (a.toNat - b.toNat * (a.toNat / b.toNat))
/-- A signed sum or difference clamped to N bits (R247). -/
def satN (n : Nat) (x : Int) : BitVec n := BitVec.ofInt n (satInt x (-(2 ^ (n - 1))) (2 ^ (n - 1) - 1))
/-- IABS (R247). -/
def absN (n : Nat) (a : BitVec n) : BitVec n := BitVec.ofInt n a.toInt.natAbs
/-- The shift count: the low bits of b (R248). -/
def shiftCount (n : Nat) (b : BitVec n) : Nat := b.toNat % n
/-- SAR (R248). -/
def sarN (n : Nat) (a : BitVec n) (c : Nat) : BitVec n := a.sshiftRight c
/-- POPC (R248). -/
def popcN (n : Nat) (a : BitVec n) : BitVec n := BitVec.ofNat n ((List.range n).filter fun k => a.getLsbD k).length
/-- CLZ (R248). -/
def clzN (n : Nat) (a : BitVec n) : BitVec n :=
  BitVec.ofNat n ((List.range n).takeWhile fun k => !a.getLsbD (n - 1 - k)).length
/-- CTZ (R248). -/
def ctzN (n : Nat) (a : BitVec n) : BitVec n := BitVec.ofNat n ((List.range n).takeWhile fun k => !a.getLsbD k).length
/-- The mask of BFE and BFI: length from bit 8 up, position in the low bits (R249). -/
def fieldMask (n : Nat) (b : BitVec n) : BitVec n :=
  BitVec.ofNat n ((2 ^ (b.toNat / 256 % n) - 1) * 2 ^ shiftCount n b)
/-- BFE (R249). -/
def bfeN (n : Nat) (a b : BitVec n) : BitVec n := (a &&& fieldMask n b) >>> shiftCount n b
/-- BFI into `d` (R249). -/
def bfiN (n : Nat) (d a b : BitVec n) : BitVec n :=
  (d &&& ~~~fieldMask n b) ||| ((a <<< shiftCount n b) &&& fieldMask n b)

/-! ## Reading operands and writing results (R243, R244) -/

/-- POISON in a source (R104, R244). -/
def State.srcCheck (s : State) (i : Instr) : Ref → Verdict := s.poisonCheck (infoOf i).reads

/-- A word that reads registers of its lane, traps POISON on a poisoned one and changes only the lane's thread. -/
def State.register (s : State) (i : Instr) (f : Thread → Thread → Thread) : State := s.lanewise i (s.srcCheck i) f

/-- Writes an N-bit result computed from registers, tagged I32 (R243, R244). -/
def Thread.setN (t u : Thread) (d : BitVec 6) (f : (n : Nat) → BitVec n) : Thread :=
  u.setReg d.toNat { val := if t.ctl then f 64 else (f 32).setWidth 64, tag := tagI32 }
/-- The N-bit value of a register (R243). -/
def Thread.valN (t : Thread) (n : Nat) (f : BitVec 6) : BitVec n := (t.reg f.toNat).val.setWidth n
/-- One source. -/
def Thread.int1 (t u : Thread) (d a : BitVec 6) (op : (n : Nat) → BitVec n → BitVec n) : Thread :=
  t.setN u d fun n => op n (t.valN n a)
/-- Two sources. -/
def Thread.int2 (t u : Thread) (d a b : BitVec 6) (op : (n : Nat) → BitVec n → BitVec n → BitVec n) : Thread :=
  t.setN u d fun n => op n (t.valN n a) (t.valN n b)
/-- A source and an immediate (R250). -/
def Thread.intImm (t u : Thread) (d a : BitVec 6) (i : BitVec 11) (op : (n : Nat) → BitVec n → BitVec n → BitVec n) :
    Thread :=
  t.setN u d fun n => op n (t.valN n a) ((t.imm32 i).signExtend n)

/-! ## Meanings -/

/-- IADD: the sum, wrapping (R247). -/
def execIadd (g : BitVec 3) (d a b : BitVec 6) (s : State) : Host.Outcome State Fault Refusal :=
  .next (s.register (.iadd g d a b) fun t u => t.int2 u d a b fun _ x y => x + y)

/-- ISUB: the difference, wrapping (R247). -/
def execIsub (g : BitVec 3) (d a b : BitVec 6) (s : State) : Host.Outcome State Fault Refusal :=
  .next (s.register (.isub g d a b) fun t u => t.int2 u d a b fun _ x y => x - y)

/-- IMUL: the low half of the product (R247). -/
def execImul (g : BitVec 3) (d a b : BitVec 6) (s : State) : Host.Outcome State Fault Refusal :=
  .next (s.register (.imul g d a b) fun t u => t.int2 u d a b fun _ x y => x * y)

/-- IMULH: the high half of the signed product (R247). -/
def execImulh (g : BitVec 3) (d a b : BitVec 6) (s : State) : Host.Outcome State Fault Refusal :=
  .next (s.register (.imulh g d a b) fun t u => t.int2 u d a b fun n x y => mulhs n x y)

/-- IMULHU: the high half of the unsigned product (R247). -/
def execImulhu (g : BitVec 3) (d a b : BitVec 6) (s : State) : Host.Outcome State Fault Refusal :=
  .next (s.register (.imulhu g d a b) fun t u => t.int2 u d a b fun n x y => mulhu n x y)

/-- IDIV (R247). -/
def execIdiv (g : BitVec 3) (d a b : BitVec 6) (s : State) : Host.Outcome State Fault Refusal :=
  .next (s.register (.idiv g d a b) fun t u => t.int2 u d a b fun n x y => divs n x y)

/-- IDIVU (R247). -/
def execIdivu (g : BitVec 3) (d a b : BitVec 6) (s : State) : Host.Outcome State Fault Refusal :=
  .next (s.register (.idivu g d a b) fun t u => t.int2 u d a b fun n x y => divu n x y)

/-- IREM (R247). -/
def execIrem (g : BitVec 3) (d a b : BitVec 6) (s : State) : Host.Outcome State Fault Refusal :=
  .next (s.register (.irem g d a b) fun t u => t.int2 u d a b fun n x y => rems n x y)

/-- IREMU (R247). -/
def execIremu (g : BitVec 3) (d a b : BitVec 6) (s : State) : Host.Outcome State Fault Refusal :=
  .next (s.register (.iremu g d a b) fun t u => t.int2 u d a b fun n x y => remu n x y)

/-- IMIN: the signed lesser (R247). -/
def execImin (g : BitVec 3) (d a b : BitVec 6) (s : State) : Host.Outcome State Fault Refusal :=
  .next (s.register (.imin g d a b) fun t u => t.int2 u d a b fun _ x y => if x.slt y then x else y)

/-- IMAX: the signed greater (R247). -/
def execImax (g : BitVec 3) (d a b : BitVec 6) (s : State) : Host.Outcome State Fault Refusal :=
  .next (s.register (.imax g d a b) fun t u => t.int2 u d a b fun _ x y => if x.slt y then y else x)

/-- IMINU: the unsigned lesser (R247). -/
def execIminu (g : BitVec 3) (d a b : BitVec 6) (s : State) : Host.Outcome State Fault Refusal :=
  .next (s.register (.iminu g d a b) fun t u => t.int2 u d a b fun _ x y => if x.ult y then x else y)

/-- IMAXU: the unsigned greater (R247). -/
def execImaxu (g : BitVec 3) (d a b : BitVec 6) (s : State) : Host.Outcome State Fault Refusal :=
  .next (s.register (.imaxu g d a b) fun t u => t.int2 u d a b fun _ x y => if x.ult y then y else x)

/-- IADDS: the signed sum, saturating (R247). -/
def execIadds (g : BitVec 3) (d a b : BitVec 6) (s : State) : Host.Outcome State Fault Refusal :=
  .next (s.register (.iadds g d a b) fun t u => t.int2 u d a b fun n x y => satN n (x.toInt + y.toInt))

/-- ISUBS: the signed difference, saturating (R247). -/
def execIsubs (g : BitVec 3) (d a b : BitVec 6) (s : State) : Host.Outcome State Fault Refusal :=
  .next (s.register (.isubs g d a b) fun t u => t.int2 u d a b fun n x y => satN n (x.toInt - y.toInt))

/-- IABS: the absolute value (R247). -/
def execIabs (g : BitVec 3) (d a : BitVec 6) (s : State) : Host.Outcome State Fault Refusal :=
  .next (s.register (.iabs g d a) fun t u => t.int1 u d a fun n x => absN n x)

/-- AND (R248). -/
def execAnd (g : BitVec 3) (d a b : BitVec 6) (s : State) : Host.Outcome State Fault Refusal :=
  .next (s.register (.and g d a b) fun t u => t.int2 u d a b fun _ x y => x &&& y)

/-- OR (R248). -/
def execOr (g : BitVec 3) (d a b : BitVec 6) (s : State) : Host.Outcome State Fault Refusal :=
  .next (s.register (.or g d a b) fun t u => t.int2 u d a b fun _ x y => x ||| y)

/-- XOR (R248). -/
def execXor (g : BitVec 3) (d a b : BitVec 6) (s : State) : Host.Outcome State Fault Refusal :=
  .next (s.register (.xor g d a b) fun t u => t.int2 u d a b fun _ x y => x ^^^ y)

/-- ANDN (R248). -/
def execAndn (g : BitVec 3) (d a b : BitVec 6) (s : State) : Host.Outcome State Fault Refusal :=
  .next (s.register (.andn g d a b) fun t u => t.int2 u d a b fun _ x y => x &&& ~~~y)

/-- ORN (R248). -/
def execOrn (g : BitVec 3) (d a b : BitVec 6) (s : State) : Host.Outcome State Fault Refusal :=
  .next (s.register (.orn g d a b) fun t u => t.int2 u d a b fun _ x y => x ||| ~~~y)

/-- XNOR (R248). -/
def execXnor (g : BitVec 3) (d a b : BitVec 6) (s : State) : Host.Outcome State Fault Refusal :=
  .next (s.register (.xnor g d a b) fun t u => t.int2 u d a b fun _ x y => ~~~(x ^^^ y))

/-- SHL (R248). -/
def execShl (g : BitVec 3) (d a b : BitVec 6) (s : State) : Host.Outcome State Fault Refusal :=
  .next (s.register (.shl g d a b) fun t u => t.int2 u d a b fun n x y => x <<< shiftCount n y)

/-- SHR (R248). -/
def execShr (g : BitVec 3) (d a b : BitVec 6) (s : State) : Host.Outcome State Fault Refusal :=
  .next (s.register (.shr g d a b) fun t u => t.int2 u d a b fun n x y => x >>> shiftCount n y)

/-- SAR (R248). -/
def execSar (g : BitVec 3) (d a b : BitVec 6) (s : State) : Host.Outcome State Fault Refusal :=
  .next (s.register (.sar g d a b) fun t u => t.int2 u d a b fun n x y => sarN n x (shiftCount n y))

/-- ROL (R248). -/
def execRol (g : BitVec 3) (d a b : BitVec 6) (s : State) : Host.Outcome State Fault Refusal :=
  .next (s.register (.rol g d a b) fun t u => t.int2 u d a b fun n x y => x.rotateLeft (shiftCount n y))

/-- ROT: rotation to the right (R248). -/
def execRot (g : BitVec 3) (d a b : BitVec 6) (s : State) : Host.Outcome State Fault Refusal :=
  .next (s.register (.rot g d a b) fun t u => t.int2 u d a b fun n x y => x.rotateRight (shiftCount n y))

/-- POPC (R248). -/
def execPopc (g : BitVec 3) (d a : BitVec 6) (s : State) : Host.Outcome State Fault Refusal :=
  .next (s.register (.popc g d a) fun t u => t.int1 u d a fun n x => popcN n x)

/-- CLZ (R248). -/
def execClz (g : BitVec 3) (d a : BitVec 6) (s : State) : Host.Outcome State Fault Refusal :=
  .next (s.register (.clz g d a) fun t u => t.int1 u d a fun n x => clzN n x)

/-- CTZ (R248). -/
def execCtz (g : BitVec 3) (d a : BitVec 6) (s : State) : Host.Outcome State Fault Refusal :=
  .next (s.register (.ctz g d a) fun t u => t.int1 u d a fun n x => ctzN n x)

/-- BREV (R248). -/
def execBrev (g : BitVec 3) (d a : BitVec 6) (s : State) : Host.Outcome State Fault Refusal :=
  .next (s.register (.brev g d a) fun t u => t.int1 u d a fun _ x => x.reverse)

/-- BFE (R249). -/
def execBfe (g : BitVec 3) (d a b : BitVec 6) (s : State) : Host.Outcome State Fault Refusal :=
  .next (s.register (.bfe g d a b) fun t u => t.int2 u d a b fun n x y => bfeN n x y)

/-- BFI: the destination is a third source (R249). -/
def execBfi (g : BitVec 3) (d a b : BitVec 6) (s : State) : Host.Outcome State Fault Refusal :=
  .next (s.register (.bfi g d a b) fun t u => t.setN u d fun n => bfiN n (t.valN n d) (t.valN n a) (t.valN n b))

/-- MOV: data and tag (R248). -/
def execMov (g : BitVec 3) (d a : BitVec 6) (s : State) : Host.Outcome State Fault Refusal :=
  .next (s.register (.mov g d a) fun t u => u.setReg d.toNat (t.reg a.toNat))

/-- IADDI (R250). -/
def execIaddi (g : BitVec 3) (d a : BitVec 6) (i : BitVec 11) (s : State) : Host.Outcome State Fault Refusal :=
  .next (s.register (.iaddi g d a i) fun t u => t.intImm u d a i fun _ x y => x + y)

/-- IMULI (R250). -/
def execImuli (g : BitVec 3) (d a : BitVec 6) (i : BitVec 11) (s : State) : Host.Outcome State Fault Refusal :=
  .next (s.register (.imuli g d a i) fun t u => t.intImm u d a i fun _ x y => x * y)

/-- ANDI (R250). -/
def execAndi (g : BitVec 3) (d a : BitVec 6) (i : BitVec 11) (s : State) : Host.Outcome State Fault Refusal :=
  .next (s.register (.andi g d a i) fun t u => t.intImm u d a i fun _ x y => x &&& y)

/-- ORI (R250). -/
def execOri (g : BitVec 3) (d a : BitVec 6) (i : BitVec 11) (s : State) : Host.Outcome State Fault Refusal :=
  .next (s.register (.ori g d a i) fun t u => t.intImm u d a i fun _ x y => x ||| y)

/-- XORI (R250). -/
def execXori (g : BitVec 3) (d a : BitVec 6) (i : BitVec 11) (s : State) : Host.Outcome State Fault Refusal :=
  .next (s.register (.xori g d a i) fun t u => t.intImm u d a i fun _ x y => x ^^^ y)

/-- SHLI: a bit set above the count field is a reserved field (R251). -/
def execShli (g : BitVec 3) (d a : BitVec 6) (c : BitVec 11) (s : State) : Host.Outcome State Fault Refusal :=
  .next (s.register (.shli g d a c) fun t u => t.int1 u d a fun n x => x <<< (c.toNat % n))

/-- SHRI: a bit set above the count field is a reserved field (R251). -/
def execShri (g : BitVec 3) (d a : BitVec 6) (c : BitVec 11) (s : State) : Host.Outcome State Fault Refusal :=
  .next (s.register (.shri g d a c) fun t u => t.int1 u d a fun n x => x >>> (c.toNat % n))

/-- SARI: a bit set above the count field is a reserved field (R251). -/
def execSari (g : BitVec 3) (d a : BitVec 6) (c : BitVec 11) (s : State) : Host.Outcome State Fault Refusal :=
  .next (s.register (.sari g d a c) fun t u => t.int1 u d a fun n x => sarN n x (c.toNat % n))

/-- MOVI (R250). -/
def execMovi (g : BitVec 3) (d : BitVec 6) (i : BitVec 11) (s : State) : Host.Outcome State Fault Refusal :=
  .next (s.register (.movi g d i) fun t u => t.setN u d fun n => (t.imm32 i).signExtend n)

/-- AADD (R252). -/
def execAadd (g : BitVec 3) (d a b : BitVec 6) (s : State) : Host.Outcome State Fault Refusal :=
  .next (s.register (.aadd g d a b) fun t u =>
    u.setPair d.toNat (t.pairVal a.toNat + t.pairVal b.toNat) tagI32)

/-- ASUB (R252). -/
def execAsub (g : BitVec 3) (d a b : BitVec 6) (s : State) : Host.Outcome State Fault Refusal :=
  .next (s.register (.asub g d a b) fun t u =>
    u.setPair d.toNat (t.pairVal a.toNat - t.pairVal b.toNat) tagI32)

/-- AADDS: adds a sign-extended 32-bit register (R252). -/
def execAadds (g : BitVec 3) (d a b : BitVec 6) (s : State) : Host.Outcome State Fault Refusal :=
  .next (s.register (.aadds g d a b) fun t u =>
    u.setPair d.toNat (t.pairVal a.toNat + (t.val32 b.toNat).signExtend 64) tagI32)

/-- AADDU: adds a zero-extended 32-bit register (R252). -/
def execAaddu (g : BitVec 3) (d a b : BitVec 6) (s : State) : Host.Outcome State Fault Refusal :=
  .next (s.register (.aaddu g d a b) fun t u =>
    u.setPair d.toNat (t.pairVal a.toNat + (t.val32 b.toNat).setWidth 64) tagI32)

/-- AMOV: each register keeps its own tag (R252). -/
def execAmov (g : BitVec 3) (d a : BitVec 6) (s : State) : Host.Outcome State Fault Refusal :=
  .next (s.register (.amov g d a) fun t u =>
    if t.ctl then u.setReg d.toNat (t.reg a.toNat)
    else (u.setReg d.toNat (t.reg a.toNat)).setReg (d.toNat + 1) (t.reg (a.toNat + 1)))

/-- AMULS: the exact signed product of two 32-bit registers (R252). -/
def execAmuls (g : BitVec 3) (d a b : BitVec 6) (s : State) : Host.Outcome State Fault Refusal :=
  .next (s.register (.amuls g d a b) fun t u =>
    u.setPair d.toNat (BitVec.ofInt 64 ((t.val32 a.toNat).toInt * (t.val32 b.toNat).toInt)) tagI32)

/-- AMULU: the exact unsigned product of two 32-bit registers (R252). -/
def execAmulu (g : BitVec 3) (d a b : BitVec 6) (s : State) : Host.Outcome State Fault Refusal :=
  .next (s.register (.amulu g d a b) fun t u =>
    u.setPair d.toNat (BitVec.ofNat 64 ((t.val32 a.toNat).toNat * (t.val32 b.toNat).toNat)) tagI32)

/-- AADDI (R252). -/
def execAaddi (g : BitVec 3) (d a : BitVec 6) (i : BitVec 11) (s : State) : Host.Outcome State Fault Refusal :=
  .next (s.register (.aaddi g d a i) fun t u =>
    u.setPair d.toNat (t.pairVal a.toNat + (t.imm32 i).signExtend 64) tagI32)

end Sys2Proof.Machine
end

