-- ==== Sys2Proof/Machine/Float.lean ====
section
/-! DEFINITION. Floating-point lane instructions, conversions and tag instructions (R267 to R288). -/

namespace Sys2Proof.Machine

open Sys2Proof

/-! ## Elements of a packed word (R6, R101) -/

/-- The format of a floating-point tag and how many elements a word holds. -/
def tagFmt (t : Tag) : Option (Fmt × Nat) :=
  match t.toNat with
  | 2 => some (.f32, 1)
  | 3 => some (.bf16, 2)
  | 4 => some (.f16, 2)
  | 5 => some (.e4m3, 4)
  | 6 => some (.e5m2, 4)
  | _ => none

/-- Element `j` of a word of `w`-bit elements (R6). -/
def elemOf (w : Nat) (v : BitVec 32) (j : Nat) : Nat := bitsOf v.toNat (w * j + w - 1) (w * j)
/-- A word from its `w`-bit elements, element 0 lowest (R6). -/
def joinElems (w : Nat) : List Nat → Nat
  | [] => 0
  | x :: xs => x % 2 ^ w + 2 ^ w * joinElems w xs
/-- A word and its conditions, from the elements' (R269, R273). -/
def packRes (w : Nat) (l : List (Nat × Conds)) : BitVec 32 × Conds :=
  (BitVec.ofNat 32 (joinElems w (l.map (·.1))), l.foldl (fun c x => c ||| x.2) 0)

/-- The operand that element `j` of a word holds. -/
def numAt (f : Fmt) (v : BitVec 32) (j : Nat) : Num := f.decode (elemOf f.width v j)

/-! ## Checks and shape (R268 to R270) -/

/-- Tags of the 16-bit pairs and F32. -/
def tagsArith : List Tag := [tagF32, tagBF16, tagF16]
/-- Tags of the bit moves. -/
def tagsMove : List Tag := [tagF32, tagBF16, tagF16, tagE4M3, tagE5M2]

/-- The tags of registers are one tag that is accepted; F32 alone in the control stream (R103, R174, R268). -/
def Thread.oneTag (t : Thread) (accept : List Tag) (fs : List (BitVec 6)) : Bool :=
  let g := (t.reg (fs.headD 0).toNat).tag
  accept.contains g && (!t.ctl || g == tagF32) && fs.all fun f => (t.reg f.toNat).tag == g

/-- POISON first, then FORMAT unless `ok` (R269). -/
def State.tagCheck (s : State) (i : Instr) (ok : Thread → Bool) (r : Ref) : Verdict :=
  if (s.thr r).poisoned (infoOf i).reads then .fail poisonFault
  else if ok (s.thr r) then .run else .fail (plainFault .format)

/-- The rounding of one lane: mode and SAT of its hint, and the values its elements draw (R106, R108). -/
structure Rounding where
  rm : BitVec 3
  sat : Bool
  draw : Nat

/-- The mode of element `e`. -/
def Rounding.mode (m : Rounding) (e : Nat) : Mode := { rm := m.rm, sat := m.sat, rnd := Config.srDraw (m.draw + e) }

/-- A word whose lanes round: as `lanewise`, with eight draws to each lane that runs (R108; log 8). -/
def State.floatwise (s : State) (i : Instr) (own : Ref → Verdict) (f : Rounding → Thread → Thread → Thread) : State :=
  s.perform (s.judge i own) fun s1 rs =>
    { rs.foldl (fun x r => x.modThr r
        (f { rm := (s.thr r).rm, sat := (s.thr r).sat, draw := s.drawn + 8 * rs.idxOf r } (s.thr r))) s1 with
      drawn := s.drawn + 8 * rs.length }

/-- Writes a 32-bit result with its tag and conditions (R267, R273). -/
def Thread.setF (u : Thread) (d : BitVec 6) (x : BitVec 32 × Conds) (tag : Tag) : Thread :=
  (u.set32 d.toNat x.1 tag).orFp x.2

/-- Each element of a packed word computed on its own, in the format of A's tag (R269, R275). -/
def Thread.mapElems (t : Thread) (a : BitVec 6) (op : Fmt → Nat → Nat × Conds) : BitVec 32 × Conds :=
  match tagFmt (t.reg a.toNat).tag with
  | some (f, n) => packRes f.width ((List.range n).map fun e => op f e)
  | none => (0, 0)

/-- The tag of a register. -/
def Thread.tagAt (t : Thread) (f : BitVec 6) : Tag := (t.reg f.toNat).tag

/-- A rounded element-wise result of the operands (R275). -/
def Thread.arith (m : Rounding) (t u : Thread) (d a : BitVec 6) (op : Fmt → Nat → Mode → Res) : Thread :=
  u.setF d (t.mapElems a fun f e =>
    let x := op f e (m.mode e)
    let y := round f (m.mode e) x.1
    (y.1, y.2 ||| x.2)) (t.tagAt a)

/-- Operand element `e` of a register. -/
def Thread.num (t : Thread) (f : Fmt) (n : BitVec 6) (e : Nat) : Num := numAt f (t.val32 n.toNat) e

/-! ## Arithmetic (R275 to R277) -/

/-- FADD (R275, R276). -/
def execFadd (g : BitVec 3) (d a b : BitVec 6) (s : State) : Host.Outcome State Fault Refusal :=
  .next (s.floatwise (.fadd g d a b) (s.tagCheck (.fadd g d a b) fun t => t.oneTag tagsArith [a, b]) fun m t u =>
    Thread.arith m t u d a fun f e md => addNum md (t.num f a e) (t.num f b e))

/-- FSUB (R275, R276). -/
def execFsub (g : BitVec 3) (d a b : BitVec 6) (s : State) : Host.Outcome State Fault Refusal :=
  .next (s.floatwise (.fsub g d a b) (s.tagCheck (.fsub g d a b) fun t => t.oneTag tagsArith [a, b]) fun m t u =>
    Thread.arith m t u d a fun f e md => addNum md (t.num f a e) (t.num f b e).neg)

/-- FMUL (R275, R276). -/
def execFmul (g : BitVec 3) (d a b : BitVec 6) (s : State) : Host.Outcome State Fault Refusal :=
  .next (s.floatwise (.fmul g d a b) (s.tagCheck (.fmul g d a b) fun t => t.oneTag tagsArith [a, b]) fun m t u =>
    Thread.arith m t u d a fun f e _ => mulRes (t.num f a e) (t.num f b e))

/-- FDIV (R275, R276). -/
def execFdiv (g : BitVec 3) (d a b : BitVec 6) (s : State) : Host.Outcome State Fault Refusal :=
  .next (s.floatwise (.fdiv g d a b) (s.tagCheck (.fdiv g d a b) fun t => t.oneTag tagsArith [a, b]) fun m t u =>
    Thread.arith m t u d a fun f e _ => divRes (t.num f a e) (t.num f b e))

/-- FSQRT (R275, R276). -/
def execFsqrt (g : BitVec 3) (d a : BitVec 6) (s : State) : Host.Outcome State Fault Refusal :=
  .next (s.floatwise (.fsqrt g d a) (s.tagCheck (.fsqrt g d a) fun t => t.oneTag tagsArith [a]) fun m t u =>
    Thread.arith m t u d a fun f e _ => sqrtRes (t.num f a e))

/-- One element of FMIN or FMAX: a bit-for-bit choice, the canonical NaN of two NaNs (R275, R276). -/
def minMaxElem (f : Fmt) (takeLess : Bool) (x y : Nat) : Nat :=
  match (f.decode x).isNan, (f.decode y).isNan with
  | true, true => f.nan
  | true, false => y
  | false, true => x
  | false, false => if numLess (f.decode y) (f.decode x) == takeLess then y else x

/-- FMIN (R275, R276). -/
def execFmin (g : BitVec 3) (d a b : BitVec 6) (s : State) : Host.Outcome State Fault Refusal :=
  .next (s.lanewise (.fmin g d a b) (s.tagCheck (.fmin g d a b) fun t => t.oneTag tagsArith [a, b]) fun t u =>
    u.setF d (t.mapElems a fun f e =>
      (minMaxElem f true (elemOf f.width (t.val32 a.toNat) e) (elemOf f.width (t.val32 b.toNat) e), 0)) (t.tagAt a))

/-- FMAX (R275, R276). -/
def execFmax (g : BitVec 3) (d a b : BitVec 6) (s : State) : Host.Outcome State Fault Refusal :=
  .next (s.lanewise (.fmax g d a b) (s.tagCheck (.fmax g d a b) fun t => t.oneTag tagsArith [a, b]) fun t u =>
    u.setF d (t.mapElems a fun f e =>
      (minMaxElem f false (elemOf f.width (t.val32 a.toNat) e) (elemOf f.width (t.val32 b.toNat) e), 0)) (t.tagAt a))

/-- FFMA: one rounding (R277). -/
def execFfma (g : BitVec 3) (d a b : BitVec 6) (s : State) : Host.Outcome State Fault Refusal :=
  .next (s.floatwise (.ffma g d a b) (s.tagCheck (.ffma g d a b) fun t => t.oneTag tagsArith [a, b, d]) fun m t u =>
    Thread.arith m t u d a fun f e md => fmaRes md (t.num f d e) (t.num f a e) (t.num f b e) false)

/-- FFNMA: one rounding (R277). -/
def execFfnma (g : BitVec 3) (d a b : BitVec 6) (s : State) : Host.Outcome State Fault Refusal :=
  .next (s.floatwise (.ffnma g d a b) (s.tagCheck (.ffnma g d a b) fun t => t.oneTag tagsArith [a, b, d]) fun m t u =>
    Thread.arith m t u d a fun f e md => fmaRes md (t.num f d e) (t.num f a e) (t.num f b e) true)

/-- INV of a packed dot product: a product ∞ × 0, or infinities of opposite sign (R277). -/
def dotInvalid (acc : Num) (ps : List (Num × Num)) : Bool :=
  let l := acc :: ps.map fun p => mulNum p.1 p.2
  (ps.any fun p => mulInvalid p.1 p.2) || (l.contains (.inf false) && l.contains (.inf true))

/-- A packed dot product into an FP32 accumulator, one rounding (R116, R277). -/
def Thread.dot (m : Rounding) (t u : Thread) (d a b : BitVec 6) : Thread :=
  match tagFmt (t.tagAt a) with
  | some (f, n) =>
    let acc := t.num .f32 d 0
    let ps := (List.range n).map fun e => (t.num f a e, t.num f b e)
    let x := round .f32 (m.mode 0) (exactSum (acc :: ps.map fun p => mulNum p.1 p.2))
    u.setF d (BitVec.ofNat 32 x.1, x.2 ||| (if dotInvalid acc ps then cINV else 0)) tagF32
  | none => u

/-- FDOT2 (R268, R277). -/
def execFdot2 (g : BitVec 3) (d a b : BitVec 6) (s : State) : Host.Outcome State Fault Refusal :=
  .next (s.floatwise (.fdot2 g d a b) (s.tagCheck (.fdot2 g d a b) fun t =>
    t.oneTag [tagBF16, tagF16] [a, b] && t.tagAt d == tagF32) fun m t u => Thread.dot m t u d a b)

/-- FDOT4 (R268, R277). -/
def execFdot4 (g : BitVec 3) (d a b : BitVec 6) (s : State) : Host.Outcome State Fault Refusal :=
  .next (s.floatwise (.fdot4 g d a b) (s.tagCheck (.fdot4 g d a b) fun t =>
    t.oneTag [tagE4M3, tagE5M2] [a, b] && t.tagAt d == tagF32) fun m t u => Thread.dot m t u d a b)

/-! ## Bit moves (R278) -/

/-- Sign bits of a tag's elements (R278). -/
def signBits (t : Tag) : BitVec 32 :=
  if t = tagF32 then 0x80000000 else if t = tagBF16 ∨ t = tagF16 then 0x80008000 else 0x80808080

/-- FABS (R278). -/
def execFabs (g : BitVec 3) (d a : BitVec 6) (s : State) : Host.Outcome State Fault Refusal :=
  .next (s.lanewise (.fabs g d a) (s.tagCheck (.fabs g d a) fun t => t.oneTag tagsMove [a]) fun t u =>
    u.set32 d.toNat (t.val32 a.toNat &&& ~~~signBits (t.tagAt a)) (t.tagAt a))

/-- FNEG (R278). -/
def execFneg (g : BitVec 3) (d a : BitVec 6) (s : State) : Host.Outcome State Fault Refusal :=
  .next (s.lanewise (.fneg g d a) (s.tagCheck (.fneg g d a) fun t => t.oneTag tagsMove [a]) fun t u =>
    u.set32 d.toNat (t.val32 a.toNat ^^^ signBits (t.tagAt a)) (t.tagAt a))

/-- FCPYS (R278). -/
def execFcpys (g : BitVec 3) (d a b : BitVec 6) (s : State) : Host.Outcome State Fault Refusal :=
  .next (s.lanewise (.fcpys g d a b) (s.tagCheck (.fcpys g d a b) fun t => t.oneTag tagsMove [a, b]) fun t u =>
    let m := signBits (t.tagAt a)
    u.set32 d.toNat ((t.val32 a.toNat &&& ~~~m) ||| (t.val32 b.toNat &&& m)) (t.tagAt a))

/-! ## Functions (R279, R280) -/

/-- One function of an FP32 source. -/
def State.function (s : State) (i : Instr) (f : Fun) (d a : BitVec 6) : State :=
  s.floatwise i (s.tagCheck i fun t => t.oneTag [tagF32] [a]) fun m t u =>
    let x := funResult f (t.val32 a.toNat) (m.mode 0)
    u.setF d (BitVec.ofNat 32 x.1, x.2) tagF32

/-- FRCP (R279, R280). -/
def execFrcp (g : BitVec 3) (d a : BitVec 6) (s : State) : Host.Outcome State Fault Refusal :=
  .next (s.function (.frcp g d a) .rcp d a)
/-- FRSQ (R279, R280). -/
def execFrsq (g : BitVec 3) (d a : BitVec 6) (s : State) : Host.Outcome State Fault Refusal :=
  .next (s.function (.frsq g d a) .rsq d a)
/-- FEXP2 (R279, R280). -/
def execFexp2 (g : BitVec 3) (d a : BitVec 6) (s : State) : Host.Outcome State Fault Refusal :=
  .next (s.function (.fexp2 g d a) .exp2 d a)
/-- FLOG2 (R279, R280). -/
def execFlog2 (g : BitVec 3) (d a : BitVec 6) (s : State) : Host.Outcome State Fault Refusal :=
  .next (s.function (.flog2 g d a) .log2 d a)
/-- FSIN (R279, R280). -/
def execFsin (g : BitVec 3) (d a : BitVec 6) (s : State) : Host.Outcome State Fault Refusal :=
  .next (s.function (.fsin g d a) .sin d a)
/-- FCOS (R279, R280). -/
def execFcos (g : BitVec 3) (d a : BitVec 6) (s : State) : Host.Outcome State Fault Refusal :=
  .next (s.function (.fcos g d a) .cos d a)
/-- FTANH (R279, R280). -/
def execFtanh (g : BitVec 3) (d a : BitVec 6) (s : State) : Host.Outcome State Fault Refusal :=
  .next (s.function (.ftanh g d a) .tanh d a)

/-! ## Compare, classify, round to integer, status (R281 to R284) -/

/-- The conditions of FCMP in the order of their codes (R232, R281). -/
def fcmpHolds (c : BitVec 3) (x y : Num) : Bool :=
  let un := x.isNan || y.isNan
  let lt := numLt x y
  let gt := numLt y x
  match c.toNat with
  | 0 => !un && !lt && !gt
  | 1 => un || lt || gt
  | 2 => !un && lt
  | 3 => !un && !gt
  | 4 => !un && gt
  | 5 => !un && !lt
  | 6 => un
  | _ => !un

/-- FCMP: of a pair, both elements (R281). -/
def execFcmp (g d : BitVec 3) (a b : BitVec 6) (c : BitVec 3) (s : State) : Host.Outcome State Fault Refusal :=
  .next (s.lanewise (.fcmp g d a b c) (s.tagCheck (.fcmp g d a b c) fun t => t.oneTag tagsArith [a, b]) fun t u =>
    match tagFmt (t.tagAt a) with
    | some (f, n) => u.setPred d ((List.range n).all fun e => fcmpHolds c (t.num f a e) (t.num f b e))
    | none => u)

/-- Bit of the class of a pattern (R282). -/
def classBit (f : Fmt) (x : Nat) : Nat :=
  let quiet := decide (x / 2 ^ (f.mbits - 1) % 2 = 1)
  let normal := decide (x / 2 ^ f.mbits % 2 ^ f.ebits ≠ 0)
  match f.decode x with
  | .nan => if quiet then 9 else 8
  | .inf s => if s then 0 else 7
  | .zero s => if s then 3 else 4
  | .fin s _ _ => if normal then (if s then 1 else 6) else (if s then 2 else 5)

/-- FCLASS (R282). -/
def execFclass (g : BitVec 3) (d a : BitVec 6) (s : State) : Host.Outcome State Fault Refusal :=
  .next (s.lanewise (.fclass g d a) (s.tagCheck (.fclass g d a) fun t => t.oneTag tagsArith [a]) fun t u =>
    match tagFmt (t.tagAt a) with
    | some (f, n) =>
      u.set32 d.toNat (BitVec.ofNat 32 (joinElems 16 ((List.range n).map fun e =>
        2 ^ classBit f (elemOf f.width (t.val32 a.toNat) e)))) tagI32
    | none => u)

/-- One element of FRINT (R283). -/
def frintElem (f : Fmt) (m : Mode) (x : Nat) : Nat × Conds :=
  match f.decode x with
  | .nan => (f.nan, 0)
  | .fin s n e =>
    let (k, inx) := roundInt m s (Ex.dyadic n e)
    ((if k = 0 then f.signed s 0 else (roundEx f Mode.rne s (Ex.rat k 1)).1),
      (if inx then cINX else 0) ||| (if inx && decide ((Ex.dyadic n e).lg < f.emin) then cUNF else 0))
  | _ => (x, 0)

/-- FRINT (R283). -/
def execFrint (g : BitVec 3) (d a : BitVec 6) (s : State) : Host.Outcome State Fault Refusal :=
  .next (s.floatwise (.frint g d a) (s.tagCheck (.frint g d a) fun t => t.oneTag tagsArith [a]) fun m t u =>
    u.setF d (t.mapElems a fun f e => frintElem f (m.mode e) (elemOf f.width (t.val32 a.toNat) e)) (t.tagAt a))

/-- FSTAT: reads FPSTAT and clears it (R284). -/
def execFstat (g : BitVec 3) (d : BitVec 6) (s : State) : Host.Outcome State Fault Refusal :=
  .next (s.lanewise (.fstat g d) noCheck fun t u => ({ u with fpstat := 0 }).set32 d.toNat t.fpstat tagI32)

/-! ## Conversions (R285 to R287) -/

/-- The source elements of CVT for a target, or none for a combination that R285 does not list. -/
def Thread.cvtSrc (t : Thread) (a b : BitVec 6) (target : Tag) : Option (List Num) :=
  let ta := t.tagAt a
  let el (f : Fmt) (r : BitVec 6) (e : Nat) : Num := if r = 0 then .zero false else t.num f r e
  if t.ctl && ta != tagF32 then none
  else match target.toNat with
    | 2 => if b = 0 then (tagFmt ta).map fun p => [t.num p.1 a 0] else none
    | 3 | 4 =>
      if ta = tagF32 ∧ (b = 0 ∨ t.tagAt b = tagF32) then some [t.num .f32 a 0, el .f32 b 0]
      else if b = 0 ∧ ((target = tagBF16 ∧ ta = tagF16) ∨ (target = tagF16 ∧ ta = tagBF16)) then
        (tagFmt ta).map fun p => [t.num p.1 a 0, t.num p.1 a 1]
      else none
    | 5 | 6 =>
      if (ta = tagBF16 ∨ ta = tagF16) ∧ (b = 0 ∨ t.tagAt b = ta) then
        (tagFmt ta).map fun p => [t.num p.1 a 0, t.num p.1 a 1, el p.1 b 0, el p.1 b 1]
      else none
    | _ => none

/-- Elements rounded to a format (R285). -/
def roundList (m : Rounding) (f : Fmt) (l : List Num) : BitVec 32 × Conds :=
  packRes f.width (l.zipIdx.map fun p => round f (m.mode p.2) p.1.exact)

/-- CVT (R285). -/
def execCvt (g : BitVec 3) (d a b : BitVec 6) (t : BitVec 4) (s : State) : Host.Outcome State Fault Refusal :=
  .next (s.floatwise (.cvt g d a b t) (s.tagCheck (.cvt g d a b t) fun x => (x.cvtSrc a b t).isSome) fun m x u =>
    match x.cvtSrc a b t, tagFmt t with
    | some l, some (f, _) => u.setF d (roundList m f l) t
    | _, _ => u)

/-- A float operand rounded to an integer of a range (R286). -/
def toInteger (m : Mode) (lo hi : Int) (x : Num) : Int × Conds :=
  match x with
  | .nan => (0, cINV)
  | .inf s => (if s then lo else hi, cINV)
  | .zero _ => (0, 0)
  | .fin s n e =>
    let (k, inx) := roundInt m s (Ex.dyadic n e)
    let v : Int := if s then -(k : Int) else k
    if v < lo ∨ hi < v then (satInt v lo hi, cINV) else (v, if inx then cINX else 0)

/-- An integer as an exact value; zero is +0 (R286). -/
def intExact (x : Int) : Exact := if x = 0 then .zero false else .val (Ex.rat x 1)

/-- The integer in a register, read signed or unsigned (R286). -/
def Thread.intOf (t : Thread) (n : BitVec 6) (unsigned : Bool) : Int :=
  if unsigned then ((t.val32 n.toNat).toNat : Int) else (t.val32 n.toNat).toInt

/-- The source combinations of CVTI (R286). -/
def Thread.cvtiOk (t : Thread) (a b : BitVec 6) (target : Tag) : Bool :=
  let ta := t.tagAt a
  match target.toNat with
  | 1 => ta == tagF32 && b == 0
  | 2 => b == 0
  | 3 | 4 => true
  | 8 => (ta == tagBF16 || ta == tagF16) && (b == 0 || t.tagAt b == ta)
  | 9 => ta == tagI8 && (b == 0 || t.tagAt b == ta)
  | _ => false

/-- Result and conditions of CVTI (R286). -/
def Thread.cvtiRes (m : Rounding) (t : Thread) (a b : BitVec 6) (uns : Bool) (target : Tag) : BitVec 32 × Conds :=
  let ta := t.tagAt a
  match target.toNat with
  | 1 =>
    let x := toInteger (m.mode 0) (if uns then 0 else -2 ^ 31) (if uns then 2 ^ 32 - 1 else 2 ^ 31 - 1) (t.num .f32 a 0)
    (BitVec.ofInt 32 x.1, x.2)
  | 2 => packRes 32 [round .f32 (m.mode 0) (intExact (t.intOf a uns))]
  | 3 => packRes 16 [round .bf16 (m.mode 0) (intExact (t.intOf a uns)), round .bf16 (m.mode 1) (intExact (t.intOf b uns))]
  | 4 => packRes 16 [round .f16 (m.mode 0) (intExact (t.intOf a uns)), round .f16 (m.mode 1) (intExact (t.intOf b uns))]
  | 8 =>
    match tagFmt ta with
    | some (f, _) =>
      let el (r : BitVec 6) (e : Nat) : Num := if r = 0 then .zero false else t.num f r e
      packRes 8 ([t.num f a 0, t.num f a 1, el b 0, el b 1].zipIdx.map fun p =>
        let x := toInteger (m.mode p.2) (-128) 127 p.1
        ((BitVec.ofInt 8 x.1).toNat, x.2))
    | none => (0, 0)
  | _ =>
    packRes 4 ((List.range 8).map fun j =>
      let q := (BitVec.ofNat 8 (elemOf 8 (if j < 4 then t.val32 a.toNat else t.val32 b.toNat) (j % 4))).toInt
      let r := satInt q (-8) 7
      ((BitVec.ofInt 4 r).toNat, if r = q then 0 else cINV))

/-- CVTI; the I32 target is sign-extended in the control stream unless U (R286). -/
def execCvti (g : BitVec 3) (d a b : BitVec 6) (u : BitVec 1) (t : BitVec 4) (s : State) :
    Host.Outcome State Fault Refusal :=
  .next (s.floatwise (.cvti g d a b u t) (s.tagCheck (.cvti g d a b u t) fun x => x.cvtiOk a b t) fun m x y =>
    let r := Thread.cvtiRes m x a b (u == 1) t
    if x.ctl && t == tagI32 && u == 0 then
      (y.setReg d.toNat { val := r.1.signExtend 64, tag := tagI32 }).orFp r.2
    else y.setF d r t)

/-- PACK (R287). -/
def execPack (g : BitVec 3) (d a b : BitVec 6) (s : State) : Host.Outcome State Fault Refusal :=
  .next (s.lanewise (.pack g d a b) (s.tagCheck (.pack g d a b) fun t =>
      t.tagAt a == t.tagAt b && decide (3 ≤ (t.tagAt a).toNat) && decide ((t.tagAt a).toNat ≤ 9)) fun t u =>
    u.set32 d.toNat ((t.val32 b.toNat).setWidth 16 ++ (t.val32 a.toNat).setWidth 16 : BitVec 32) (t.tagAt a))

/-- The widening of elements `j` and, for FP8, `j + 1` of A (R287). -/
def Thread.widen (t u : Thread) (d a : BitVec 6) (hi : Bool) : Thread :=
  let w := t.val32 a.toNat
  match tagFmt (t.tagAt a) with
  | some (f, 2) => u.set32 d.toNat (BitVec.ofNat 32 (round .f32 Mode.rne (numAt f w (if hi then 1 else 0)).exact).1) tagF32
  | some (f, _) =>
    let k := if hi then 2 else 0
    u.set32 d.toNat (BitVec.ofNat 32 (joinElems 16 [(round .f16 Mode.rne (numAt f w k).exact).1,
      (round .f16 Mode.rne (numAt f w (k + 1)).exact).1])) tagF16
  | none => u

/-- The tags that UNPK widens (R287). -/
def tagsUnpk : List Tag := [tagBF16, tagF16, tagE4M3, tagE5M2]

/-- UNPK.LO (R287). -/
def execUnpkLo (g : BitVec 3) (d a : BitVec 6) (s : State) : Host.Outcome State Fault Refusal :=
  .next (s.lanewise (.unpkLo g d a) (s.tagCheck (.unpkLo g d a) fun t => t.oneTag tagsUnpk [a]) fun t u =>
    t.widen u d a false)

/-- UNPK.HI (R287). -/
def execUnpkHi (g : BitVec 3) (d a : BitVec 6) (s : State) : Host.Outcome State Fault Refusal :=
  .next (s.lanewise (.unpkHi g d a) (s.tagCheck (.unpkHi g d a) fun t => t.oneTag tagsUnpk [a]) fun t u =>
    t.widen u d a true)

/-! ## Tags (R288) -/

/-- The tags that TAGSET may write in a stream (R101, R288). -/
def tagsetOk (ctl : Bool) (t : Tag) : Bool :=
  if ctl then t == tagRAW || t == tagI32 || t == tagF32 || t == tagPOISON else decide (t.toNat < 14)

/-- TAGSET: POISON sets the data to 0 (R104, R288). -/
def execTagset (g : BitVec 3) (d a : BitVec 6) (t : BitVec 4) (s : State) : Host.Outcome State Fault Refusal :=
  .next (s.lanewise (.tagset g d a t) (fun r =>
      if !tagsetOk (s.thr r).ctl t then .fail (illegalFault rRange) else s.srcCheck (.tagset g d a t) r) fun x u =>
    u.setReg d.toNat { val := if t = tagPOISON then 0 else (x.reg a.toNat).val, tag := t })

/-- TAGCHK (R288). -/
def execTagchk (g d : BitVec 3) (a : BitVec 6) (t : BitVec 4) (s : State) : Host.Outcome State Fault Refusal :=
  .next (s.lanewise (.tagchk g d a t) (fun _ =>
      if decide (14 ≤ t.toNat) then .fail (illegalFault rRange) else .run) fun x u =>
    u.setPred d (x.tagAt a == t))

/-- TAGRD (R288). -/
def execTagrd (g : BitVec 3) (d a : BitVec 6) (s : State) : Host.Outcome State Fault Refusal :=
  .next (s.register (.tagrd g d a) fun t u => u.set32 d.toNat ((t.tagAt a).setWidth 32) tagI32)

end Sys2Proof.Machine
end

