-- ==== Sys2Proof/Machine/Atomic.lean ====
section
/-! DEFINITION. The operations of ATOM, ATOMS and RED (R234, R295). -/

namespace Sys2Proof.Machine

open Sys2Proof

/-- New value of the integer operations at N bits (R295). -/
def atomInt (n : Nat) (op : BitVec 4) (old b cmp : BitVec n) : BitVec n :=
  match op.toNat with
  | 0 => old + b
  | 1 => if b.slt old then b else old
  | 2 => if old.slt b then b else old
  | 3 => if b.ult old then b else old
  | 4 => if old.ult b then b else old
  | 5 => old &&& b
  | 6 => old ||| b
  | 7 => old ^^^ b
  | 8 => b
  | _ => if old = cmp then b else old

/-- New value of the float operations, in the format of the operand's tag; `draw` numbers their random values (R108,
R295). -/
def atomFloatVal (op : BitVec 4) (tag : Tag) (rm : BitVec 3) (sat : Bool) (draw : Nat) (old b : BitVec 32) : BitVec 32 :=
  match tagFmt tag with
  | some (f, n) =>
    BitVec.ofNat 32 (joinElems f.width ((List.range n).map fun e =>
      let x := elemOf f.width old e
      let y := elemOf f.width b e
      let m : Mode := { rm := rm, sat := sat, rnd := Config.srDraw (draw + e) }
      match op.toNat with
      | 10 => (round f m (addNum m (f.decode x) (f.decode y)).1).1
      | 11 => minMaxElem f true x y
      | _ => minMaxElem f false x y))
  | none => old

/-- The new-value column of R295, on a location of 4 or 8 bytes. -/
def atomValue (op : BitVec 4) (wide : Bool) (tag : Tag) (rm : BitVec 3) (sat : Bool) (draw : Nat) (old b cmp : BitVec 64) :
    BitVec 64 :=
  if atomFloat op then (atomFloatVal op tag rm sat draw (old.setWidth 32) (b.setWidth 32)).setWidth 64
  else if wide then atomInt 64 op old b cmp
  else (atomInt 32 op (old.setWidth 32) (b.setWidth 32) (cmp.setWidth 32)).setWidth 64

/-- The tag of the value returned (R295). -/
def atomTag (op : BitVec 4) (tag : Tag) : Tag := if atomFloat op then tag else tagI32

/-- The operand of a width in a register or pair (R295). -/
def Thread.operand (t : Thread) (n : BitVec 6) (wide : Bool) : BitVec 64 :=
  if wide then t.pairVal n.toNat else (t.val32 n.toNat).setWidth 64

/-- The returned value written, or POISON with data 0 (R104, R295, R296); D = 0 discards it. -/
def Thread.atomWrite (t : Thread) (d : BitVec 6) (wide : Bool) (v : BitVec 64) (tag : Tag) (bad : Bool) : Thread :=
  if d = 0 then t
  else if wide then t.setPair d.toNat (if bad then 0 else v) (if bad then tagPOISON else tag)
  else t.setReg d.toNat { val := if bad then 0 else low32 v, tag := if bad then tagPOISON else tag }

end Sys2Proof.Machine
end

