-- ==== Sys2Proof/Machine/Slice.lean ====
section
/-! DEFINITION. The physical address map, where a byte is stored, the home slices and their L2 lines, and reads and
writes performed at a home (R20, R81, R85, R86, R91, R120). -/

namespace Sys2Proof.Machine

open Sys2Proof

/-- What a physical address names (R20). -/
inductive Space where
  | hbm | hole | device | peer | host
  deriving DecidableEq, Repr, Inhabited

/-- The physical address map (R20). -/
def spaceOf (pa : Nat) : Space :=
  if pa < 0x006000000000 then .hbm
  else if pa < 0x010000000000 then .hole
  else if pa < 0x020000000000 then .device
  else if pa < 0x400000000000 then .hole
  else if pa < 0x800000000000 then .peer
  else if pa < 0x1000000000000 then .host
  else .hole

/-- The stack of an HBM4E address (R20). -/
def stackOf (pa : Nat) : Nat := pa / 0x000C00000000
/-- The die that owns an HBM4E address (R20). -/
def dieOfPa (pa : Nat) : Nat := stackOf pa / 4

/-- Where a byte stands in the coherent image: a plinth-laid page stores block j of a stripe where an ordinary page
stores block j ^ (stripe mod 128) (R28, R91). -/
def imageAddr (plinth : Bool) (pa : Nat) : Nat :=
  if plinth then pa ^^^ ((pa / 32768 % 128) * 256) else pa

/-- The pseudo-channel that stores a byte of the coherent image, 0 to 1,023 over the eight stacks (R91). -/
def channelOf (addr : Nat) : Nat := stackOf addr * 128 + ((addr / 256 % 128) ^^^ (addr / 32768 % 128))

/-- The line of an address. -/
def lineOf (a : Nat) : Nat := a / 128 * 128

/-- The live slices of a die, ascending (R81). -/
def liveSlices (live : BitVec 32) : List Nat := (List.range 32).filter fun k => live.getLsbD k

/-- The home slice of an HBM4E address on its die, if the die has a live slice (R81, R82). -/
def homeSlice (live : BitVec 32) (pa : Nat) : Option Nat :=
  let b := bitsOf pa 21 12 ^^^ bitsOf pa 31 22 ^^^ bitsOf pa 41 32 ^^^ bitsOf pa 47 42
  let p := b % 32
  if live.getLsbD p then some p
  else
    let l := liveSlices live
    if l.isEmpty then none else l[b / 32 % l.length]?

/-- The L2 set of a line: the manual fixes the sets' number, not which lines share one (R85; log 12). -/
def l2Set (line : Nat) : Nat := line / 128 % 1536

/-- An L2 line holds this line of the coherent image. -/
def State.l2Line (s : State) (line : Nat) : Option L2Line := s.l2.find? fun x => x.line == line

/-- The least recently used of a list of lines. -/
def leastUsed : List L2Line → Option L2Line
  | [] => none
  | x :: xs =>
    match leastUsed xs with
    | none => some x
    | some y => if x.used ≤ y.used then some x else some y

/-- Memory cycles of a die since reset, in eighths (R11). -/
def State.mem8 (s : State) (die : Nat) : Nat := (s.die die).mem8
/-- A unit of a die has served no aged harvest access in the last 4,096 memory cycles (R92, R94). -/
def Die.agedOpen (x : Die) (unit : Nat) : Bool := x.aged.all fun p => p.1 != unit || decide (p.2 + 32768 ≤ x.mem8)
/-- A unit of a die serves an aged harvest access (R92, R94). -/
def Die.agedWin (x : Die) (unit : Nat) : Die :=
  { x with aged := (unit, x.mem8) :: x.aged.filter fun p => p.1 != unit }

/-- The way a fill goes to, and the line it evicts, if any: a free way the class may use, else the least recently used
of those ways (R85, R86). -/
def State.l2Way (s : State) (die slice line : Nat) (harvest : Bool) : Option (Nat × Option L2Line) :=
  let set := s.l2.filter fun x => x.die == die && x.slice == slice && l2Set x.line == l2Set line
  let lo := if harvest then (s.die die).gways.toNat else 0
  let free := (List.range 16).filter fun w => decide (lo ≤ w) && !set.any fun x => x.way == w
  match free with
  | w :: _ => some (w, none)
  | [] => (leastUsed (set.filter fun x => decide (lo ≤ x.way))).map fun x => (x.way, some x)

/-- A byte mask of a line: `n` bytes from `off` (R85). -/
def lineMask (off n : Nat) : BitVec 128 := BitVec.ofNat 128 ((2 ^ n - 1) * 2 ^ off)

/-- The write-back of an evicted line joins its pseudo-channel's queue, if the line is dirty, in the class of the fill
that evicted it (R78, R92). -/
def State.evictLine (s : State) (x : L2Line) (harvest : Bool) : State :=
  let s1 := { s with l2 := s.l2.filter fun y => y.line != x.line }
  if x.dirty.isNone then s1
  else
    { s1 with hbmq := s1.hbmq ++ [{ channel := channelOf x.line, line := x.line, harvest := harvest, load := .writeBack,
                                    aged := false, bytes := 128, since := s.mem8 x.die }] }

/-- A line is in the L2 after the access: a hit is made most recent, a miss allocates it if its class may (R85, R86,
R230). `pa` is the physical address of the access, `line` its line's place in the coherent image, and `mask` the bytes a
store allocates, or all of them for a fill. -/
def State.l2Touch (s : State) (pa slice line : Nat) (harvest : Bool) (ccls : BitVec 2) (mask : BitVec 128) : State :=
  match s.l2Line line with
  | some _ =>
    { s with
      l2 := s.l2.map fun x => if x.line = line then { x with used := s.stamp + 1, valid := x.valid ||| mask } else x
      stamp := s.stamp + 1 }
  | none =>
    match s.l2Way (dieOfPa pa) slice line harvest with
    | none => s
    | some (w, out) =>
      let s1 := match out with
        | some x => s.evictLine x harvest
        | none => s
      { s1 with
        l2 := { die := dieOfPa pa, slice := slice, line := line, pa := lineOf pa, way := w, valid := mask, dirty := none,
                dirtyBad := [], used := if ccls = 1 then 0 else s.stamp + 1 } :: s1.l2
        stamp := s.stamp + 1 }

/-- Before the first write to a clean line, the L2 notes what HBM holds for it (R83, R85). -/
def State.l2Dirty (s : State) (line : Nat) : State :=
  { s with l2 := s.l2.map fun x =>
      if x.line = line ∧ x.dirty = none then
        { x with dirty := some (readBytes s.mem line 128),
                 dirtyBad := s.poison.filter fun k => decide (line ≤ k) && decide (k < line + 128) }
      else x }

/-- A watch that has triggered, or is lost: it holds no entry any more (R139, R165). -/
def Watch.end_ (w : Watch) : Watch := { w with triggered := true, entry := false }
/-- A thread whose watch is over if it satisfies a condition. -/
def Thread.endWatch (u : Thread) (p : Watch → Bool) : Thread :=
  match u.watch with
  | some w => if p w then { u with watch := some w.end_ } else u
  | none => u
/-- A thread of a team watches a line through a monitor entry. -/
def Team.watches (t : Team) (line : Nat) : Bool :=
  t.threads.any fun u =>
    match u.watch with
    | some w => w.entry && w.line == some line
    | none => false

/-- The watches that satisfy a condition, which is given their threads' cores, are over, and the entries that no watch
needs any more are released (R139, R165). -/
def State.endWatches (s : State) (p : Nat → Watch → Bool) : State :=
  let s1 := { s with teams := s.teams.map fun (t : Team) =>
    { t with threads := t.threads.map fun (u : Thread) => u.endWatch (p ((t.halves.getD u.half default).core)) } }
  { s1 with monitors := s1.monitors.filter fun (m : Monitor) => (s1.teams.getD m.team default).watches m.line }

/-- A write performed to a line wakes the counter waits on it (R159). -/
def State.wakeCounters (s : State) (line : Nat) : State :=
  { s with teams := s.teams.map fun t => { t with threads := t.threads.map fun u => u.seeLine line } }
/-- A write performed to a line triggers every watch on it (R139). -/
def State.triggerLine (s : State) (line : Nat) : State :=
  if s.monitors.any fun m => m.line == line then s.endWatches fun _ w => w.line == some line else s

/-- Bytes of the coherent image replaced; they no longer read as uncorrectable (R104, R434). -/
def State.imageWrite (s : State) (addr : Nat) (bs : List Byte) : State :=
  { s with mem := writeBytes s.mem addr bs, poison := setDelRange s.poison addr bs.length }

/-- The live home of a physical address of HBM4E, if it has one: none on a die without a live slice, or on a stack that
has failed its test (R81, R82, R441). -/
def State.homeOf (s : State) (pa : Nat) : Option Nat :=
  match spaceOf pa with
  | .hbm => if s.failed.getLsbD (3 + stackOf pa) then none else homeSlice (s.die (dieOfPa pa)).live pa
  | _ => none

/-- The place that an address of the peer window reaches when the peer is this module itself (R427). -/
def State.loopPa (s : State) (a : Nat) : Nat :=
  if spaceOf a = .peer ∧ bitsOf a 45 42 = (s.fabcfg.extractLsb' 0 4).toNat then bitsOf a 41 0 else a

/-- An access to an address arrives: its home is there, or the fabric carries it to a peer's HBM4E (R82, R427, R441). -/
def State.reaches (s : State) (a : Nat) : Bool :=
  match spaceOf a with
  | .hbm => (s.homeOf a).isSome
  | .peer =>
    s.fabcfg.getLsbD 4 && s.fabcfg.extractLsb' 16 16 != 0 && decide (bitsOf a 41 0 < 0x006000000000) &&
      (s.loopPa a == a || (s.homeOf (s.loopPa a)).isSome)
  | .hole => false
  | _ => true

/-- The live links of a die (R426, R429). -/
def State.dieLinks (s : State) (d : Nat) : List Nat :=
  ((List.range 8).map fun k => 8 * d + k).filter fun k => s.fabcfg.getLsbD (16 + k)

/-- The link that an access of a die to a place in the peer window takes; none when the die has no live link (R429). -/
def State.linkOf (s : State) (d pa : Nat) : Option Nat :=
  let l := s.dieLinks d
  if l.isEmpty then none else l[Config.linkHash (bitsOf pa 45 42) (bitsOf pa 41 12) % l.length]?

/-- Bytes of one line written at their home, in its coherence order (R85, R120). `pa` is the physical address and
`addr` its place in the coherent image. -/
def State.homeWrite (s : State) (pa addr : Nat) (bs : List Byte) (harvest : Bool) (ccls : BitVec 2) : State :=
  let q := s.loopPa pa
  let a := s.loopPa addr
  if !s.reaches pa then s
  else match spaceOf q with
    | .hbm =>
      let s1 := s.l2Touch q ((s.homeOf q).getD 0) (lineOf a) harvest ccls (lineMask (a % 128) bs.length)
      (((s1.l2Dirty (lineOf a)).imageWrite a bs).triggerLine (lineOf a)).wakeCounters (lineOf a)
    | .host | .peer => (s.imageWrite a bs).wakeCounters (lineOf a)
    | _ => s

/-- Guaranteed bytes written at their homes, line by line; `fuel` bounds the lines. DESIGN CHOICE (log 85): R86 names no class
for what the outside writes. -/
def State.storeLines (s : State) : Nat → Nat → List Byte → State
  | 0, _, _ => s
  | fuel + 1, pa, bs =>
    if bs.isEmpty then s
    else
      let k := min bs.length (128 - pa % 128)
      (s.homeWrite pa pa (bs.take k) false 0).storeLines fuel (pa + k) (bs.drop k)

/-- Bytes marked uncorrectable at their home: what a copy writes for data it could not read (R156). -/
def State.homePoison (s : State) (addr n : Nat) : State :=
  if s.reaches addr then { s with poison := setAddRange s.poison (s.loopPa addr) n } else s

/-- Bytes read at their home, with a flag for each that is uncorrectable; one that the access does not reach is (R82,
R104, R427, R434). -/
def State.imageRead (s : State) (addr n : Nat) : List (Byte × Bool) :=
  let a := s.loopPa addr
  if s.reaches addr then (List.range n).map fun k => (readByte s.mem (a + k), s.poison.contains (a + k))
  else List.replicate n (0, true)

/-- A line read at its home by an agent that no team works for: it is in the L2 after. DESIGN CHOICE (log 85): as a
guaranteed fill; R86 names no class for the walker, the front end and the outside. -/
def State.l2Read (s : State) (pa addr : Nat) : State :=
  let q := s.loopPa pa
  match s.homeOf q with
  | some k => s.l2Touch q k (lineOf (s.loopPa addr)) false 0 (BitVec.allOnes 128)
  | none => s

/-- A stack is being trained: accesses to it are held until it is ready (R441). -/
def State.stackHeld (s : State) (pa : Nat) : Bool :=
  decide (pa < 0x006000000000) && !s.ready.getLsbD (3 + stackOf pa) && !s.failed.getLsbD (3 + stackOf pa)

/-- A line is reserved by an add-on-store (R87). -/
def State.lineReserved (s : State) (line : Nat) : Bool := s.reservedLines.any fun p => p.1 == line

/-- Buckets of a die are moving: accesses are held at the rotunda until the change is complete (R89). -/
def State.spireHeld (s : State) (d : Nat) : Bool := s.spireChange.any fun x => x.1 == d && x.2.1 == 8

/-- An access to `n` bytes of HBM4E from a place of the coherent image is held: its stack is not ready, its buckets are
moving, or an add-on-store has reserved a line of it (R87, R89, R441). -/
def State.lineHeld (s : State) (pa addr : Nat) (n : Nat := 1) : Bool :=
  spaceOf pa == .hbm && (s.stackHeld pa || s.spireHeld (dieOfPa pa) ||
    s.reservedLines.any fun p => decide (p.1 < addr + n) && decide (addr < p.1 + 128))

/-- Nothing waits at the homes: no block is reserved, no bucket moves, and every access that has arrived is performed. An
access that is made in one step with its event, by the walker, the front end, the outside or an engine's translation,
waits for that, and so takes its place after all that arrived before it (R85, R87, R89; log 85). -/
def State.homesOpen (s : State) : Bool :=
  s.reservedLines.isEmpty && !s.spireHeld 0 && !s.spireHeld 1 &&
    s.flights.all fun f => f.pieces.all fun p =>
      !(p.stage == .slice || p.stage == .hbm) || spaceOf p.pa != .hbm || s.stackHeld p.pa

/-- Nothing waits at the home of one line, for an access to it that is made in one step (R85, R87, R89, R441). -/
def State.lineOpen (s : State) (pa addr : Nat) : Bool :=
  spaceOf pa != .hbm ||
    (!s.lineHeld pa addr &&
      s.flights.all fun f => f.pieces.all fun p =>
        !(p.stage == .slice || p.stage == .hbm) || decide (p.addr + p.len ≤ lineOf addr) || decide (lineOf addr + 128 ≤ p.addr))

/-- What an event does to memory in one step, once nothing waits at the homes. -/
def State.atHomes (s x : State) : State := if s.homesOpen then x else s

/-- Errors of HBM4E lines are detected, each with its record: corrected, or uncorrectable where a byte still reads so
(R434, R436). -/
def State.findErrors (s : State) (p : Nat → Bool) : State :=
  let found := s.latent.filter fun x => p x.1
  found.foldl (fun y x =>
    let still := y.poison.any fun a => lineOf a == x.1
    if x.2 && !still then y
    else y.errorRecord (stackOf x.1 / 4) 0x08 (if x.2 then 1 else 0) 0 x.1
      (BitVec.ofNat 64 (stackOf x.1 + 256 * (channelOf x.1 % 128)))) { s with latent := s.latent.filter fun x => !p x.1 }

end Sys2Proof.Machine
end

