-- ==== Sys2Proof/Machine/Translate.lean ====
section
/-! DEFINITION. Translation and permission: canonical form, the TLBs, the walk, ACC and DIRTY, the check of each access
(R16 to R36, R442). -/

namespace Sys2Proof.Machine

open Sys2Proof

/-! ## The walk (R21 to R25) -/

/-- Index of a virtual address in a table of a level (R21). -/
def vaIndex (level : Nat) (va : BitVec 64) : Nat :=
  match level with
  | 0 => slice va 40 12
  | 1 => slice va 31 9
  | 2 => slice va 21 10
  | _ => slice va 16 5

/-- Alignment of the tables of a level (R21). -/
def tableAlign : Nat → Nat
  | 0 => 32768
  | 1 => 4096
  | 2 => 8192
  | _ => 256

/-- Bits of the offset in a page whose leaf stands at a level (R21, R22). -/
def pageBits : Nat → Nat
  | 1 => 31
  | 2 => 21
  | _ => 16

/-- Bits of a virtual address below an entry of a level. -/
def entryBits : Nat → Nat
  | 0 => 40
  | 1 => 31
  | 2 => 21
  | _ => 16

/-- An address without its low `n` bits. -/
def clearLow (va : BitVec 64) (n : Nat) : BitVec 64 := (va >>> n) <<< n

/-- The leaf that an entry describes (R23). -/
def leafOf (level : Nat) (e : BitVec 64) : Leaf :=
  { level := level, base := (slice e 8 40) * 256, rd := e.getLsbD 2, wr := e.getLsbD 3, ex := e.getLsbD 4,
    cust := e.getLsbD 5, glob := e.getLsbD 6, dirty := e.getLsbD 51, kind := e.extractLsb' 48 2,
    plinth := e.getLsbD 50 }

/-- The bits of an entry that must be zero in a pointer (R23). -/
def leafOnly (e : BitVec 64) : Bool := slice e 2 6 != 0 || slice e 48 4 != 0

/-- The reason for which an entry ends a walk, in the order of R24, or none. -/
def entryFault (level : Nat) (e : BitVec 64) : Option (BitVec 6) :=
  let adr := (slice e 8 40) * 256
  if !e.getLsbD 0 then some rNotValid
  else if slice e 52 12 ≠ 0 then some rBadEntry
  else if e.getLsbD 1 then
    if level = 0 then some rBadEntry
    else if adr % 2 ^ pageBits level ≠ 0 then some rLeafAlign
    else if slice e 48 2 = 3 then some rReservedKind
    else if spaceOf adr = .hole then some rPaHole
    else if e.getLsbD 50 ∧ spaceOf adr ≠ .hbm then some rBadPlinth
    else if spaceOf adr = .device ∧ slice e 48 2 ≠ 1 then some rDeviceKind
    else none
  else if leafOnly e ∨ level = 3 ∨ adr % tableAlign (level + 1) ≠ 0 then some rBadEntry
  else if spaceOf adr ≠ .hbm then some rPaHole
  else none

/-- How a walk ends, with the addresses of the entries that it has read. -/
inductive WalkEnd where
  /-- A leaf, the address of its entry, the entry as read, and the pointers passed. -/
  | leaf (l : Leaf) (entry : Nat) (raw : BitVec 64) (ptrs : List WalkPtr) (seen : List Nat)
  | fault (reason : BitVec 6) (level : Nat) (seen : List Nat)
  deriving DecidableEq, Repr, Inhabited

/-- Reads entries level by level (R22, R24). -/
def State.walkGo (s : State) (die : Nat) (asid : BitVec 16) (va : BitVec 64) : Nat → Nat → Nat → List WalkPtr →
    List Nat → WalkEnd
  | 0, level, _, _, seen => .fault rBadEntry level seen
  | n + 1, level, table, ptrs, seen =>
    let at_ := table + 8 * vaIndex level va
    if spaceOf at_ ≠ .hbm then .fault rPaHole level seen
    else if setHits s.poison at_ 8 || !s.reaches at_ then .fault rWalkPoison level (at_ :: seen)
    else
      let e := BitVec.ofNat 64 (readLe s.mem at_ 8)
      match entryFault level e with
      | some r => .fault r level (at_ :: seen)
      | none =>
        if e.getLsbD 1 then .leaf (leafOf level e) at_ e ptrs (at_ :: seen)
        else
          let next := (slice e 8 40) * 256
          s.walkGo die asid va n (level + 1) next
            ({ die := die, asid := asid, level := level, va := clearLow va (entryBits level), table := next } :: ptrs)
            (at_ :: seen)

/-- The entries that a walk has read. -/
def WalkEnd.seen : WalkEnd → List Nat
  | .leaf _ _ _ _ l => l
  | .fault _ _ l => l

/-- A pointer of the walk cache serves an address (R34). -/
def WalkPtr.covers (p : WalkPtr) (die : Nat) (asid : BitVec 16) (va : BitVec 64) : Bool :=
  p.die == die && p.asid == asid && p.va == clearLow va (entryBits p.level)

/-- A walk on a die, from the deepest pointer its walk cache holds (R22, R34). -/
def State.walk (s : State) (die : Nat) (asid : BitVec 16) (root va : BitVec 64) : WalkEnd :=
  let at_ (l : Nat) : Option WalkPtr := s.walkCache.find? fun p => p.level == l && p.covers die asid va
  match (at_ 2).orElse fun _ => (at_ 1).orElse fun _ => at_ 0 with
  | some p => s.walkGo die asid va (3 - p.level) (p.level + 1) p.table [] []
  | none => s.walkGo die asid va 4 0 (slice root 15 33 * 32768) [] []

/-! ## The TLBs (R33, R34, R36) -/

/-- A TLB entry serves an address (R17, R33). -/
def TlbEntry.covers (e : TlbEntry) (loc : Nat) (asid : BitVec 16) (va : BitVec 64) : Bool :=
  e.loc == loc && (e.leaf.glob || e.asid == asid) && e.vpage == clearLow va (pageBits e.leaf.level)

/-- The leaf that one TLB holds for an address. -/
def State.tlbFind (s : State) (loc : Nat) (asid : BitVec 16) (va : BitVec 64) : Option Leaf :=
  (s.tlb.find? fun e => e.covers loc asid va).map (·.leaf)

/-- The set of a last-level TLB that a page's entry goes to: 512 sets of 16 ways. DESIGN CHOICE (log 12): R34 gives the
ways, not the index, which is here the page number. -/
def tlbSet (e : TlbEntry) : Nat := (e.vpage >>> pageBits e.leaf.level).toNat % 512

/-- An entry competes with another for a place: any of the same core's TLB, which is fully associative, or one of the same
set of the same die's (R33, R34). -/
def TlbEntry.rival (e x : TlbEntry) : Bool := x.loc == e.loc && (decide (e.loc < 256) || tlbSet x == tlbSet e)

/-- A leaf is installed in one TLB in place of what it held for the page: of 64 entries in a core's, of the 16 ways of its
set in a die's (R33, R34, R36). -/
def State.tlbPut (s : State) (loc : Nat) (asid : BitVec 16) (va : BitVec 64) (l : Leaf) : State :=
  let e : TlbEntry := { loc := loc, asid := asid, vpage := clearLow va (pageBits l.level), leaf := l }
  { s with tlb := capBy e.rival (if loc < 256 then 64 else 16) (e :: s.tlb.filter fun x => !x.covers loc asid va) }

/-- The last-level TLB of a die, as a place of `TlbEntry.loc`. -/
def dieTlb (die : Nat) : Nat := 256 + die

/-- The leaf that the core's TLB, or its die's, holds for an address (R33, R34). -/
def State.tlbLookup (s : State) (core : Nat) (asid : BitVec 16) (va : BitVec 64) : Option Leaf :=
  (s.tlbFind core asid va).orElse fun _ => s.tlbFind (dieTlb (dieOfCore core)) asid va

/-- Installed in the core's TLB and its die's (R36). -/
def State.tlbInstall (s : State) (core : Nat) (asid : BitVec 16) (va : BitVec 64) (l : Leaf) : State :=
  (s.tlbPut (dieTlb (dieOfCore core)) asid va l).tlbPut core asid va l

/-! ## The check of one access (R16, R18, R29, R442) -/

/-- What an access needs of its leaf (R29). -/
structure Need where
  rd : Bool := false
  wr : Bool := false
  ex : Bool := false
  deriving DecidableEq, Repr, Inhabited

/-- The reason for which a leaf refuses an access, if it does (R29). -/
def Leaf.refuses (l : Leaf) (cm : Bool) (n : Need) : Option (BitVec 6) :=
  if l.cust && !cm then some rCustodian
  else if n.rd && !l.rd then some rNoRead
  else if n.wr && !l.wr then some rNoWrite
  else if n.ex && !l.ex then some rNoExec
  else none

/-- The leaf that translation disabled gives a custodian access: identity, SO, all permissions (R18). -/
def identityLeaf (va : BitVec 64) : Leaf :=
  { level := 3, base := slice va 16 32 * 65536, rd := true, wr := true, ex := true, cust := false, glob := false,
    dirty := true, kind := 1, plinth := false }

/-- The physical address of a virtual one in a page (R22). -/
def Leaf.pa (l : Leaf) (va : BitVec 64) : Nat := l.base + slice va 0 (pageBits l.level)

/-- The outcome of a check. -/
inductive Trans where
  | ok (l : Leaf) (pa : Nat)
  | fault (f : LaneFault)
  | walk
  deriving DecidableEq, Repr, Inhabited

/-- A TRANSLATION failure (R30). -/
def transFault (reason : BitVec 6) (level : BitVec 2) (acc : BitVec 3) (va : BitVec 64) : LaneFault :=
  { cause := .translation, reason := reason, level := level, acc := acc, va := va }
/-- A PERMISSION failure (R30). -/
def permFault (reason : BitVec 6) (acc : BitVec 3) (va : BitVec 64) : LaneFault :=
  { cause := .permission, reason := reason, acc := acc, va := va }

/-- Permission of a leaf for an access at `va`. -/
def Leaf.check (l : Leaf) (cm : Bool) (n : Need) (acc : BitVec 3) (va : BitVec 64) : Trans :=
  match l.refuses cm n with
  | some r => .fault (permFault r acc va)
  | none => .ok l (l.pa va)

/-- The leaf or fault that a walk has just delivered to a thread for a page (R35). -/
def Thread.walkedAt (t : Thread) (va : BitVec 64) (wr : Bool) : Option WalkResult :=
  t.walked.find? fun w => (w.wr || !wr) &&
    match w.leaf with
    | some l => clearLow w.va (pageBits l.level) == clearLow va (pageBits l.level)
    | none => clearLow w.va 16 == clearLow va 16

/-- One page's part of an access of a thread: `n` bytes at `va`, all in one page of 64 KiB (R16, R18, R24, R29, R442). -/
def State.transPart (s : State) (r : Ref) (va : BitVec 64) (n : Nat) (need : Need) (acc : BitVec 3) : Trans :=
  let t := s.thr r
  let m := s.team r.team
  if !canonical va then .fault (transFault rNotCanonical 0 acc va)
  else if !m.xroot.getLsbD 0 then
    if !t.cm then .fault (transFault rNotValid 0 acc va)
    else if slice va 48 16 ≠ 0 then .fault (transFault rPaHole 0 acc va)
    else if spaceOf va.toNat = .hole ∨ spaceOf (va.toNat + n - 1) = .hole then .fault (transFault rPaHole 0 acc va)
    else (identityLeaf va).check t.cm need acc va
  else
    match t.walkedAt va need.wr with
    | some w =>
      match w.leaf with
      | some l => l.check t.cm need acc va
      | none => .fault (transFault w.reason w.level acc va)
    | none =>
      match s.tlbLookup (s.coreOf r) (m.xasid.setWidth 16) va with
      | some l =>
        match l.refuses t.cm need with
        | some x => .fault (permFault x acc va)
        | none => if need.wr && !l.dirty then .walk else .ok l (l.pa va)
      | none => .walk

/-- Bytes of an access that lie in the 64 KiB page of its first byte. -/
def firstPart (va : BitVec 64) (n : Nat) : Nat := min n (65536 - slice va 0 16)

/-- An access of a thread of up to 128 bytes: its one or two pages' parts, each with its virtual address, size, leaf and
physical address; the first part that fails is the access's failure (R26). -/
def State.transAccess (s : State) (r : Ref) (va : BitVec 64) (n : Nat) (need : Need) (acc : BitVec 3) :
    Except Verdict (List (BitVec 64 × Nat × Leaf × Nat)) :=
  let k := firstPart va n
  let one (v : BitVec 64) (m : Nat) : Except Verdict (BitVec 64 × Nat × Leaf × Nat) :=
    match s.transPart r v m need acc with
    | .ok l pa => .ok (v, m, l, pa)
    | .fault f => .error (.fail f)
    | .walk => .error (.wait (.walk v need.rd need.wr need.ex))
  match one va k with
  | .error e => .error e
  | .ok a =>
    if k = n then .ok [a]
    else match one (addNat va k) (n - k) with
      | .error e => .error e
      | .ok b => .ok [a, b]

/-! ## What a walk leaves (R25, R35, R36) -/

/-- The walker sets ACC, and DIRTY for a write, in the entry at its home slice (R25). DESIGN CHOICE (log 85): a guaranteed
fill; R86 names no class for the walker. -/
def State.setAccDirty (s : State) (entry : Nat) (raw : BitVec 64) (wr : Bool) : State :=
  let new := raw ||| 0x80#64 ||| (if wr then BitVec.ofNat 64 (2 ^ 51) else 0)
  if new = raw then s else s.homeWrite entry entry (leBytes 8 new.toNat) false 0

/-- The pointers a walk on a die passed join its walk cache, of 512 entries (R34). -/
def State.cachePtrs (s : State) (die : Nat) (ps : List WalkPtr) : State :=
  { s with walkCache := capBy (fun p => p.die == die) 512 (ps ++ s.walkCache.filter fun p => !ps.any fun q =>
      q.die == p.die && q.asid == p.asid && q.level == p.level && q.va == p.va) }

/-- A walk for a core's access that passes or not its permission check: the entries that it read are in their home
slices, ACC and DIRTY are set and the leaf installed only if it passes, and only what a valid leaf with ACC set gives is
installed (R25, R36). The leaf is returned with the DIRTY state it then has. -/
def State.walkEnd (s0 : State) (core : Nat) (asid : BitVec 16) (va : BitVec 64) (w : WalkEnd) (pass wr : Bool) :
    State × WalkResult :=
  let s := w.seen.foldr (fun a x => x.l2Read a a) s0
  match w with
  | .fault r l _ => (s, { va := va, leaf := none, reason := r, level := BitVec.ofNat 2 l, wr := true })
  | .leaf l entry raw ps _ =>
    if pass then
      let s1 := (s.setAccDirty entry raw wr).cachePtrs (dieOfCore core) ps
      let l1 := { l with dirty := l.dirty || wr }
      (s1.tlbInstall core asid va l1, { va := va, leaf := some l1, reason := 0x3F, level := 0, wr := wr })
    else if raw.getLsbD 7 then
      ((s.cachePtrs (dieOfCore core) ps).tlbInstall core asid va l, { va := va, leaf := some l, reason := 0x3F, level := 0, wr := true })
    else (s, { va := va, leaf := some l, reason := 0x3F, level := 0, wr := true })

/-- A leaf lets an access through (R29). -/
def WalkEnd.passes (w : WalkEnd) (cm : Bool) (need : Need) : Bool :=
  match w with
  | .leaf l .. => (l.refuses cm need).isNone
  | .fault .. => false

/-- The walk for an engine's or the front end's access, made at once, and its check. -/
def State.walkFor (s : State) (core : Nat) (asid : BitVec 16) (root : BitVec 64) (cm : Bool) (va : BitVec 64)
    (need : Need) (acc : BitVec 3) : State × Trans :=
  let w := s.walk (dieOfCore core) asid root va
  let (s1, x) := s.walkEnd core asid va w (w.passes cm need) need.wr
  match x.leaf with
  | some l => (s1, l.check cm need acc va)
  | none => (s1, .fault (transFault x.reason x.level acc va))

/-- An access of an engine or of the front end, translated in one step: its walk, if it needs one, is made at once, when
nothing waits at the homes (R18, R34, R35, R442; log 85); until then it answers `walk`. `root` is in the layout of
XROOT. -/
def State.walkNow (s : State) (core : Nat) (asid : BitVec 16) (root : BitVec 64) (cm : Bool) (va : BitVec 64)
    (need : Need) (acc : BitVec 3) : State × Trans :=
  if !canonical va then (s, .fault (transFault rNotCanonical 0 acc va))
  else if !root.getLsbD 0 then
    (s, if !cm then .fault (transFault rNotValid 0 acc va)
        else if slice va 48 16 ≠ 0 ∨ spaceOf va.toNat = .hole then .fault (transFault rPaHole 0 acc va)
        else (identityLeaf va).check cm need acc va)
  else
    match s.tlbLookup core asid va with
    | some l =>
      if !((l.refuses cm need).isNone && need.wr && !l.dirty) then (s, l.check cm need acc va)
      else if s.homesOpen then s.walkFor core asid root cm va need acc
      else (s, .walk)
    | none => if s.homesOpen then s.walkFor core asid root cm va need acc else (s, .walk)

end Sys2Proof.Machine
end

