-- ==== Sys2Proof/Machine/Flights.lean ====
section
/-! DEFINITION. Accesses to global memory between their issue and their return: their pieces, the order they keep, their
way through the network, the L1 (R26, R73 to R79, R119 to R132). -/

namespace Sys2Proof.Machine

open Sys2Proof

/-! ## Pieces -/

/-- The kind of a leaf (R23, R26). -/
def Leaf.ordKind (l : Leaf) : Kind := if l.kind = 1 then .so else if l.kind = 2 then .uo else .rc

/-- One page's part of an access, through a leaf from `va`, cut into pieces of one line (R26, R85). -/
def cutLines (va : BitVec 64) (l : Leaf) : Nat → Nat → Nat → Nat → List Piece
  | 0, _, _, _ => []
  | fuel + 1, pa, n, off =>
    if n = 0 then []
    else
      let k := min n (128 - pa % 128)
      { pa := pa, addr := imageAddr l.plinth pa, kind := l.ordKind, off := off, len := k, stage := .held, arr := 0,
        bytes := [], bad := [], lost := false, va := va, level := l.level, glob := l.glob } ::
          cutLines va l fuel (pa + k) (n - k) (off + k)

/-- The pieces of a translated access. -/
def piecesOf (parts : List (BitVec 64 × Nat × Leaf × Nat)) : List Piece :=
  (parts.foldl (fun (acc : List Piece × Nat) p =>
    (acc.1 ++ cutLines p.1 p.2.2.1 (p.2.1 + 1) p.2.2.2 p.2.1 acc.2, acc.2 + p.2.1)) ([], 0)).1

/-! ## Order (R120 to R132) -/

/-- It reads. -/
def AccOp.isRead : AccOp → Bool
  | .load => true
  | .atom .. => true
  | .count .. => true
  | _ => false
/-- It writes. -/
def AccOp.isWrite : AccOp → Bool
  | .store => true
  | .atom .. => true
  | .count .. => true
  | _ => false
/-- It is performed by the atomic unit of its slice (R87). -/
def AccOp.isAtomic : AccOp → Bool
  | .atom .. => true
  | .count .. => true
  | _ => false
/-- It is a fence. -/
def AccOp.isFence : AccOp → Bool
  | .fence => true
  | _ => false

/-- It is an access of the thread that it names, in that thread's program order: one of its own instructions, or the record
of one of its context instructions (R119, R388). -/
def Job.ofThread : Job → Bool
  | .thread => true
  | .record _ => true
  | _ => false

/-- REL or AR on a store or atomic (R124). -/
def Flight.releases (f : Flight) : Bool := f.op.isWrite && (f.ord == 2 || f.ord == 3)
/-- ACQ or AR on a load or atomic (R125). -/
def Flight.acquires (f : Flight) : Bool := f.op.isRead && (f.ord == 1 || f.ord == 3)

/-- The piece is performed (R119). -/
def Piece.performed (p : Piece) : Bool := p.stage == .back || p.stage == .done

/-- The bytes that an access returned. -/
def Flight.loaded (f : Flight) : List (Byte × Bool) := f.pieces.flatMap fun p => p.bytes.zip p.bad

/-- Two pieces share a byte. -/
def Piece.overlaps (p q : Piece) : Bool := decide (p.addr < q.addr + q.len) && decide (q.addr < p.addr + p.len)

/-- A fence between an earlier access `e` and a later one `f` orders them (R127, R128). -/
def fenceOrders (fe e f : Flight) (uo : Bool) : Bool :=
  (!uo || decide (3 ≤ fe.scope.toNat)) &&
    (fe.ord == 4 || ((fe.ord == 2 || fe.ord == 3) && f.op.isWrite) || ((fe.ord == 1 || fe.ord == 3) && e.op.isRead))

/-- Piece `q` of the earlier access `e` must be performed before piece `p` of the access `f` (R120, R124, R125, R127,
R130, R131; R58 and R296 within a bundle; R119 of constant-window reads). Engine accesses are ordered only through the
ends of their commands (R136). `fences` are those of the thread. -/
def mustPrecede (fences : List Flight) (e : Flight) (q : Piece) (f : Flight) (p : Piece) : Bool :=
  if e.const || f.const || !e.job.ofThread || !f.job.ofThread then false
  else if e.own == f.own then
    let uo := q.kind == .uo || p.kind == .uo
    q.overlaps p || (q.kind == .so && p.kind == .so) || (f.releases && !uo) || (e.acquires && !uo) ||
      fences.any fun x => decide (e.seq < x.seq) && decide (x.seq < f.seq) && fenceOrders x e f uo
  else e.bundle == f.bundle && e.op.isWrite && f.op.isWrite && q.overlaps p

/-- The fences of a thread. -/
def State.fencesOf (s : State) (r : Ref) : List Flight := s.flights.filter fun x => x.op.isFence && x.own == r

/-- Nothing that must come before piece `p` of flight number `n` is still to be performed. -/
def State.mayPerform (s : State) (n : Nat) (f : Flight) (p : Piece) : Bool :=
  let fs := s.fencesOf f.own
  ((s.flights.take n).filter fun e => !e.performed && !e.op.isFence).all fun e =>
    e.pieces.all fun q => q.performed || !mustPrecede fs e q f p

/-- Committed region entries of the thread are still to be performed (R316). -/
def State.drainsOwn (s : State) (r : Ref) : Bool :=
  !(s.thr r).ctl && (s.group r.team (s.thr r).group).draining.any fun e => e.parts.any fun p => p.thr == r.thr

/-- Committed scratch entries of the thread are still to be performed (R133, R316). -/
def State.drainsScratch (s : State) (r : Ref) : Bool :=
  !(s.thr r).ctl && (s.group r.team (s.thr r).group).draining.any fun e =>
    e.scratch.isSome && e.parts.any fun p => p.thr == r.thr

/-- Every earlier access of a thread is performed; UO accesses count only if `uo` (R124, R128, R131, R316). -/
def State.allPerformed (s : State) (r : Ref) (uo : Bool) : Bool :=
  !s.drainsOwn r && s.flights.all fun e => !(e.own == r) || e.performed || e.op.isFence || e.const ||
    e.pieces.all fun q => q.performed || (!uo && q.kind == .uo)

/-- Committed atomics of the thread's regions are still to be performed (R127, R316). -/
def State.drainsReads (s : State) (r : Ref) : Bool :=
  !(s.thr r).ctl && (s.group r.team (s.thr r).group).draining.any fun e =>
    e.op.isRead && e.parts.any fun p => p.thr == r.thr

/-- Every earlier load and atomic of a thread is performed, UO ones only if `uo` (R127). -/
def State.readsPerformed (s : State) (r : Ref) (uo : Bool) : Bool :=
  !s.drainsReads r && s.flights.all fun e => !(e.own == r) || e.performed || !e.op.isRead || e.const ||
    e.pieces.all fun q => q.performed || (!uo && q.kind == .uo)

/-- A scratch access of a thread may be performed: no acquire of its own is outstanding, nothing that its own release
or an earlier FENCE.REL orders before it is (R124 to R128, R133). -/
def State.scratchMay (s : State) (r : Ref) (ord : BitVec 3) (wr : Bool) : Bool :=
  let fs := s.fencesOf r
  let rel := wr && (ord == 2 || ord == 3)
  s.flights.all fun e => !(e.own == r) || e.performed || e.op.isFence || e.const || e.pieces.all fun q =>
    q.performed ||
      !((!(q.kind == .uo) && (rel || e.acquires)) ||
        fs.any fun x => decide (e.seq < x.seq) &&
          fenceOrders x e { e with op := if wr then .store else .load } (q.kind == .uo))

/-! ## The network (R77 to R80, R429) -/

/-- An egress port of a die. Kinds: 0 gallery to rotunda, 1 rotunda to spire, 2 rotunda to bridge, 3 bridge to this
die's rotunda, 4 spire to rotunda, 5 rotunda to gallery, 6 rotunda to fabric link, 7 fabric link to rotunda; 8 + 2 l and
9 + 2 l lead up and down the chain of a spire's slice routers, between levels l and l + 1 (R77). DESIGN CHOICE (log 2):
14 carries what R77's table leaves out, n = 0 and 1 to and from the host, 2 and 3 to and from the device registers; a
packet that a slice injects comes in at port 120 + its level. -/
def portId (die kind n : Nat) : Nat := die * 128 + kind * 8 + n

/-- The gallery of a core on its die: 16 cores each (R77). -/
def galleryOf (core : Nat) : Nat := core % 128 / 16

/-- The links of a spire's chain from its rotunda up to a level, and from there down (R77). -/
def climb (die spire level : Nat) : List Nat := (List.range level).map fun l => portId die (8 + 2 * l) spire
/-- The way down of a response. -/
def descend (die spire level : Nat) : List Nat := (List.range level).reverse.map fun l => portId die (9 + 2 * l) spire

/-- The ports that a request crosses (R77). One core's packets to one destination follow one path (R79). -/
def State.requestRoute (s : State) (core pa : Nat) : List Nat :=
  let d := dieOfCore core
  let out := portId d 0 (galleryOf core)
  match spaceOf pa with
  | .hbm =>
    let e := dieOfPa pa
    let k := (s.homeOf pa).getD 0
    let up := portId e 1 (k / 4) :: climb e (k / 4) (k % 4)
    if d = e then out :: up else out :: portId d 2 (core % 5) :: portId e 3 (core % 5) :: up
  | .peer => [out, portId d 6 ((s.linkOf d pa).getD 0 % 8)]
  | .device => [out, portId d 14 2]
  | _ => [out, portId d 14 0]

/-- The ports that its response crosses. -/
def State.responseRoute (s : State) (core pa : Nat) : List Nat :=
  let d := dieOfCore core
  let back := portId d 5 (galleryOf core)
  match spaceOf pa with
  | .hbm =>
    let e := dieOfPa pa
    let k := (s.homeOf pa).getD 0
    let down := descend e (k / 4) (k % 4) ++ [portId e 4 (k / 4)]
    if d = e then down ++ [back] else down ++ [portId e 2 (core % 5), portId d 3 (core % 5), back]
  | .peer => [portId d 7 ((s.linkOf d pa).getD 0 % 8), back]
  | .device => [portId d 14 3, back]
  | _ => [portId d 14 1, back]

/-- The ports that a message, or its answer, crosses from one core to another (R77, R163). -/
def messageRoute (a b : Nat) : List Nat :=
  let d := dieOfCore a
  let e := dieOfCore b
  if d = e then [portId d 0 (galleryOf a), portId d 5 (galleryOf b)]
  else [portId d 0 (galleryOf a), portId d 2 (a % 5), portId e 3 (a % 5), portId e 5 (galleryOf b)]

/-- One piece changed. -/
def State.modPiece (s : State) (n k : Nat) (f : Piece → Piece) : State :=
  s.modFlight n fun x => { x with pieces := x.pieces.modify k f }

/-- A packet joins the FIFO of the port it goes to next (R79). DESIGN CHOICE (log 2): at its first packet a port's
round-robin stands after input port 0 and its saturated-win window is open. -/
def State.portPush (s : State) (id : Nat) (p : Packet) : State :=
  if s.ports.any fun x => x.id == id then
    { s with ports := s.ports.map fun x => if x.id = id then { x with fifo := x.fifo ++ [p] } else x }
  else
    { s with ports := s.ports ++ [{ id := id, fifo := [p], last := 0, lastSat := 0, sinceSat := 4095 }] }

/-- The answer of a message has come back: its sender's register takes the status (R163). -/
def State.messageBack (s : State) (n : Nat) : State :=
  let m := s.messages.getD n default
  if m.done then s
  else
    { s with messages := s.messages.modify n fun x => { x with done := true } }.modThr m.own fun t =>
      t.set32 m.dst.toNat (m.status.getD 0) tagI32

/-- A packet arrives: a request at its home or its ring's core, a response at its core (R79, R85, R163). -/
def State.packetArrive (s : State) (p : Packet) : State :=
  match p.load with
  | .piece n k =>
    let q := (s.flights.getD n default).pieces.getD k default
    if p.resp then s.modPiece n k fun q => { q with stage := .done }
    else { s with stamp := s.stamp + 1 }.modPiece n k fun x =>
      { x with stage := .slice, arr := s.stamp, at8 := s.mem8 (dieOfPa q.pa) }
  | .message n => if p.resp then s.messageBack n else { s with messages := s.messages.modify n fun x => { x with here := true } }
  | _ => s

/-- A packet takes its next hop, or arrives. -/
def State.packetGo (s : State) (p : Packet) : State :=
  match p.route with
  | id :: rest => s.portPush id { p with route := rest, age := 0 }
  | [] => s.packetArrive p

/-- A piece that may be performed leaves its core as a request (R78). -/
def State.sendPiece (s : State) (n k : Nat) : State :=
  let f := s.flights.getD n default
  let p := f.pieces.getD k default
  (s.modPiece n k fun q => { q with stage := .net }).packetGo
    { load := .piece n k, resp := false, harvest := f.harvest, prio := f.prio, input := f.core % 16, age := 0,
      route := s.requestRoute f.core p.pa }

/-- The held pieces of a flight that may be performed are sent. -/
def State.sendReady (s : State) (n : Nat) : State :=
  let f := s.flights.getD n default
  (List.range f.pieces.length).foldl (fun x k =>
    let p := f.pieces.getD k default
    if p.stage = .held ∧ x.mayPerform n f p = true then x.sendPiece n k else x) s

/-- Everything that was held and may now go is sent, oldest first. -/
def State.sendAll (s : State) : State := (List.range s.flights.length).foldl (fun x n => x.sendReady n) s

/-- A performed piece answers: its response starts back (R78). -/
def State.respond (s : State) (n k : Nat) : State :=
  let f := s.flights.getD n default
  let p := f.pieces.getD k default
  let s1 := s.modPiece n k fun q => { q with stage := .back }
  let s2 := s1.modFlight n fun x => { x with performed := x.pieces.all Piece.performed }
  s2.packetGo { load := .piece n k, resp := true, harvest := f.harvest, prio := f.prio,
                input := 120 + (s.homeOf p.pa).getD 0 % 4, age := 0, route := s.responseRoute f.core p.pa }

/-! ## The L1 data cache (R73, R74, R129) -/

/-- The line that a core's L1 holds. -/
def State.l1Line (s : State) (core line : Nat) : Option L1Line :=
  s.l1.find? fun x => x.core == core && x.line == line
/-- A line leaves a core's L1. -/
def State.l1Drop (s : State) (core line : Nat) : State :=
  { s with l1 := s.l1.filter fun x => !(x.core == core && x.line == line) }
/-- The L1 set of a line: 128 sets of 8 ways. DESIGN CHOICE (log 12): R73 gives the ways, not the index nor which line
of a full set leaves; here the index is the line's number, and the oldest fill leaves. -/
def l1Set (line : Nat) : Nat := line / 128 % 128

/-- A line enters a core's L1 as its home holds it now (R73). -/
def State.l1Fill (s : State) (core line : Nat) (const : Bool) : State :=
  let d := s.l1Drop core line
  let bs := s.imageRead line 128
  let x : L1Line := { core := core, line := line, data := bs.map (·.1),
                      bad := (bs.zipIdx.filter fun p => p.1.2).map fun p => line + p.2, const := const }
  { d with l1 := capBy (fun y => y.core == core && l1Set y.line == l1Set line) 8 (x :: d.l1) }
/-- A self-invalidation: every line but the constant-window lines (R74, R129). -/
def State.l1Clear (s : State) (core : Nat) : State :=
  { s with l1 := s.l1.filter fun x => !(x.core == core) || x.const }
/-- Bytes of an L1 copy updated by a store, as its home performs and so acknowledges it (R74, R121). -/
def State.l1Update (s : State) (core addr : Nat) (bs : List Byte) : State :=
  { s with l1 := s.l1.map fun x =>
      if x.core = core ∧ x.line = lineOf addr then
        let o := addr - x.line
        { x with data := x.data.take o ++ bs ++ x.data.drop (o + bs.length),
                 bad := setDelRange x.bad addr bs.length }
      else x }
/-- A load of a core at a line's home: what the core still holds of the line's block from before an add-on-store leaves its
L1 (R135). -/
def State.l1Renew (s : State) (core line : Nat) : State :=
  { s with l1 := s.l1.filter fun x => !(x.core == core && x.old && x.line / 4096 == line / 4096) }
/-- An add-on-store to a block has been performed: what the L1s hold of it is from before (R135). -/
def State.l1Age (s : State) (block : Nat) : State :=
  { s with l1 := s.l1.map fun x => if x.line / 4096 = block / 4096 then { x with old := true } else x }

/-- The set of an instruction line: 128 sets of 4 ways. DESIGN CHOICE (log 12): as `l1Set`. -/
def iSet (line : Nat) : Nat := line / 128 % 128
/-- A line enters a core's instruction cache (R76). -/
def State.ilinePut (s : State) (x : ILine) : State :=
  { s with icache := capBy (fun y => y.core == x.core && iSet y.line == iSet x.line) 4
             (x :: s.icache.filter fun y => !(y.core == x.core && y.line == x.line)) }

/-- An acquire at this scope by a thread of this team self-invalidates (R129). -/
def State.selfInvalidates (s : State) (t : Nat) (scope : BitVec 3) : Bool :=
  decide (2 ≤ scope.toNat) || (scope == 1 && (s.block t).twoCore)

/-- An acquire at a scope by a thread is performed: if the scope asks for it, its core's L1 is cleared, and the thread's
later loads that the acquire orders, UO ones only if `uo`, read their homes (R125, R127, R129). -/
def State.acquireOver (s : State) (r : Ref) (scope : BitVec 3) (uo : Bool) : State :=
  if s.selfInvalidates r.team scope then
    (s.l1Clear (s.coreOf r)).modThr r fun t => { t with fromHome := true, fromHomeUo := t.fromHomeUo || uo }
  else s
/-- An acquire that does not order UO accesses (R125). -/
def State.acquireAt (s : State) (r : Ref) (scope : BitVec 3) : State := s.acquireOver r scope false

/-- The bytes that a piece finds in its core's L1, if the line is there and, unless a constant-window read asks, was not
filled by such a read. -/
def State.l1Bytes (s : State) (core : Nat) (const : Bool) (p : Piece) : Option (List (Byte × Bool)) :=
  ((s.l1Line core (lineOf p.addr)).filter fun x => const || !x.const).map fun x =>
    (List.range p.len).map fun k => (x.data.getD (p.addr - x.line + k) 0, x.bad.contains (p.addr + k))

/-- A store of the thread to one of a piece's bytes has not been acknowledged (R121). -/
def State.ownStoreOut (s : State) (r : Ref) (p : Piece) : Bool :=
  s.flights.any fun e => e.own == r && e.job.ofThread && e.op.isWrite && !e.returned && e.pieces.any fun q => q.overlaps p

/-! ## At the home (R83, R85, R87, R94, R135, R427) -/

/-- Two pieces share a line. -/
def Piece.meets (p q : Piece) : Bool := decide (lineOf p.addr < q.addr + q.len) && decide (lineOf q.addr < p.addr + p.len)

/-- A load of a thread has been performed in a part of a block and not yet in another (R135). -/
def Flight.partIn (f : Flight) (q : Piece) : Bool :=
  f.op == .load && f.pieces.any (fun p => p.overlaps q && p.performed) && f.pieces.any fun p => p.overlaps q && !p.performed

/-- The piece has arrived at its home and is not yet performed. -/
def Piece.atHome (p : Piece) : Bool := (p.stage == .slice || p.stage == .hbm) && !p.lost

/-- A piece that arrived earlier at the same line is not yet performed (R85). The rest of a load that is performed in part
goes ahead of an add-on-store to its block, which waits for it (R135). -/
def State.lineBehind (s : State) (n k : Nat) : Bool :=
  let f := s.flights.getD n default
  let p := f.pieces.getD k default
  s.flights.any fun g => g.pieces.any fun q =>
    q.atHome && q.meets p && decide (q.arr < p.arr) && !(q.len == 4096 && f.partIn q)

/-- A piece does not get through: it was lost on its way, has no home, or no link carries it (R82, R83, R427, R441). -/
def State.pieceLost (s : State) (f : Flight) (p : Piece) : Bool :=
  p.lost || !s.reaches p.pa || (spaceOf p.pa == .peer && (s.linkOf (dieOfCore f.core) p.pa).isNone)

/-- Nothing keeps a piece that has arrived from its place in its line's order: it is not held there, it is first, and a
whole block's update cuts through no load (R85, R87, R135). -/
def State.mayServe (s : State) (n k : Nat) : Bool :=
  let f := s.flights.getD n default
  let p := f.pieces.getD k default
  p.stage == .slice && (s.pieceLost f p ||
    (!s.lineHeld p.pa p.addr p.len && !s.lineBehind n k && !(p.len == 4096 && s.flights.any fun g => g.partIn p)))

/-- The unit of its die that performs a piece: its slice's pipeline or atomic unit (R85, R87). -/
def State.homeUnit (s : State) (f : Flight) (p : Piece) : Nat :=
  2 * (s.homeOf p.pa).getD 0 + if f.op.isAtomic then 1 else 0

/-- A guaranteed access that could go waits at the same unit (R94). -/
def State.guaranteedWaits (s : State) (die unit : Nat) : Bool :=
  (List.range s.flights.length).any fun n =>
    let f := s.flights.getD n default
    !f.harvest && (List.range f.pieces.length).any fun k =>
      let p := f.pieces.getD k default
      spaceOf p.pa == .hbm && dieOfPa p.pa == die && s.homeUnit f p == unit && s.mayServe n k

/-- A piece waits for its unit as harvest traffic does: a guaranteed access could go there, and it has not aged 4,096 memory
cycles or the unit has served an aged one in the last 4,096 (R94, R95). -/
def State.classHeld (s : State) (f : Flight) (p : Piece) : Bool :=
  let d := dieOfPa p.pa
  f.harvest && spaceOf p.pa == .hbm && s.guaranteedWaits d (s.homeUnit f p) &&
    !(decide (p.at8 + 32768 ≤ s.mem8 d) && (s.die d).agedOpen (s.homeUnit f p))

/-- A piece may be served now (R85, R87, R94). -/
def State.served (s : State) (n k : Nat) : Bool :=
  let f := s.flights.getD n default
  s.mayServe n k && !s.classHeld f (f.pieces.getD k default)

/-- A harvest piece that is served ahead of a guaranteed one takes its unit's aged win (R94). -/
def State.noteAged (s : State) (f : Flight) (p : Piece) : State :=
  let d := dieOfPa p.pa
  if f.harvest && spaceOf p.pa == .hbm && s.guaranteedWaits d (s.homeUnit f p) then s.modDie d fun x => x.agedWin (s.homeUnit f p) else s

/-- A piece is performed with the bytes that it returns: its response goes out, an acquire clears the L1, and what was
held goes on (R85, R125, R129). `lost` says that it did not get through. -/
def State.donePiece (s : State) (n k : Nat) (bs : List (Byte × Bool)) (lost : Bool := false) : State :=
  let s1 := (s.modPiece n k fun p => { p with bytes := bs.map (·.1), bad := bs.map (·.2), lost := lost }).respond n k
  let f := s1.flights.getD n default
  let s2 := if f.performed && f.acquires then s1.acquireAt f.own f.scope else s1
  s2.sendAll

/-! ## Issuing -/

/-- Traffic of a thread's team: harvest, and priority (R78, R197). -/
def State.trafficPrio (s : State) (t : Nat) : Nat := (s.launchOf t).prio

/-- A flight joins the list, its thread counts it, and what may go of it is sent. -/
def State.launchFlight (s : State) (f : Flight) : State :=
  let n := s.flights.length
  ({ s with flights := s.flights ++ [f] }.modThr f.own fun t => { t with seq := t.seq + 1 }).sendReady n

/-- An access that an engine makes for a team: its flight, of one class with the team (R78, R119). -/
def State.agentFlight (s : State) (t core : Nat) (job : Job) (op : AccOp) (bytes : List Byte) (pieces : List Piece) :
    Flight :=
  { (default : Flight) with
    own := ⟨t, 65536⟩, core := core, bundle := s.stamp, op := op, bytes := bytes, harvest := s.harvest t,
    prio := s.trafficPrio t, pieces := pieces, job := job, size := bytes.length, dst := 0, wcode := 2,
    asid := (s.team t).xasid.setWidth 16 }

/-- An access for a command is still under way. -/
def State.jobOut (s : State) (p : Job → Bool) : Bool := s.flights.any fun f => !f.returned && p f.job

/-- A fence is noted in its thread's order (R127). -/
def State.noteFence (s : State) (r : Ref) (ord scope : BitVec 3) : State :=
  let t := s.thr r
  let f : Flight := { (default : Flight) with
    own := r, core := s.coreOf r, seq := t.seq, bundle := s.stamp, op := .fence, ord := ord, scope := scope,
    performed := true, returned := true }
  { s with flights := s.flights ++ [f] }.modThr r fun t => { t with seq := t.seq + 1 }

end Sys2Proof.Machine
end

