-- ==== Sys2Proof/Machine/Scratch.lean ====
section
/-! DEFINITION. The scratchpad window of a team (R43, R56, R58, R61, R209). -/

namespace Sys2Proof.Machine

open Sys2Proof

/-- Bytes of a team's window on each of its cores (R43). -/
def State.window (s : State) (t : Nat) : Nat := (s.block t).scrg * 4096

/-- `n` bytes at an offset lie in the window of the issuing core (R43). -/
def State.inWindow (s : State) (t off n : Nat) : Bool := decide (off + n ≤ s.window t)

/-- The half and offset that a window address of a thread names, if `n` bytes there are in bounds (R43). -/
def State.scratchAt (s : State) (r : Ref) (sa : BitVec 32) (n : Nat) : Option (Nat × Nat) :=
  let off := (sa.extractLsb' 0 31).toNat
  let h := (s.thr r).half
  if !s.inWindow r.team off n then none
  else if sa.getLsbD 31 then (if (s.block r.team).twoCore then some (1 - h, off) else none)
  else some (h, off)

/-- Scratch granules of a range that an eviction has not yet passed (R209). -/
def Half.scratchAway (h : Half) (off n : Nat) : Bool :=
  !h.awaiting.isEmpty && h.awaiting.any fun g => decide (1024 ≤ g) && decide (g < 2048) &&
    decide (off < (g - 1024 + 1) * 4096) && decide ((g - 1024) * 4096 < off + n)

/-- Bytes of a half's scratch, each with whether its word is poisoned (R61). -/
def Half.scratchRead (h : Half) (off n : Nat) : List (Byte × Bool) :=
  (List.range n).map fun k => (readByte h.scratch (off + k), h.scrPoison.contains ((off + k) / 4 * 4))

/-- Words wholly inside a range. -/
def fullWords (off n : Nat) : List Nat :=
  ((List.range (n / 4 + 1)).map fun k => ((off + 3) / 4 + k) * 4).filter fun w => decide (w + 4 ≤ off + n)

/-- Bytes of a half's scratch written; a word written whole loses its poison code (R61). -/
def Half.scratchWrite (h : Half) (off : Nat) (bs : List Byte) : Half :=
  { h with scratch := writeBytes h.scratch off bs,
           scrPoison := h.scrPoison.filter fun w => !(fullWords off bs.length).contains w }

/-- The words of a range take the poison code (R61). -/
def Half.scratchPoison (h : Half) (off n : Nat) : Half :=
  { h with scrPoison := (List.range ((off + n + 3) / 4 - off / 4)).foldl (fun p k => setAdd ((off / 4 + k) * 4) p) h.scrPoison }

end Sys2Proof.Machine
end

