-- ==== Sys2Proof/Machine/Access.lean ====
section
/-! DEFINITION. Loads, stores, atomics, reductions, prefetch, fences and monitors (R289 to R300; R311 to R315 for their
buffered forms). -/

namespace Sys2Proof.Machine

open Sys2Proof

/-! ## Addresses, widths, data (R233, R289, R290) -/

/-- Size of an access (R233). -/
def sizeW (w : BitVec 3) : Nat :=
  match w.toNat with
  | 0 | 5 => 1
  | 1 | 6 => 2
  | 2 => 4
  | 3 => 8
  | _ => 16

/-- Global address of an M word (R289). -/
def Thread.globalVa (t : Thread) (a : BitVec 6) (o : BitVec 8) (w : BitVec 3) : BitVec 64 :=
  t.pairVal a.toNat + BitVec.ofInt 64 (t.offM o * sizeW w)
/-- Window address of an M word (R289). -/
def Thread.scratchSa (t : Thread) (a : BitVec 6) (o : BitVec 8) (w : BitVec 3) : BitVec 32 :=
  t.val32 a.toNat + BitVec.ofInt 32 (t.offM o * sizeW w)
/-- Constant offset of an M word (R289). -/
def Thread.constOff (t : Thread) (a : BitVec 6) (o : BitVec 8) (w : BitVec 3) : Int :=
  (t.val32 a.toNat).toInt + t.offM o * sizeW w

/-- A loaded register: POISON with data 0 when any byte of it is bad (R104, R290). -/
def loadedReg (tag : Tag) (v : BitVec 64) (bad : Bool) : Reg :=
  if bad then { val := 0, tag := tagPOISON } else { val := v, tag := tag }

/-- The number that bytes hold, as 64 bits. -/
def bytes64 (bs : List (Byte × Bool)) : BitVec 64 := BitVec.ofNat 64 (ofLe (bs.map (·.1)))

/-- The destination registers of a load written from its bytes (R290). -/
def Thread.loadWrite (t : Thread) (d : BitVec 6) (w : BitVec 3) (tag : Tag) (bs : List (Byte × Bool)) : Thread :=
  let bad (l : List (Byte × Bool)) : Bool := l.any (·.2)
  let v := bytes64 (bs.take 8)
  let n := d.toNat
  match w.toNat with
  | 0 | 1 | 2 => t.setReg n (loadedReg tag v (bad bs))
  | 5 => t.setReg n (loadedReg tag (if t.ctl then sext64 8 v else low32 (sext64 8 v)) (bad bs))
  | 6 => t.setReg n (loadedReg tag (if t.ctl then sext64 16 v else low32 (sext64 16 v)) (bad bs))
  | _ =>
    let step := if t.ctl then 8 else 4
    (List.range (bs.length / step)).foldl (fun t k =>
      let part := (bs.drop (step * k)).take step
      t.setReg (n + k) (loadedReg tag (bytes64 part) (bad part))) t

/-- The bytes that a store writes (R290). -/
def Thread.storeBytes (t : Thread) (r : BitVec 6) (w : BitVec 3) : List Byte :=
  let n := sizeW w
  if n ≤ 4 ∨ (t.ctl ∧ n = 8) then leBytes n (t.reg r.toNat).val.toNat
  else
    let step := if t.ctl then 8 else 4
    (List.range (n / step)).flatMap fun k => leBytes step (t.reg (r.toNat + k)).val.toNat

/-- The tag that a load of a width writes (R290). -/
def Thread.loadTag (t : Thread) (w : BitVec 3) : Tag := if decide (2 ≤ w.toNat) && decide (w.toNat ≤ 4) then t.ltag else tagI32

/-! ## The region store buffer (R311, R315) -/

/-- The thread's stores and atomics go to its group's buffer (R312, R355). -/
def State.buffers (s : State) (r : Ref) : Bool :=
  let t := s.thr r
  !t.ctl && !t.cm && (s.group r.team t.group).open_

/-- The active lanes of a bundle in a thread's group. -/
def State.groupLanes (s : State) (i : Instr) (r : Ref) : List Ref := (s.active i).filter fun q => s.sameGroup q r

/-- Blocks of 16 bytes that a range touches. -/
def blocksOf (a n : Nat) : List Nat := (List.range ((a + n - 1) / 16 - a / 16 + 1)).map fun k => a / 16 + k

/-- The check of R315 on an instruction that needs `need` entries in a thread's group: REGION past 64 own entries, a
wait while an earlier region's entries still hold the place. -/
def State.bufferCheck (s : State) (r : Ref) (need : Nat) : Verdict :=
  let g := s.group r.team (s.thr r).group
  if 64 < g.buf.length + need then .fail (plainFault .region)
  else if 64 < g.buf.length + g.draining.length + need then .wait .storeBuffer
  else .run

/-- Entries taken by the global stores of the group's lanes: their 16-byte blocks and pages (R315). -/
def State.storeBlocks (s : State) (i : Instr) (r : Ref) (va : Thread → BitVec 64) (n : Nat) : Nat :=
  ((s.groupLanes i r).flatMap fun q => (blocksOf (va (s.thr q)).toNat n)).eraseDups.length

/-- A store's part joins the entry of its block among the entries of one instruction, or starts one; an atomic takes an
entry of its own (R315). -/
def joinEntry (e : BufEntry) : List BufEntry → List BufEntry
  | [] => [e]
  | x :: xs =>
    if x.op = .store ∧ e.op = .store ∧ x.scratch = e.scratch ∧ x.addr = e.addr ∧ clearLow x.va 16 = clearLow e.va 16 then
      { x with parts := x.parts ++ e.parts } :: xs
    else x :: joinEntry e xs

/-- A block's slice of some bytes that start at address `a`: its offset in the block, and the bytes. -/
def blockSlice (a : Nat) (bs : List Byte) (b : Nat) : Nat × List Byte :=
  let lo := max a (16 * b)
  (lo - 16 * b, (bs.drop (lo - a)).take (16 * b + 16 - lo))

/-- The entries of one lane's store through a translated access. -/
def storeEntries (r : Ref) (t : Thread) (asid : BitVec 16) (parts : List (BitVec 64 × Nat × Leaf × Nat)) (bs : List Byte) :
    List BufEntry :=
  (parts.foldl (fun (acc : List BufEntry × List Byte) p =>
    let (va, n, l, pa) := p
    let mine := acc.2.take n
    (acc.1 ++ (blocksOf pa n).map fun b =>
      let sl := blockSlice pa mine b
      { scratch := none, addr := 16 * b, plinth := some (imageAddr l.plinth (16 * b)), kind := l.ordKind, ord := t.ord,
        scope := t.scope, op := .store, parts := [{ thr := r.thr, off := sl.1, bytes := sl.2 }], asid := asid,
        va := va, level := l.level, glob := l.glob, drain := none }, acc.2.drop n)) ([], bs)).1

/-- The entries of one lane's scratch store. -/
def scratchEntries (r : Ref) (t : Thread) (half off : Nat) (bs : List Byte) : List BufEntry :=
  (blocksOf off bs.length).map fun b =>
    let sl := blockSlice off bs b
    { scratch := some half, addr := 16 * b, plinth := none, kind := .rc, ord := t.ord, scope := t.scope, op := .store,
      parts := [{ thr := r.thr, off := sl.1, bytes := sl.2 }], asid := 0, va := 0, level := 0, glob := false,
      drain := none }

/-- Entries join a group's buffer. -/
def State.bufferPush (s : State) (r : Ref) (es : List BufEntry) : State :=
  s.modGroup r.team (s.thr r).group fun g => { g with buf := g.buf ++ es }

/-- The entries of all running lanes of one instruction, merged per group, join the buffers (R315). -/
def State.bufferAll (s : State) (rs : List Ref) (entries : Ref → List BufEntry) : State :=
  (s.groupsOf rs).foldl (fun x p =>
    let mine := rs.filter fun r => r.team == p.1 && (s.thr r).group == p.2
    let es := mine.foldl (fun acc r => (entries r).foldl (fun a e => joinEntry e a) acc) []
    match mine with
    | r :: _ => x.bufferPush r es
    | [] => x) s

/-- The byte that a thread's own buffered stores give an address of the coherent image, or of a half's window: the
latest of them (R315, R316). -/
def ownByte (r : Ref) (es : List BufEntry) (scratch : Option Nat) (a : Nat) : Option Byte :=
  es.foldl (fun acc e =>
    if e.op != .store || e.scratch != scratch then acc
    else
      let base := e.plinth.getD e.addr
      e.parts.foldl (fun acc p =>
        if p.thr = r.thr ∧ base + p.off ≤ a ∧ a < base + p.off + p.bytes.length then p.bytes[a - base - p.off]? else acc) acc)
    none

/-- The entries that a thread's loads see: those draining, and those of the open region (R315, R316). -/
def State.ownEntries (s : State) (r : Ref) : List BufEntry :=
  let t := s.thr r
  let g := s.group r.team t.group
  if t.ctl then [] else g.draining ++ (if s.buffers r then g.buf else [])

/-- Bytes read with the thread's own buffered bytes in their place (R315). -/
def overlay (bs : List (Byte × Bool)) (fwd : List (Nat × Byte)) : List (Byte × Bool) :=
  bs.zipIdx.map fun p =>
    match fwd.find? fun f => f.1 == p.2 with
    | some f => (f.2, false)
    | none => p.1

/-- Forwarded bytes of an access, by offset. -/
def State.forwards (s : State) (r : Ref) (ps : List Piece) : List (Nat × Byte) :=
  match s.ownEntries r with
  | [] => []
  | es => ps.flatMap fun p =>
    (List.range p.len).filterMap fun k => (ownByte r es none (p.addr + k)).map fun b => (p.off + k, b)

/-! ## Issuing a global access -/

/-- A flight of a thread, to be launched in this bundle. -/
def State.flightOf (s : State) (r : Ref) (bundle : Nat) (op : AccOp) (va : BitVec 64) (size : Nat) (bytes : List Byte)
    (parts : List (BitVec 64 × Nat × Leaf × Nat)) (ord scope : BitVec 3) : Flight :=
  { own := r, core := s.coreOf r, seq := (s.thr r).seq, bundle := bundle, op := op, va := va, size := size, bytes := bytes,
    ord := ord, scope := scope, harvest := s.harvest r.team, prio := s.trafficPrio r.team, ccls := 0, dst := 0, wcode := 0,
    tag := tagI32, pieces := piecesOf parts, performed := false, returned := false, const := false,
    asid := (s.team r.team).xasid.setWidth 16, glob := parts.any fun p => p.2.2.1.glob,
    level := (parts.head?.map fun p => p.2.2.1.level).getD 3, fwd := [] }

/-- Registers that a flight will write (R181). -/
def State.await (s : State) (r : Ref) (u : Use) : State :=
  let n := s.flights.length - 1
  s.modThr r fun t => { t with pending := t.pending ++ (u.span t.ctl).map fun k => (BitVec.ofNat 6 k, n) }

/-- Lines of an access leave the issuing core's L1 (R74, R132). -/
def State.dropPieces (s : State) (core : Nat) (ps : List Piece) : State :=
  ps.foldl (fun x p => x.l1Drop core (lineOf p.addr)) s

/-- A load through this piece reads its home: an acquire that clears the L1 orders it, or an atomic or a store of the
thread that is not buffered is still to be performed there (R121, R129). -/
def State.readsHome (s : State) (r : Ref) (p : Piece) : Bool :=
  p.kind == .so || s.ownStoreOut r p || (if p.kind == .uo then (s.thr r).fromHomeUo else (s.thr r).fromHome)

/-- The bytes of an access, if its core's L1 may give them now (R73, R121, R129). A constant-window read follows only
R45 (R119), and only such a read hits a line that one has filled. -/
def State.l1Hit (s : State) (f : Flight) : Option (List (Byte × Bool)) :=
  let n := s.flights.length
  if f.acquires && s.selfInvalidates f.own.team f.scope then none
  else if f.pieces.all fun p => f.const || (s.mayPerform n f p && !s.readsHome f.own p) then
    let l := f.pieces.map fun p => if p.kind = .so then none else s.l1Bytes f.core f.const p
    if l.all fun x => match x with | some bs => bs.all fun b => !b.2 | none => false then some (l.flatMap fun x => x.getD [])
    else none
  else none

/-- A load of a lane: from the L1 at once, or as a flight (R73, R120, R293). -/
def State.loadGo (s : State) (r : Ref) (f : Flight) (u : Use) : State :=
  match s.l1Hit f with
  | some bs => s.modThr r fun t => { t.loadWrite f.dst f.wcode f.tag (overlay bs f.fwd) with seq := t.seq + 1 }
  | none => (s.launchFlight f).await r u

/-- The parts of a checked access; none cannot occur where the check has passed. -/
def partsOr (x : Except Verdict (List (BitVec 64 × Nat × Leaf × Nat))) : List (BitVec 64 × Nat × Leaf × Nat) :=
  match x with
  | .ok l => l
  | .error _ => []

/-- A check that an access passes its translation and permission (R291 step 3). -/
def passes (x : Except Verdict (List (BitVec 64 × Nat × Leaf × Nat))) (next : List (BitVec 64 × Nat × Leaf × Nat) → Verdict) :
    Verdict :=
  match x with
  | .ok l => next l
  | .error v => v

/-- A new bundle's stamp. -/
def State.tickStamp (s : State) : State := { s with stamp := s.stamp + 1 }

/-! ## Loads and stores (R293) -/

/-- The translation of a load. -/
def State.loadParts (s : State) (r : Ref) (va : BitVec 64) (n : Nat) :
    Except Verdict (List (BitVec 64 × Nat × Leaf × Nat)) := s.transAccess r va n { rd := true } 1
/-- The translation of a store. -/
def State.storeParts (s : State) (r : Ref) (va : BitVec 64) (n : Nat) :
    Except Verdict (List (BitVec 64 × Nat × Leaf × Nat)) := s.transAccess r va n { wr := true } 2
/-- The translation of an atomic; RED, which returns nothing, needs WR only (R29). -/
def State.atomParts (s : State) (r : Ref) (va : BitVec 64) (n : Nat) (red : Bool) :
    Except Verdict (List (BitVec 64 × Nat × Leaf × Nat)) := s.transAccess r va n { rd := !red, wr := true } 3

/-- A load of these bytes must wait for a committed atomic of its own thread to be performed (R120, R316). -/
def State.loadHeld (s : State) (r : Ref) (scratch : Option Nat) (a n : Nat) : Bool :=
  s.drainsOwn r && (s.group r.team (s.thr r).group).draining.any fun e =>
    e.op != .store && e.scratch == scratch && (e.parts.any fun p => p.thr == r.thr) &&
      decide (e.plinth.getD e.addr < a + n) && decide (a < e.plinth.getD e.addr + 16)

/-- A committed SO access of the thread is still to be performed: its later SO accesses come after it (R130, R316). -/
def State.drainsSo (s : State) (r : Ref) : Bool :=
  s.drainsOwn r && (s.group r.team (s.thr r).group).draining.any fun e =>
    e.kind == .so && e.parts.any fun p => p.thr == r.thr

/-- An access that is not buffered waits for its thread's committed stores, which come before it (R120, R316). -/
def State.afterDrain (s : State) (r : Ref) (v : Verdict) : Verdict :=
  if v = .run && !s.buffers r && s.drainsOwn r then .wait .performed else v

/-- The checks of LD (R291). -/
def State.ldCheck (s : State) (a : BitVec 6) (o : BitVec 8) (w : BitVec 3) (r : Ref) : Verdict :=
  let t := s.thr r
  if t.poisoned [u2 a] then .fail poisonFault
  else passes (s.loadParts r (t.globalVa a o w) (sizeW w)) fun l =>
    if (piecesOf l).any fun p => s.loadHeld r none p.addr p.len || (p.kind == .so && s.drainsSo r) then .wait .performed else .run

/-- LD (R289 to R293). -/
def execLd (g : BitVec 3) (d a : BitVec 6) (o : BitVec 8) (w : BitVec 3) (s : State) : Host.Outcome State Fault Refusal :=
  .next (s.perform (s.judge (.ld g d a o w) (s.ldCheck a o w)) fun s1 rs =>
    rs.foldl (fun x r =>
      let t := s.thr r
      let va := t.globalVa a o w
      let f := x.flightOf r s.stamp .load va (sizeW w) [] (partsOr (s.loadParts r va (sizeW w))) t.ord t.scope
      x.loadGo r { f with ccls := t.ccls, dst := d, wcode := w, tag := t.loadTag w, fwd := s.forwards r f.pieces }
        (useW w d)) s1.tickStamp)

/-- The checks of ST (R291, R315). -/
def State.stCheck (s : State) (i : Instr) (v a : BitVec 6) (o : BitVec 8) (w : BitVec 3) (r : Ref) : Verdict :=
  let t := s.thr r
  let room := if s.buffers r then s.bufferCheck r (s.storeBlocks i r (fun t => t.globalVa a o w) (sizeW w)) else .run
  if room = .fail (plainFault .region) then room
  else if t.poisoned [u2 a] then .fail poisonFault
  else passes (s.storeParts r (t.globalVa a o w) (sizeW w)) fun _ =>
    if t.poisoned [useW w v] then .fail poisonFault else s.afterDrain r room

/-- One lane's store sent to memory (R74, R120, R132). -/
def State.storeGo (s : State) (f : Flight) : State :=
  let so := f.pieces.filter fun p => p.kind == .so
  (s.dropPieces f.core so).launchFlight f

/-- ST (R289 to R293, R315). -/
def execSt (g : BitVec 3) (v a : BitVec 6) (o : BitVec 8) (w : BitVec 3) (s : State) : Host.Outcome State Fault Refusal :=
  .next (s.perform (s.judge (.st g v a o w) (s.stCheck (.st g v a o w) v a o w)) fun s1 rs =>
    let parts (r : Ref) := partsOr (s.storeParts r ((s.thr r).globalVa a o w) (sizeW w))
    let direct := (rs.filter fun r => !s.buffers r).foldl (fun x r =>
      let t := s.thr r
      let f := x.flightOf r s.stamp .store (t.globalVa a o w) (sizeW w) (t.storeBytes v w) (parts r) t.ord t.scope
      x.storeGo { f with ccls := t.ccls }) s1.tickStamp
    direct.bufferAll (rs.filter fun r => s.buffers r) fun r =>
      storeEntries r (s.thr r) ((s.team r.team).xasid.setWidth 16) (parts r) ((s.thr r).storeBytes v w))

/-- The checks of a scratch access at an address: alignment, bounds, what an eviction still holds, and order (R43, R56,
R133, R209, R291). -/
def State.scratchCheck (s : State) (r : Ref) (sa : BitVec 32) (n : Nat) (acc : BitVec 3) : Verdict :=
  if sa.toNat % n ≠ 0 then .fail { cause := .misaligned, acc := acc }
  else match s.scratchAt r sa n with
    | none => .fail { cause := .scratchBounds, acc := acc }
    | some (h, off) =>
      if (s.half r.team h).scratchAway off n then .wait .handover
      else if s.scratchMay r (s.thr r).ord (acc != 1) then .run else .wait .performed

/-- The checks of LDS; committed scratch accesses of its thread come first (R133, R291). -/
def State.ldsCheck (s : State) (a : BitVec 6) (o : BitVec 8) (w : BitVec 3) (r : Ref) : Verdict :=
  let t := s.thr r
  if t.poisoned [u1 a] then .fail poisonFault else 
    match s.scratchAt r (t.scratchSa a o w) (sizeW w), s.scratchCheck r (t.scratchSa a o w) (sizeW w) 1 with
    | some _, .run => if s.drainsScratch r then .wait .performed else .run
    | _, v => v

/-- An acquire of a scratch access is performed with it (R125, R129). -/
def State.acquireIf (s : State) (r : Ref) (ord scope : BitVec 3) : State :=
  if ord = 1 ∨ ord = 3 then s.acquireAt r scope else s

/-- LDS (R289 to R293). -/
def execLds (g : BitVec 3) (d a : BitVec 6) (o : BitVec 8) (w : BitVec 3) (s : State) : Host.Outcome State Fault Refusal :=
  .next (s.perform (s.judge (.lds g d a o w) (s.ldsCheck a o w)) fun s1 rs =>
    rs.foldl (fun x r =>
      let t := s.thr r
      match s.scratchAt r (t.scratchSa a o w) (sizeW w) with
      | some (h, off) =>
        let es := s.ownEntries r
        let bs := ((s.half r.team h).scratchRead off (sizeW w)).zipIdx.map fun p =>
          match ownByte r es (some h) (off + p.2) with
          | some b => (b, false)
          | none => p.1
        (x.modThr r fun u => u.loadWrite d w (t.loadTag w) bs).acquireIf r t.ord t.scope
      | none => x) s1)

/-- Entries taken by the scratch stores of the group's lanes (R315). -/
def State.scratchBlocks (s : State) (i : Instr) (r : Ref) (sa : Thread → BitVec 32) (n : Nat) : Nat :=
  ((s.groupLanes i r).flatMap fun q => (blocksOf (sa (s.thr q)).toNat n)).eraseDups.length

/-- The checks of STS (R291, R315). -/
def State.stsCheck (s : State) (i : Instr) (v a : BitVec 6) (o : BitVec 8) (w : BitVec 3) (r : Ref) : Verdict :=
  let t := s.thr r
  let room := if s.buffers r then s.bufferCheck r (s.scratchBlocks i r (fun t => t.scratchSa a o w) (sizeW w)) else .run
  if room = .fail (plainFault .region) then room
  else if t.poisoned [u1 a] then .fail poisonFault
  else
    match s.scratchCheck r (t.scratchSa a o w) (sizeW w) 2 with
    | .fail f => .fail f
    | v1 =>
      if t.poisoned [useW w v] then .fail poisonFault else s.afterDrain r (if s.buffers r then room else v1)

/-- STS: of lanes that write one byte the highest slot's value stands (R58, R289 to R293, R315). -/
def execSts (g : BitVec 3) (v a : BitVec 6) (o : BitVec 8) (w : BitVec 3) (s : State) : Host.Outcome State Fault Refusal :=
  .next (s.perform (s.judge (.sts g v a o w) (s.stsCheck (.sts g v a o w) v a o w)) fun s1 rs =>
    let place (r : Ref) := s.scratchAt r ((s.thr r).scratchSa a o w) (sizeW w)
    let direct := (rs.filter fun r => !s.buffers r).foldl (fun x r =>
      match place r with
      | some (h, off) => x.modHalf r.team h fun hf => hf.scratchWrite off ((s.thr r).storeBytes v w)
      | none => x) s1
    direct.bufferAll (rs.filter fun r => s.buffers r) fun r =>
      match place r with
      | some (h, off) => scratchEntries r (s.thr r) h off ((s.thr r).storeBytes v w)
      | none => [])

/-- The virtual address of a constant offset (R45). -/
def State.constVa (s : State) (r : Ref) (c : Int) : BitVec 64 := (s.block r.team).argptr + BitVec.ofInt 64 c

/-- The checks of LDC (R45, R291). -/
def State.ldcCheck (s : State) (a : BitVec 6) (o : BitVec 8) (w : BitVec 3) (r : Ref) : Verdict :=
  let t := s.thr r
  let c := t.constOff a o w
  if t.poisoned [u1 a] then .fail poisonFault
  else if c % (sizeW w : Int) ≠ 0 then .fail { cause := .misaligned, acc := 1, va := s.constVa r c }
  else if c < 0 ∨ 65536 < c + sizeW w then .fail (transFault rConstBounds 0 1 (s.constVa r c))
  else passes (s.loadParts r (s.constVa r c) (sizeW w)) fun _ => .run

/-- LDC (R45, R289 to R293). -/
def execLdc (g : BitVec 3) (d a : BitVec 6) (o : BitVec 8) (w : BitVec 3) (s : State) : Host.Outcome State Fault Refusal :=
  .next (s.perform (s.judge (.ldc g d a o w) (s.ldcCheck a o w)) fun s1 rs =>
    rs.foldl (fun x r =>
      let t := s.thr r
      let va := s.constVa r (t.constOff a o w)
      let f := x.flightOf r s.stamp .load va (sizeW w) [] (partsOr (s.loadParts r va (sizeW w))) 0 0
      x.loadGo r { f with dst := d, wcode := w, tag := t.loadTag w, const := true } (useW w d)) s1.tickStamp)

/-! ## Atomics and reductions (R295 to R297) -/

/-- A float operand with a tag that is not accepted, where no source carries POISON (R295). -/
def Thread.atomFormat (t : Thread) (us : List Use) (b : BitVec 6) (p : BitVec 4) : Bool :=
  atomFloat p && !t.poisoned us && !(t.tagAt b == tagF32 || t.tagAt b == tagBF16 || t.tagAt b == tagF16)

/-- Some byte of an access lies in host or peer memory (R296). -/
def farParts (parts : List (BitVec 64 × Nat × Leaf × Nat)) : Bool :=
  parts.any fun p => spaceOf p.2.2.2 == .host || spaceOf p.2.2.2 == .peer

/-- The checks of ATOM and RED at an address; `carried` says that host and peer memory take the operation (R291, R295 to
R297, R315). -/
def State.atomCheck (s : State) (i : Instr) (a b : BitVec 6) (n : Nat) (p : BitVec 4) (red carried : Bool) (r : Ref) :
    Verdict :=
  let t := s.thr r
  let us := (infoOf i).reads
  let va := t.pairVal a.toNat
  let room := if s.buffers r then s.bufferCheck r (s.groupLanes i r).length else .run
  if t.atomFormat us b p then .fail (plainFault .format)
  else if room = .fail (plainFault .region) then room
  else if t.poisoned [u2 a] then .fail poisonFault
  else if va.toNat % n ≠ 0 then .fail { cause := .misaligned, acc := 3, va := va }
  else passes (s.atomParts r va n red) fun l =>
    if farParts l && !carried then .fail (illegalFault rValue)
    else if t.poisoned us then .fail poisonFault else s.afterDrain r room

/-- The entry of one lane's buffered atomic (R296, R315). -/
def atomEntry (r : Ref) (t : Thread) (asid : BitVec 16) (scratch : Option Nat) (a : Nat) (l : Leaf) (va : BitVec 64)
    (op : AccOp) (n : Nat) : BufEntry :=
  { scratch := scratch, addr := a, plinth := if scratch.isNone then some (imageAddr l.plinth a) else none,
    kind := if scratch.isNone then l.ordKind else .rc, ord := t.ord, scope := t.scope, op := op,
    parts := [{ thr := r.thr, off := 0, bytes := List.replicate n 0 }], asid := asid, va := va, level := l.level,
    glob := l.glob, drain := none }

/-- What ATOM and RED do for the lanes that run. -/
def State.atomGo (s s1 : State) (rs : List Ref) (d a b : BitVec 6) (wide : Bool) (p : BitVec 4) (red : Bool) : State :=
  let n := if wide then 8 else 4
  let op (t : Thread) : AccOp :=
    .atom p wide (t.operand b wide) (t.tagAt b) (if p = 9 then t.operand d wide else 0) t.rm t.sat
  let parts (r : Ref) := partsOr (s.atomParts r ((s.thr r).pairVal a.toNat) n red)
  let direct := (rs.filter fun r => !s.buffers r).foldl (fun x r =>
    let t := s.thr r
    let f := x.flightOf r s.stamp (op t) (t.pairVal a.toNat) n [] (parts r) t.ord t.scope
    let y := (x.dropPieces f.core f.pieces).launchFlight
      { f with dst := d, wcode := if wide then 3 else 2, tag := atomTag p (t.tagAt b) }
    if d = 0 then y else y.await r (if wide then u2 d else u1 d)) s1.tickStamp
  direct.bufferAll (rs.filter fun r => s.buffers r) fun r =>
    match parts r with
    | (va, _, l, pa) :: _ => [atomEntry r (s.thr r) ((s.team r.team).xasid.setWidth 16) none pa l va (op (s.thr r)) n]
    | [] => []

/-- ATOM (R295, R296). -/
def execAtom (g : BitVec 3) (d a b : BitVec 6) (w : BitVec 1) (p : BitVec 4) (s : State) :
    Host.Outcome State Fault Refusal :=
  .next (s.perform (s.judge (.atom g d a b w p) (s.atomCheck (.atom g d a b w p) a b (if w = 1 then 8 else 4) p
    false (p == 0 || p == 8 || p == 9))) fun s1 rs => s.atomGo s1 rs d a b (w == 1) p false)

/-- RED (R297). -/
def execRed (g : BitVec 3) (w : BitVec 1) (p : BitVec 4) (a b : BitVec 6) (s : State) :
    Host.Outcome State Fault Refusal :=
  .next (s.perform (s.judge (.red g w p a b) (s.atomCheck (.red g w p a b) a b (if w = 1 then 8 else 4) p true
    (p == 0))) fun s1 rs => s.atomGo s1 rs 0 a b (w == 1) p true)

/-- The checks of ATOMS (R291, R295, R296, R315). -/
def State.atomsCheck (s : State) (i : Instr) (a b : BitVec 6) (n : Nat) (p : BitVec 4) (r : Ref) : Verdict :=
  let t := s.thr r
  let us := (infoOf i).reads
  let room := if s.buffers r then s.bufferCheck r (s.groupLanes i r).length else .run
  if t.atomFormat us b p then .fail (plainFault .format)
  else if room = .fail (plainFault .region) then room
  else if t.poisoned [u1 a] then .fail poisonFault
  else
    match s.scratchCheck r (t.val32 a.toNat) n 3 with
    | .fail f => .fail f
    | v1 => if t.poisoned us then .fail poisonFault else s.afterDrain r (if s.buffers r then room else v1)

/-- One atomic performed at its bank: the old value and whether it was bad, and the half after it (R134, R296). -/
def Half.atomAt (h : Half) (off n : Nat) (f : BitVec 64 → BitVec 64) : (BitVec 64 × Bool) × Half :=
  let bs := h.scratchRead off n
  let old := bytes64 bs
  if bs.any (·.2) then ((0, true), h) else ((old, false), h.scratchWrite off (leBytes n (f old).toNat))

/-- ATOMS: lanes that name one location are performed in ascending slot order (R58, R295, R296, R315). -/
def execAtoms (g : BitVec 3) (d a b : BitVec 6) (w : BitVec 1) (p : BitVec 4) (s : State) :
    Host.Outcome State Fault Refusal :=
  .next (
    let n := if w = 1 then 8 else 4
    let wide := w == 1
    s.perform (s.judge (.atoms g d a b w p) (s.atomsCheck (.atoms g d a b w p) a b n p)) fun s1 rs =>
      let direct := (rs.filter fun r => !s.buffers r).foldl (fun x r =>
        let t := s.thr r
        match s.scratchAt r (t.val32 a.toNat) n with
        | some (h, off) =>
          let cmp := if p = 9 then t.operand d wide else 0
          let o := (x.half r.team h).atomAt off n fun old =>
            atomValue p wide (t.tagAt b) t.rm t.sat x.drawn old (t.operand b wide) cmp
          let y := { x.modHalf r.team h fun _ => o.2 with drawn := x.drawn + 8 }
          let z := if o.1.2 then y.errorRecord (s.dieOf r) 0x02 1 (s.team r.team).ctxid off (BitVec.ofNat 64 (s.coreOf r)) else y
          (z.modThr r fun u => u.atomWrite d wide o.1.1 (atomTag p (t.tagAt b)) o.1.2).acquireIf r t.ord t.scope
        | none => x) s1
      direct.bufferAll (rs.filter fun r => s.buffers r) fun r =>
        let t := s.thr r
        match s.scratchAt r (t.val32 a.toNat) n with
        | some (h, off) =>
          [atomEntry r t 0 (some h) off (identityLeaf 0) 0
            (.atom p wide (t.operand b wide) (t.tagAt b) 0 t.rm t.sat) n]
        | none => [])

/-! ## PREF, fences and monitors (R294, R298 to R300) -/

/-- PREF of one lane: a line that may be read through an RC or UO leaf of HBM4E is brought in, as a read of it; a line
whose translation is not at hand is dropped (R294). -/
def State.prefetch (s : State) (r : Ref) (va : BitVec 64) (ccls : BitVec 2) : State :=
  match s.transPart r va 1 { rd := true } 1 with
  | .ok l pa =>
    if l.ordKind = .so ∨ spaceOf pa ≠ .hbm ∨ s.homeOf pa = none then s
    else
      s.launchFlight { s.agentFlight r.team (s.coreOf r) (.pref (ccls != 1)) .load [] (cutLines va l 2 (lineOf pa) 128 0) with
        ccls := ccls }
  | _ => s

/-- PREF (R294). -/
def execPref (g : BitVec 3) (a : BitVec 6) (s : State) : Host.Outcome State Fault Refusal :=
  .next (s.perform (s.judge (.pref g a) (s.srcCheck (.pref g a))) fun s1 rs =>
    rs.foldl (fun x r => x.prefetch r ((s.thr r).pairVal a.toNat) (s.thr r).ccls) s1)

/-- A fence waits for the earlier accesses that it orders before every later access (R127, R128). -/
def State.fenceCheck (s : State) (r : Ref) : Verdict :=
  let t := s.thr r
  let uo := decide (3 ≤ t.scope.toNat)
  if t.ord = 4 then (if s.allPerformed r uo then .run else .wait .performed)
  else if t.ord = 2 then .run
  else if s.readsPerformed r uo then .run else .wait .performed

/-- FENCE (R127 to R129, R298). -/
def execFence (g : BitVec 3) (s : State) : Host.Outcome State Fault Refusal :=
  .next (s.perform (s.judge (.fence g) s.fenceCheck) fun s1 rs =>
    rs.foldl (fun x r =>
      let t := s.thr r
      (if t.ord = 2 then x else x.acquireOver r t.scope (decide (3 ≤ t.scope.toNat))).noteFence r t.ord t.scope) s1)

/-- A core's instruction cache is emptied; fills of it under way are not used (R76, R140). -/
def State.dropInstr (s : State) (core : Nat) : State :=
  { s with
    icache := s.icache.filter fun l => l.core != core
    flights := s.flights.map fun f => if f.job = .fetch ∧ f.core = core ∧ f.returned = false then { f with job := .pref false } else f
    cores := s.cores.modify core fun c => { c with ifence := s.stamp }
    stamp := s.stamp + 1 }

/-- IFENCE (R140, R298). -/
def execIfence (g : BitVec 3) (s : State) : Host.Outcome State Fault Refusal :=
  .next (s.perform (s.judge (.ifence g) fun r => if s.allPerformed r true then .run else .wait .performed) fun s1 rs =>
    rs.foldl (fun x r => x.dropInstr (s.coreOf r)) s1)

/-- Some other thread of a team watches a line through an entry (R299). -/
def State.lineWatched (s : State) (r : Ref) (line : Nat) : Bool :=
  (s.allRefs r.team).any fun q => q != r && match (s.thr q).watch with
    | some w => w.entry && w.line == some line
    | none => false

/-- A thread's watch is released, and its entry when no other thread of its team shares it (R165, R299). -/
def State.releaseWatch (s : State) (r : Ref) : State :=
  match (s.thr r).watch with
  | none => s
  | some w =>
    let s1 := s.modThr r fun t => { t with watch := none }
    match w.line with
    | some line =>
      if w.entry && !s.lineWatched r line then
        { s1 with monitors := s1.monitors.filter fun m => !(m.line == line && m.team == r.team) }
      else s1
    | none => s1

/-- A watch on a line is armed: with a monitor entry of its home slice, or as already triggered (R139, R167, R299). -/
def State.armLine (s : State) (r : Ref) (va : BitVec 64) (l : Leaf) (pa : Nat) : State :=
  let s1 := s.releaseWatch r
  let line := lineOf (imageAddr l.plinth pa)
  let w : Watch :=
    { line := some line, pa := pa, va := va, level := l.level, glob := l.glob,
      asid := (s.team r.team).xasid.setWidth 16, ring := none, armed := 0, triggered := false, entry := true }
  let s2 := s1.l1Drop (s.coreOf r) line
  let put (x : State) (w : Watch) : State := x.modThr r fun t => { t with watch := some w }
  match spaceOf pa, s.homeOf pa with
  | .hbm, some k =>
    let d := dieOfPa pa
    let ten := (s.launchOf r.team).tenant
    if s2.monitors.any fun m => m.line == line && m.team == r.team then put s2 w
    else if (s2.monitors.filter fun m => m.die == d && m.slice == k && m.tenant == ten).length <
        (s.quotas.getD ten default).mon.toNat then
      put { s2 with monitors := s2.monitors ++ [{ die := d, slice := k, line := line, team := r.team, tenant := ten }] } w
    else put (s2.count (0x400 + 8 * ten)) { w with triggered := true, entry := false }
  | _, _ => put s2 { w with triggered := true, entry := false }

/-- The checks of MONA (R299). -/
def State.monaCheck (s : State) (a : BitVec 6) (r : Ref) : Verdict :=
  let t := s.thr r
  if t.poisoned [u2 a] then .fail poisonFault
  else passes (s.loadParts r (t.pairVal a.toNat) 1) fun l =>
    if l.all fun p => s.lineOpen p.2.2.2 (imageAddr p.2.2.1.plinth p.2.2.2) then .run else .wait .performed

/-- MONA (R139, R299). -/
def execMona (g : BitVec 3) (a : BitVec 6) (s : State) : Host.Outcome State Fault Refusal :=
  .next (s.perform (s.judge (.mona g a) (s.monaCheck a)) fun s1 rs =>
    rs.foldl (fun x r =>
      match partsOr (s.loadParts r ((s.thr r).pairVal a.toNat) 1) with
      | (va, _, l, pa) :: _ => x.armLine r va l pa
      | [] => x) s1)

/-- A watch is over: it is triggered, or its ring's tail has moved (R139, R161). -/
def State.watchOver (s : State) (w : Watch) : Bool :=
  w.triggered || match w.ring with
    | some (c, p) => match s.rings.find? fun x => x.core == c && x.phys == p with
      | some x => x.tail != w.armed
      | none => true
    | none => false

/-- MWAIT: on return the watch is released and its line leaves the core's L1 (R139, R300). -/
def execMwait (g : BitVec 3) (s : State) : Host.Outcome State Fault Refusal :=
  .next (s.perform (s.judge (.mwait g) fun r =>
      match (s.thr r).watch with
      | some w => if s.watchOver w then .run else .wait .watch
      | none => .run) fun s1 rs =>
    rs.foldl (fun x r =>
      match (s.thr r).watch with
      | some { line := some l, .. } => (x.releaseWatch r).l1Drop (s.coreOf r) l
      | _ => x.releaseWatch r) s1)

end Sys2Proof.Machine
end

