-- ==== Sys2Proof/Machine/Sync.lean ====
section
/-! DEFINITION. Exchange within a fragment, convergence registers, barriers, team queues and team flags (R175 to R177,
R188, R301 to R310). -/

namespace Sys2Proof.Machine

open Sys2Proof

/-- The earlier accesses of every active thread of a bundle are performed, as a release of the fragment asks (R124, R142). -/
def State.fragPerformed (s : State) (i : Instr) (uo : Bool) : Bool := (s.active i).all fun r => s.allPerformed r uo

/-- A fragment-collective word: judged for its lowest active thread, `act` changes the threads that run (R183). -/
def State.collective (s : State) (i : Instr) (own : Ref → Verdict) (act : State → List Ref → State) : State :=
  s.perform (s.judgeAll i own) act

/-! ## VOTE and SHFL (R301, R302) -/

/-- VOTE.ANY (R301). -/
def execVoteAny (g d a : BitVec 3) (s : State) : Host.Outcome State Fault Refusal :=
  .next (s.collective (.voteAny g d a) noCheck fun s1 rs =>
    let v := rs.any fun r => (s.thr r).pred a
    rs.foldl (fun x r => x.modThr r fun u => u.setPred d v) s1)

/-- VOTE.ALL (R301). -/
def execVoteAll (g d a : BitVec 3) (s : State) : Host.Outcome State Fault Refusal :=
  .next (s.collective (.voteAll g d a) noCheck fun s1 rs =>
    let v := rs.all fun r => (s.thr r).pred a
    rs.foldl (fun x r => x.modThr r fun u => u.setPred d v) s1)

/-- VOTE.BAL (R301). -/
def execVoteBal (g : BitVec 3) (d : BitVec 6) (a : BitVec 3) (s : State) : Host.Outcome State Fault Refusal :=
  .next (s.collective (.voteBal g d a) noCheck fun s1 rs =>
    let v := maskOf ((rs.filter fun r => (s.thr r).pred a).map s.idx)
    rs.foldl (fun x r => x.modThr r fun u => u.setPair d.toNat v tagI32) s1)

/-- The thread that an active thread receives from: the active one of index `j`, else itself (R302). -/
def State.shflFrom (s : State) (i : Instr) (r : Ref) (j : Int) : Ref :=
  if j < 0 ∨ (s.width r.team : Int) ≤ j then r
  else
    let q : Ref := ⟨r.team, (s.thr r).group * s.width r.team + j.toNat⟩
    if (s.active i).contains q then q else r

/-- SHFL in a mode that gives the source index from the thread's own and its b (R302). -/
def State.shuffle (s : State) (i : Instr) (d a b : BitVec 6) (mode : Int → Int → Int → Int) : State :=
  let src (r : Ref) : Ref :=
    s.shflFrom i r (mode (s.width r.team) (s.idx r) ((s.thr r).val32 b.toNat).toNat)
  s.perform (s.judge i fun r =>
    if (s.thr r).tagAt b = tagPOISON ∨ (s.thr (src r)).tagAt a = tagPOISON then .fail poisonFault else .run) fun s1 rs =>
    rs.foldl (fun x r => x.modThr r fun u => u.setReg d.toNat ((s.thr (src r)).reg a.toNat)) s1

/-- SHFL.IDX (R302). -/
def execShflIdx (g : BitVec 3) (d a b : BitVec 6) (s : State) : Host.Outcome State Fault Refusal :=
  .next (s.shuffle (.shflIdx g d a b) d a b fun w _ x => x % w)
/-- SHFL.UP (R302). -/
def execShflUp (g : BitVec 3) (d a b : BitVec 6) (s : State) : Host.Outcome State Fault Refusal :=
  .next (s.shuffle (.shflUp g d a b) d a b fun _ i x => i - x)
/-- SHFL.DOWN (R302). -/
def execShflDown (g : BitVec 3) (d a b : BitVec 6) (s : State) : Host.Outcome State Fault Refusal :=
  .next (s.shuffle (.shflDown g d a b) d a b fun _ i x => i + x)
/-- SHFL.XOR (R302). -/
def execShflXor (g : BitVec 3) (d a b : BitVec 6) (s : State) : Host.Outcome State Fault Refusal :=
  .next (s.shuffle (.shflXor g d a b) d a b fun _ i x => (i.toNat ^^^ (x.toNat % 64) : Nat))

/-! ## CVSET (R188, R303) -/

/-- A label: the address of the word plus four times the immediate (R303, R313). -/
def Thread.label (t : Thread) (i : BitVec 11) : BitVec 64 := t.wordPc + 4 * (t.imm32 i).signExtend 64

/-- CVSET (R188, R303). -/
def execCvset (g : BitVec 3) (d : BitVec 5) (i : BitVec 11) (s : State) : Host.Outcome State Fault Refusal :=
  .next (s.collective (.cvset g d i) (fun r =>
      match (s.halfOf r).cvs[d.toNat]? with
      | none => .fail (illegalFault rRange)
      | some c =>
        if c.valid then .fail (illegalFault rValue)
        else if !canonical ((s.thr r).label i) then .fail (transFault rNotCanonical 0 0 ((s.thr r).label i))
        else .run) fun s1 rs =>
    match rs with
    | [] => s1
    | r :: _ =>
      let t := s.thr r
      s1.modHalf r.team t.half fun h => { h with cvs := h.cvs.modify d.toNat fun _ =>
        { valid := true, group := BitVec.ofNat 7 t.group, target := (t.label i).extractLsb' 2 50,
          mask := maskOf (rs.map s.idx) } })

/-! ## Barriers (R304 to R307) -/

/-- A barrier that an instruction may name: the level's table has it (R304). -/
def State.barrierAt (s : State) (r : Ref) (level : BitVec 2) (n : Nat) : Option Barrier :=
  match level.toNat with
  | 0 => (s.team r.team).bars[n]?
  | 1 =>
    match (s.team r.team).cohort with
    | some c => ((s.launchOf r.team).cohorts[c]?).bind fun x => x.bars[n]?
    | none => none
  | _ => (s.launchOf r.team).gbars[n]?

/-- One barrier changed. -/
def State.modBarrier (s : State) (r : Ref) (level : BitVec 2) (n : Nat) (f : Barrier → Barrier) : State :=
  match level.toNat with
  | 0 => s.modTeam r.team fun t => { t with bars := t.bars.modify n f }
  | 1 =>
    match (s.team r.team).cohort with
    | some c => s.modLaunch (s.team r.team).launch fun l =>
      { l with cohorts := l.cohorts.modify c fun x => { x with bars := x.bars.modify n f } }
    | none => s
  | _ => s.modLaunch (s.team r.team).launch fun l => { l with gbars := l.gbars.modify n f }

/-- Names of the teams that share a barrier level with a team (R304). -/
def State.barrierTeams (s : State) (t : Nat) (level : BitVec 2) : List Nat :=
  let l := (s.team t).launch
  (List.range s.teams.length).filter fun k =>
    if level = 0 then k == t
    else (s.team k).launch == l && (level != 1 || (s.team k).cohort == (s.team t).cohort)

/-- Participants: the lane threads that have not exited (R304). -/
def State.participants (s : State) (t : Nat) (level : BitVec 2) : List Ref :=
  (s.barrierTeams t level).flatMap fun k => (s.laneRefs k).filter fun r => !(s.thr r).exited

/-- Two threads' barriers of a level are one (R304). -/
def State.sameBarrier (s : State) (t : Nat) (level : BitVec 2) (q : Ref) : Bool :=
  (s.barrierTeams t level).contains q.team

/-- The identity of a reduction of R306: OR, AND, MAX. -/
def redIdentity (op : BitVec 2) : BitVec 32 := if op = 1 then 0xFFFFFFFF else 0
/-- The combination of R306. -/
def redCombine (op : BitVec 2) (a b : BitVec 32) : BitVec 32 :=
  match op.toNat with
  | 0 => a ||| b
  | 1 => a &&& b
  | _ => if a.ult b then b else a

/-- A thread that waits for phase `ph` of a barrier in a BARRED receives the result (R305). -/
def Thread.takeResult (t : Thread) (level : BitVec 2) (n : Nat) (ph : BitVec 32) (b : Barrier) : Thread :=
  match t.wait with
  | some (.bar lv k target (some d) op) =>
    if lv = level ∧ k = n ∧ target = ph then
      t.set32 d.toNat (if b.op.isNone then redIdentity op else b.pay) tagI32
    else t
  | _ => t

/-- `complete` of R305: the waiting BARRED threads receive the result, the phase number rises, and a team barrier's
phase restarts the retired counters of the team's groups (R211). -/
def State.phaseDone (s : State) (r : Ref) (level : BitVec 2) (n : Nat) (b : Barrier) : State :=
  let give (k : Nat) (t : Team) : Team :=
    if (s.barrierTeams r.team level).contains k then
      { t with threads := t.threads.map fun u => u.takeResult level n b.ph b
               groups := if level = 0 then t.groups.map fun g => { g with retired := 0 } else t.groups }
    else t
  ({ s with teams := s.teams.zipIdx.map fun (p : Team × Nat) => give p.2 p.1 }).modBarrier r level n fun b =>
    { b with ph := b.ph + 1, arr := [], op := none }

/-- The phase completes once every participant has arrived (R305). -/
def State.judgePhase (s : State) (r : Ref) (level : BitVec 2) (n : Nat) : State :=
  match s.barrierAt r level n with
  | some b => if (s.participants r.team level).all fun q => b.arr.contains q then s.phaseDone r level n b else s
  | none => s

/-- `arrive` of R305 for one thread. -/
def Barrier.arrive (b : Barrier) (r : Ref) (pay : Option (BitVec 2 × BitVec 32)) : Barrier :=
  { b with
    arr := b.arr ++ [r]
    last := (r, b.ph) :: b.last.filter fun (p : Ref × BitVec 32) => p.1 != r
    op := match pay with | some (op, _) => some (b.op.getD op) | none => b.op
    pay := match pay with
      | some (op, v) => if b.op.isNone then v else redCombine op b.pay v
      | none => b.pay }

/-- The scope of a barrier level: T, C or V (R141). -/
def barScope (level : BitVec 2) : BitVec 3 := if level = 0 then 1 else if level = 1 then 2 else 4

/-- What the thread does in a barrier instruction of its own. -/
inductive BarStep where
  /-- It has to arrive now. -/
  | arrive
  /-- It waits until the phase number differs from the value. -/
  | hold (ph : BitVec 32)
  /-- It has nothing left to wait for. -/
  | done
  deriving DecidableEq, Repr, Inhabited

/-- Where a thread stands in an instruction that arrives (R305): by its wait, if it has issued it before. -/
def State.arriveStep (s : State) (level : BitVec 2) (n : Nat) (b : Barrier) (r : Ref) : BarStep :=
  match (s.thr r).wait with
  | some (.bar lv k target _ _) =>
    if lv = level ∧ k = n then (if b.ph = target then .hold target else .done)
    else if b.arr.contains r then .hold b.ph else .arrive
  | _ => if b.arr.contains r then .hold b.ph else .arrive

/-- Where a thread stands in an instruction that only waits (R305): BARW, and BAR and BARRED of a control thread. -/
def State.waitStep (s : State) (level : BitVec 2) (n : Nat) (b : Barrier) (r : Ref) : BarStep :=
  let held (target : BitVec 32) : BarStep := if b.ph = target then .hold target else .done
  let fresh : BarStep :=
    match b.last.find? fun p => p.1 == r with
    | some p => if p.2 = b.ph then .hold b.ph else .done
    | none => .hold b.ph
  match (s.thr r).wait with
  | some (.barPhase lv k target) => if lv = level ∧ k = n then held target else fresh
  | some (.bar lv k target _ _) => if lv = level ∧ k = n then held target else fresh
  | _ => fresh

/-- The checks of a barrier instruction for one lane: the index, a poisoned payload, another operation in the phase, and
the release that comes before an arrival (R141, R304 to R306). -/
def State.barCheck (s : State) (i : Instr) (level : BitVec 2) (n : Nat) (op : Option (BitVec 2)) (arrives : Bool) (r : Ref) :
    Verdict :=
  match s.barrierAt r level n with
  | none => .fail (illegalFault rRange)
  | some b =>
    if (s.thr r).poisoned (infoOf i).reads then .fail poisonFault
    else if !arrives || (s.thr r).ctl then .run
    else match s.arriveStep level n b r with
      | .arrive =>
        if (match op, b.op with | some o, some p => o != p | _, _ => false) then .fail (illegalFault rMismatch)
        else if s.allPerformed r (level == 2) then .run else .wait .performed
      | _ => .run

/-- The verdicts of a fragment that goes on together: while a lane of it waits, none goes (R183). -/
def State.together (s : State) (v : Ref → Verdict) (r : Ref) : Verdict :=
  match v r with
  | .fail f => .fail f
  | x => ((s.cur.findSome? fun q => (v q).wait?).map .wait).getD x

/-- Where a thread stands in a barrier instruction. -/
def State.barStep (s : State) (level : BitVec 2) (n : Nat) (arrives waits : Bool) (r : Ref) : BarStep :=
  match s.barrierAt r level n with
  | none => .done
  | some b =>
    if arrives && !(s.thr r).ctl then s.arriveStep level n b r else if waits then s.waitStep level n b r else .done

/-- One thread's part in a barrier instruction: it arrives, or notes what it waits for (R305). -/
def State.barEnter (s : State) (level : BitVec 2) (n : Nat) (arrives waits : Bool)
    (red : Option (BitVec 2 × BitVec 6 × BitVec 6)) (r : Ref) : State :=
  match s.barrierAt r level n with
  | none => s
  | some b =>
    let dst : Option (BitVec 6) := red.map (·.2.1)
    let op : BitVec 2 := (red.map (·.1)).getD 0
    let t := s.thr r
    match s.barStep level n arrives waits r with
    | .arrive =>
      let y := s.modBarrier r level n fun b => b.arrive r (red.map fun p => (p.1, t.val32 p.2.2.toNat))
      y.modThr r fun t => t.stall (.bar level n b.ph (if waits then dst else none) op) s.gtime
    | .hold ph =>
      match t.wait with
      | some (.bar ..) => s
      | _ => s.modThr r fun u => u.stall (if t.ctl && red.isSome then .bar level n ph dst op else .barPhase level n ph) s.gtime
    | .done => s

/-- A barrier instruction. Its active threads arrive, each for itself, and take their waits; the fragment retires once
none of them waits (R305, R307). A thread that has arrived with BARA waits only while another thread of the fragment has not.
The completion of a grid phase acts as FENCE.ACQ.V: earlier reads are performed before it lets a thread on (R127, R141). -/
def State.barrierWord (s : State) (i : Instr) (level : BitVec 2) (n : Nat) (arrives waits : Bool)
    (red : Option (BitVec 2 × BitVec 6 × BitVec 6)) : State :=
  let v := s.together (s.judge i (s.barCheck i level n (red.map (·.1)) arrives))
  if !(s.cur.all fun r => v r == .run || v r == .off) then s.perform v fun x _ => x
  else
    let rs := s.cur.filter fun r => v r == .run
    let s1 := rs.foldl (fun x r => x.barEnter level n arrives waits red r) s
    let held := rs.filter fun r =>
      if waits then s1.barStep level n arrives waits r != .done || (level == 2 && !s1.readsPerformed r true)
      else match (s1.thr r).wait with | some (.barPhase ..) => true | _ => false
    match held with
    | [] =>
      s1.perform (fun r => if rs.contains r then .run else .off) fun x rs =>
        if waits then rs.foldl (fun x r => x.acquireOver r (barScope level) (level == 2)) x else x
    | _ => s1.cur.foldl (fun x r =>
        if (x.thr r).wait.isSome then x
        else x.modThr r fun t => t.stall (.barPhase level n ((s1.barrierAt r level n).getD default).ph) s.gtime) s1

/-- BAR: arrives and waits; in the control stream it waits as BARW (R304, R305). -/
def execBar (g : BitVec 3) (n : BitVec 6) (l : BitVec 2) (s : State) : Host.Outcome State Fault Refusal :=
  .next (s.barrierWord (.bar g n l) l n.toNat true true none)
/-- BARA: arrives; in the control stream it has no effect (R304, R305). -/
def execBara (g : BitVec 3) (n : BitVec 6) (l : BitVec 2) (s : State) : Host.Outcome State Fault Refusal :=
  .next (s.barrierWord (.bara g n l) l n.toNat true false none)
/-- BARW: waits (R305). -/
def execBarw (g : BitVec 3) (n : BitVec 6) (l : BitVec 2) (s : State) : Host.Outcome State Fault Refusal :=
  .next (s.barrierWord (.barw g n l) l n.toNat false true none)
/-- BARRED.OR (R305, R306). -/
def execBarredOr (g : BitVec 3) (d a n : BitVec 6) (l : BitVec 2) (s : State) : Host.Outcome State Fault Refusal :=
  .next (s.barrierWord (.barredOr g d a n l) l n.toNat true true (some (0, d, a)))
/-- BARRED.AND (R305, R306). -/
def execBarredAnd (g : BitVec 3) (d a n : BitVec 6) (l : BitVec 2) (s : State) : Host.Outcome State Fault Refusal :=
  .next (s.barrierWord (.barredAnd g d a n l) l n.toNat true true (some (1, d, a)))
/-- BARRED.MAX (R305, R306). -/
def execBarredMax (g : BitVec 3) (d a n : BitVec 6) (l : BitVec 2) (s : State) : Host.Outcome State Fault Refusal :=
  .next (s.barrierWord (.barredMax g d a n l) l n.toNat true true (some (2, d, a)))

/-- A thread that shares a barrier level with a team waits at barrier `n`. -/
def State.waitsAt (s : State) (t : Nat) (level : BitVec 2) (n : Nat) : Bool :=
  (s.barrierTeams t level).any fun k => (s.team k).threads.any fun u =>
    match u.wait with
    | some (.bar lv m _ _ _) => lv == level && m == n
    | some (.barPhase lv m _) => lv == level && m == n
    | _ => false

/-- At the end of a core cycle each barrier of a team is judged. One at which nobody has arrived has a phase to complete only
where no participant is left and a thread waits (R177, R305, R307). -/
def State.judgeAllPhases (s : State) (t : Nat) : State :=
  let r : Ref := ⟨t, 0⟩
  let run (level : BitVec 2) (n : Nat) (s : State) : State :=
    (List.range n).foldl (fun x k =>
      match x.barrierAt r level k with
      | some b => if b.arr.isEmpty && !((x.participants t level).isEmpty && x.waitsAt t level k) then x else x.judgePhase r level k
      | none => x) s
  run 2 8 (run 1 16 (run 0 64 s))

/-! ## Team queues (R175, R308) -/

/-- Every lane thread of a team has exited. -/
def State.lanesGone (s : State) (t : Nat) : Bool := (s.laneRefs t).all fun r => (s.thr r).exited
/-- The other end of a thread's queues is missing (R175, R177). -/
def State.noPartner (s : State) (r : Ref) : Bool :=
  if (s.thr r).ctl then s.lanesGone r.team else !s.hasCtl r.team || (s.thr (s.ctlRef r.team)).exited

/-- QPUT (R142, R175, R308). -/
def execQput (g : BitVec 3) (a : BitVec 6) (s : State) : Host.Outcome State Fault Refusal :=
  .next (s.collective (.qput g a) (fun r =>
      let t := s.thr r
      let q := if t.ctl then (s.team r.team).down else (s.team r.team).up
      if s.noPartner r then .fail (illegalFault rNoPartner)
      else if t.poisoned [u2 a] then .fail poisonFault
      else if 16 ≤ q.length then .wait .qput
      else if s.fragPerformed (.qput g a) false then .run else .wait .performed) fun s1 rs =>
    match rs with
    | [] => s1
    | r :: _ =>
      let t := s.thr r
      let e : Reg := { val := t.pairVal a.toNat, tag := t.tagAt a }
      s1.modTeam r.team fun m => if t.ctl then { m with down := m.down ++ [e] } else { m with up := m.up ++ [e] })

/-- The tag that a control thread gives an entry (R308). -/
def ctlTag (t : Tag) : Tag := if t = tagRAW ∨ t = tagI32 ∨ t = tagF32 ∨ t = tagPOISON then t else tagRAW

/-- QGET (R142, R175, R308). -/
def execQget (g : BitVec 3) (d : BitVec 6) (s : State) : Host.Outcome State Fault Refusal :=
  .next (
    let head (r : Ref) : Option Reg := if (s.thr r).ctl then (s.team r.team).up.head? else (s.team r.team).down.head?
    s.collective (.qget g d) (fun r =>
      match head r with
      | some _ => if !(s.thr r).ctl && !s.hasCtl r.team then .fail (illegalFault rNoPartner) else .run
      | none => if s.noPartner r then .fail (illegalFault rNoPartner) else .wait .qget) fun s1 rs =>
    match rs with
    | [] => s1
    | r :: _ =>
      match head r with
      | none => s1
      | some e =>
        let s2 := s1.modTeam r.team fun m =>
          if (s.thr r).ctl then { m with up := m.up.drop 1 } else { m with down := m.down.drop 1 }
        rs.foldl (fun x q => (x.modThr q fun u =>
          u.setPair d.toNat e.val (if u.ctl then ctlTag e.tag else e.tag)).acquireAt q 1) s2)

/-! ## Team flags (R176, R309, R310) -/

/-- A team's flags take a new value, and the threads that wait for flags note it (R176, R310). -/
def State.setFlags (s : State) (t : Nat) (w : BitVec 32) : State :=
  s.modTeam t fun m => { m with tflags := w, threads := m.threads.map fun u => u.seeFlags w }

/-- FLAG.SET: a release at T (R142, R309). -/
def execFlagSet (g : BitVec 3) (a : BitVec 6) (s : State) : Host.Outcome State Fault Refusal :=
  .next (s.collective (.flagSet g a) (fun r =>
      if (s.thr r).poisoned [u1 a] then .fail poisonFault
      else if s.fragPerformed (.flagSet g a) false then .run else .wait .performed) fun s1 rs =>
    match rs with
    | [] => s1
    | r :: _ => s1.setFlags r.team ((s.team r.team).tflags ||| (s.thr r).val32 a.toNat))

/-- FLAG.CLR (R309). -/
def execFlagClr (g : BitVec 3) (a : BitVec 6) (s : State) : Host.Outcome State Fault Refusal :=
  .next (s.collective (.flagClr g a) (s.srcCheck (.flagClr g a)) fun s1 rs =>
    match rs with
    | [] => s1
    | r :: _ => s1.setFlags r.team ((s.team r.team).tflags &&& ~~~(s.thr r).val32 a.toNat))

/-- The value that ends an FWAIT of a thread now: the one it noted while it waited, or the flags as they are (R310). -/
def State.flagsNow (s : State) (all : Bool) (m : BitVec 32) (r : Ref) : Option (BitVec 32) :=
  match (s.thr r).wait with
  | some (.flags _ _ (some w) _) => some w
  | _ => let w := (s.team r.team).tflags; if flagsMet all m w then some w else none

/-- FWAIT: an acquire at T (R142, R310). -/
def State.flagWait (s : State) (i : Instr) (all : Bool) (d a : BitVec 6) : State :=
  s.collective i (fun r =>
      let m := (s.thr r).val32 a.toNat
      if (s.thr r).poisoned [u1 a] then .fail poisonFault
      else if m = 0 then .fail (illegalFault rValue)
      else match s.flagsNow all m r with
        | some _ => .run
        | none => .wait (.flags all m none false)) fun s1 rs =>
    match rs with
    | [] => s1
    | r :: _ =>
      match s.flagsNow all ((s.thr r).val32 a.toNat) r with
      | none => s1
      | some w => rs.foldl (fun x q => (x.modThr q fun u => u.set32 d.toNat w tagI32).acquireAt q 1) s1

/-- FWAIT.ANY (R310). -/
def execFwaitAny (g : BitVec 3) (d a : BitVec 6) (s : State) : Host.Outcome State Fault Refusal :=
  .next (s.flagWait (.fwaitAny g d a) false d a)
/-- FWAIT.ALL (R310). -/
def execFwaitAll (g : BitVec 3) (d a : BitVec 6) (s : State) : Host.Outcome State Fault Refusal :=
  .next (s.flagWait (.fwaitAll g d a) true d a)

end Sys2Proof.Machine
end

