-- ==== Sys2Proof/Machine/Slots.lean ====
section
/-! DEFINITION. The tile table: a slot's transitions and the slot instructions (R62 to R69, R326, R327). -/

namespace Sys2Proof.Machine

open Sys2Proof

/-! ## The transitions of R65 -/

/-- A slot's first byte and length in the window (R63). -/
def Slot.off (x : Slot) : Nat := x.base.toNat * 256
/-- A slot's length in bytes (R63). -/
def Slot.len (x : Slot) : Nat := x.size.toNat * 256

/-- The slot becomes READY: PHASE flips, and no group has observed the new phase (R65, R369). -/
def Slot.becomeReady (x : Slot) : Slot := { x with phase := !x.phase, state := .ready, observers := [] }
/-- A draining slot with nothing in flight is EMPTY (R65). -/
def Slot.tidy (x : Slot) : Slot :=
  if x.state = .draining ∧ x.reads = 0 ∧ x.prods = 0 then { x with state := .empty } else x

/-- A slot is armed (R65, R326). -/
def Slot.arm (x : Slot) (base size : BitVec 13) (fmt : Tag) (expect group : Nat) : Slot :=
  { x with base := base, size := size, fmt := fmt, expect := expect, arrived := 0, err := false, state := .filling,
           armedBy := group }
/-- A producer of a group issues (R65). -/
def Slot.produce (x : Slot) (group : Nat) : Slot := { x with prods := x.prods + 1, fillers := x.fillers ++ [group] }
/-- `n` bytes arrive (R65). -/
def Slot.arrive (x : Slot) (n : Nat) : Slot :=
  if x.state = .filling then
    if x.arrived + n < x.expect then { x with arrived := x.arrived + n }
    else { x with arrived := x.expect, err := x.err || decide (x.expect < x.arrived + n) }.becomeReady
  else { x with err := true }
/-- A producer of a group ends, cleanly or not (R65). -/
def Slot.endProduce (x : Slot) (group : Nat) (clean : Bool) : Slot :=
  let y := { x with prods := x.prods - 1, fillers := x.fillers.erase group }
  if x.state = .filling ∧ clean = false then { y with err := true }.becomeReady else y.tidy
/-- A consumer of a group issues (R65, R369). -/
def Slot.consume (x : Slot) (group : Nat) : Slot :=
  { x with reads := x.reads + 1, observers := if x.observers.contains group then x.observers else group :: x.observers }
/-- A consumer's read completes (R65). -/
def Slot.readDone (x : Slot) : Slot := { x with reads := x.reads - 1 }.tidy
/-- SLOTR (R65). -/
def Slot.release (x : Slot) : Slot :=
  { x with state := if x.reads = 0 ∧ x.prods = 0 then .empty else .draining }

/-- PHASE and STATE, whose change wakes what stalled on the slot (R369). -/
def Slot.now (x : Slot) : Bool × SlotState := (x.phase, x.state)

/-- A thread that waits in SLOTW notes that the phase has been the one it waits for (R66, R68). -/
def Thread.seePhase (t : Thread) (half n : Nat) (phase : Bool) : Thread :=
  match t.wait with
  | some (.slotPhase k p false was) =>
    if t.half = half ∧ k = n ∧ p = phase then { t with wait := some (.slotPhase k p true was) } else t
  | _ => t

/-- One slot changed; the threads that wait for its phase note a change of it (R66). -/
def State.modSlot (s : State) (t h n : Nat) (f : Slot → Slot) : State :=
  let old := (s.half t h).slots.getD n default
  let new := f old
  let s1 := s.modHalf t h fun x => { x with slots := x.slots.modify n f }
  if new.phase = old.phase then s1
  else s1.modTeam t fun x => { x with threads := x.threads.map fun u => u.seePhase h n new.phase }

/-- A slot that a thread names, of its own core's table (R62, R324). -/
def State.slotAt (s : State) (r : Ref) (n : BitVec 6) : Option Slot := (s.halfOf r).slots[n.toNat]?

/-- PHASE and STATE of a slot that a thread names. -/
def State.slotNow (s : State) (r : Ref) (n : Nat) : Bool × SlotState := ((s.halfOf r).slots.getD n default).now

/-- The first of the slots that is not READY or has no place for its reads among 255 (R64, R65). -/
def State.notReady (s : State) (r : Ref) (slots : List Nat) : Option Nat :=
  let h := s.halfOf r
  slots.find? fun n =>
    let x := h.slots.getD n default
    x.state != .ready || decide (255 < x.reads + (slots.filter (· == n)).length)

/-- A group notes that it has observed a slot's READY phase (R369). -/
def Slot.observe (x : Slot) (group : Nat) : Slot :=
  if x.state = .ready ∧ !x.observers.contains group then { x with observers := group :: x.observers } else x

/-! ## The record (R63) -/

/-- The code of a slot's state. -/
def SlotState.code : SlotState → BitVec 2
  | .empty => 0 | .filling => 1 | .ready => 2 | .draining => 3

/-- Word 0 of the record. -/
def Slot.word0 (x : Slot) : BitVec 64 :=
  0#16 ++ BitVec.ofNat 8 x.reads ++ BitVec.ofBool x.err ++ BitVec.ofBool x.phase ++ x.state.code ++ x.fmt ++ 0#3 ++
    x.size ++ 0#3 ++ x.base
/-- Word 1 of the record. -/
def Slot.word1 (x : Slot) : BitVec 64 :=
  0#11 ++ BitVec.ofNat 21 x.arrived ++ 0#2 ++ BitVec.ofNat 9 x.prods ++ BitVec.ofNat 21 x.expect

/-! ## The instructions (R326, R327) -/

/-- Fields of an arming word (R326). -/
def armBase (w : BitVec 64) : BitVec 13 := w.extractLsb' 0 13
/-- SIZE of an arming word. -/
def armSize (w : BitVec 64) : BitVec 13 := w.extractLsb' 16 13
/-- EXPECT of an arming word. -/
def armExpect (w : BitVec 64) : Nat := slice w 36 21
/-- A value that R326 refuses before the stall. -/
def badArm (w : BitVec 64) : Bool :=
  w.extractLsb' 13 3 != 0 || w.extractLsb' 29 3 != 0 || w.extractLsb' 57 7 != 0 || armSize w == 0 ||
    decide (0xE ≤ slice w 32 4)

/-- The checks of SLOTX (R64, R319, R326). -/
def State.slotxCheck (s : State) (x y : BitVec 6) (r : Ref) : Verdict :=
  let t := s.thr r
  let w := t.pairVal y.toNat
  match s.slotAt r x with
  | none => .fail (illegalFault rRange)
  | some sl =>
    if t.poisoned [u2 y] then .fail poisonFault
    else if badArm w then .fail (illegalFault rValue)
    else if sl.state != .empty then .wait (.slotEmpty x.toNat)
    else if !s.inWindow r.team ((armBase w).toNat * 256) ((armSize w).toNat * 256) then
      .fail { cause := .scratchBounds }
    else if armExpect w = 0 ∨ (armSize w).toNat * 256 < armExpect w then .fail (illegalFault rValue)
    else .run

/-- SLOTX (R64, R65, R326). -/
def execSlotx (g : BitVec 3) (x y : BitVec 6) (s : State) : Host.Outcome State Fault Refusal :=
  .next (s.collective (.slotx g x y) (s.slotxCheck x y) fun s1 rs =>
    match rs with
    | [] => s1
    | r :: _ =>
      let t := s.thr r
      let w := t.pairVal y.toNat
      s1.modSlot r.team t.half x.toNat fun sl =>
        sl.arm (armBase w) (armSize w) (w.extractLsb' 32 4) (armExpect w) t.group)

/-- SLOTW (R66, R68, R327). DESIGN CHOICE (log 29): the acquire at T of R66 is on the slot's range alone, so it leaves the L1. -/
def execSlotw (g : BitVec 3) (x : BitVec 6) (p : BitVec 1) (s : State) : Host.Outcome State Fault Refusal :=
  .next (s.collective (.slotw g x p) (fun r =>
      match s.slotAt r x with
      | none => .fail (illegalFault rRange)
      | some sl =>
        match (s.thr r).wait with
        | some (.slotPhase _ _ true _) => .run
        | _ => if sl.phase = (p == 1) then .run else .wait (.slotPhase x.toNat (p == 1) false sl.now)) fun s1 rs =>
    match rs with
    | [] => s1
    | r :: _ => s1.modSlot r.team (s.thr r).half x.toNat fun sl => sl.observe (s.thr r).group)

/-- SLOTR: a consumer that releases the slot (R64, R65, R327). -/
def execSlotr (g : BitVec 3) (x : BitVec 6) (s : State) : Host.Outcome State Fault Refusal :=
  .next (s.collective (.slotr g x) (fun r =>
      match s.slotAt r x with
      | none => .fail (illegalFault rRange)
      | some sl => if sl.state = .ready then .run else .wait (.slotReady x.toNat sl.now)) fun s1 rs =>
    match rs with
    | [] => s1
    | r :: _ => s1.modSlot r.team (s.thr r).half x.toNat Slot.release)

/-- SLOTQ: word 0 to the first pair of the block, word 1 to the second (R327). -/
def execSlotq (g : BitVec 3) (x y : BitVec 6) (s : State) : Host.Outcome State Fault Refusal :=
  .next (s.collective (.slotq g x y) (fun r => if (s.slotAt r x).isNone then .fail (illegalFault rRange) else .run)
    fun s1 rs =>
    match rs with
    | [] => s1
    | r :: _ =>
      let sl := (s.slotAt r x).getD default
      let s2 := rs.foldl (fun z q => z.modThr q fun u =>
        (u.setPair y.toNat sl.word0 tagI32).setPair (y.toNat + if u.ctl then 1 else 2) sl.word1 tagI32) s1
      s2.modSlot r.team (s.thr r).half x.toNat fun sl => sl.observe (s.thr r).group)

end Sys2Proof.Machine
end

