-- ==== Sys2Proof/Machine/Copy.lean ====
section
/-! DEFINITION. Issuing copy commands, batches and counter waits (R146 to R153, R158, R159, R318, R319, R322 to R325). -/

namespace Sys2Proof.Machine

open Sys2Proof

/-! ## Descriptors (R322) -/

/-- Word `k` of a descriptor. -/
def descWord (d : List (BitVec 32)) (k : Nat) : BitVec 32 := d.getD k 0
/-- SRC. -/
def descSrc (d : List (BitVec 32)) : BitVec 64 := descWord d 1 ++ descWord d 0
/-- DST. -/
def descDst (d : List (BitVec 32)) : BitVec 64 := descWord d 3 ++ descWord d 2
/-- LENM1 + 1: bytes of a run or row, columns of CPT. -/
def descLen (d : List (BitVec 32)) : Nat := ((descWord d 4).extractLsb' 0 16).toNat + 1
/-- INC. -/
def descInc (d : List (BitVec 32)) : Nat := ((descWord d 4).extractLsb' 16 16).toNat
/-- ROWSM1 + 1. -/
def descRows (d : List (BitVec 32)) : Nat := ((descWord d 5).extractLsb' 0 10).toNat + 1
/-- SFMT. -/
def descSfmt (d : List (BitVec 32)) : Nat := ((descWord d 5).extractLsb' 16 4).toNat
/-- DFMT. -/
def descDfmt (d : List (BitVec 32)) : Nat := ((descWord d 5).extractLsb' 20 4).toNat
/-- SSCR. -/
def descSscr (d : List (BitVec 32)) : Bool := (descWord d 5).getLsbD 24
/-- DSCR. -/
def descDscr (d : List (BitVec 32)) : Bool := (descWord d 5).getLsbD 25
/-- SSTRIDE. -/
def descSstride (d : List (BitVec 32)) : Nat := ((descWord d 6).extractLsb' 0 25).toNat
/-- DSTRIDE. -/
def descDstride (d : List (BitVec 32)) : Nat := ((descWord d 7).extractLsb' 0 25).toNat

/-- Element size of a format code in half bytes (R153). -/
def halfBytes (c : Nat) : Nat :=
  match c with
  | 1 | 6 => 8
  | 2 | 3 => 4
  | 8 | 0xB => 1
  | _ => 2
/-- The slot FMT of a format code; RAW agrees with any (R153). -/
def codeTag (c : Nat) : Option Tag :=
  match c with
  | 1 => some tagF32 | 2 => some tagBF16 | 3 => some tagF16 | 4 => some tagE4M3 | 5 => some tagE5M2 | 6 => some tagI32
  | 7 => some tagI8 | 8 => some tagI4 | 9 => some tagE4M3 | 0xA => some tagE5M2 | 0xB => some tagE2M1
  | _ => none

/-- The conversion pairs that R153 permits. -/
def pairOk (cpt : Bool) (sf df : Nat) : Bool :=
  (decide (sf < 9) && sf == df) || (decide (0 < sf) && decide (sf < 9) && decide (0 < df) && decide (df < 9)) ||
    (cpt && decide (9 ≤ sf) && decide (sf < 12) && sf == df)

/-- Block-scaled codes (R153). -/
def scaledCode (c : Nat) : Bool := decide (9 ≤ c) && decide (c < 12)

/-- Destination bytes of one destination row: of a run or row, or of one column of CPT (R323). -/
def destRow (cpt : Bool) (d : List (BitVec 32)) : Nat :=
  if cpt then descRows d * halfBytes (descDfmt d) / 2
  else descLen d * 2 / halfBytes (descSfmt d) * halfBytes (descDfmt d) / 2
/-- Destination rows (R323). -/
def destRows (cpt : Bool) (d : List (BitVec 32)) : Nat := if cpt then descLen d else descRows d
/-- Elements of one destination row. -/
def destElems (cpt : Bool) (d : List (BitVec 32)) : Nat :=
  if cpt then descRows d else descLen d * 2 / halfBytes (descSfmt d)
/-- Scale bytes of a block-scaled CPT (R323). -/
def scaleBytes (d : List (BitVec 32)) : Nat := if scaledCode (descSfmt d) then descRows d / 32 * (descLen d / 32) else 0
/-- Bytes of source row 0 of a scratch source (R323). -/
def sourceSpan (d : List (BitVec 32)) : Nat := (descRows d - 1) * descSstride d + descLen d
/-- Bytes from DST to the end of what the command writes (R323). -/
def destSpan (cpt : Bool) (d : List (BitVec 32)) : Nat :=
  let rows := destRows cpt d
  if cpt ∧ scaleBytes d ≠ 0 then max ((rows - 1) * descDstride d + destRow cpt d) (rows * descDstride d + scaleBytes d)
  else (rows - 1) * descDstride d + destRow cpt d
/-- Bytes that the command writes, for a slot's count (R148). -/
def destBytes (cpt : Bool) (d : List (BitVec 32)) : Nat := destRows cpt d * destRow cpt d + scaleBytes d

/-- The least and greatest codes of the shape of a kind: LENM1 and ROWSM1 (R322). -/
def shapeLimits : CmdKind → Nat × Nat
  | .cps => (65536, 1)
  | .cpt => (1024, 1024)
  | _ => (4096, 256)

/-- A descriptor value that traps ILLEGAL (R147, R153, R322). `ctr` says that a counter is named and `x` is the slot
field. -/
def badDesc (k : CmdKind) (d : List (BitVec 32)) (ctr : Bool) (x : BitVec 6) : Bool :=
  let cpt := k == .cpt
  let es := halfBytes (descSfmt d)
  let ed := halfBytes (descDfmt d)
  (descWord d 5).extractLsb' 10 6 != 0 || (descWord d 5).extractLsb' 26 6 != 0 ||
    (descWord d 6).extractLsb' 25 7 != 0 || (descWord d 7).extractLsb' 25 7 != 0 ||
    decide ((shapeLimits k).1 < descLen d) || decide ((shapeLimits k).2 < descRows d) ||
    decide (2 ^ 24 < descSstride d) || decide (2 ^ 24 < descDstride d) ||
    (k == .cps && (descSstride d != 0 || descDstride d != 0)) || ((descInc d != 0) != ctr) ||
    ((k == .cpb || cpt) && (descSscr d || !descDscr d)) || (descSscr d && descDscr d) ||
    (x != 0 && !descSscr d && !descDscr d) || (descSscr d && descWord d 1 != 0) || (descDscr d && descWord d 3 != 0) ||
    !pairOk cpt (descSfmt d) (descDfmt d) || descSstride d * 2 % es != 0 || descDstride d * 2 % ed != 0 ||
    (if cpt then
      (es == 1 || ed == 1) && (descRows d % 2 != 0 || descLen d % 2 != 0) ||
        (scaledCode (descSfmt d) && (descRows d % 32 != 0 || descLen d % 32 != 0))
    else descLen d * 2 % es != 0 || (ed == 1 && descLen d * 2 / es % 2 != 0))

/-! ## Issue -/

/-- The descriptor that a thread's register block holds (R322). -/
def Thread.desc (t : Thread) (y : BitVec 6) : List (BitVec 32) := (List.range 8).map (t.blockWord y.toNat)

/-- A copy command of a kind of R147. -/
def CmdKind.isCopy : CmdKind → Bool
  | .cpb | .cps | .cpg | .cpt => true
  | _ => false

/-- Accepted commands that a core's copy engine holds, the slices of bulk commands among them (R146, R149). -/
def State.copyHeld (s : State) (core : Nat) : Nat :=
  (s.cmds.filter fun c => c.kind.isCopy && c.core == core && (c.stage == .slice || c.stage == .queued || c.stage == .started)).length

/-- MISALIGNED of an engine's read or write address, or none (R148, R360). -/
def alignFault (va : BitVec 64) (n : Nat) (acc : BitVec 3) : Option LaneFault :=
  if va.toNat % n ≠ 0 then some { cause := .misaligned, acc := acc, va := va } else none

/-- The first misaligned address of a command (R148). -/
def descAlign (d : List (BitVec 32)) (ctr : Option (BitVec 64)) : Option LaneFault :=
  ((if descSscr d then none else alignFault (descSrc d) (max 1 (halfBytes (descSfmt d) / 2)) 5).orElse fun _ =>
    if descDscr d then none else alignFault (descDst d) (max 1 (halfBytes (descDfmt d) / 2)) 6).orElse fun _ =>
    match ctr with
    | some c => alignFault c 8 6
    | none => none

/-- A range of `n` bytes at a window offset lies in the window and in a slot's range (R148, R324). -/
def State.slotRange (s : State) (t : Nat) (sl : Slot) (off : BitVec 64) (n : Nat) : Bool :=
  decide (off.toNat < 2 ^ 31) && s.inWindow t off.toNat n && decide (sl.off ≤ off.toNat) &&
    decide (off.toNat + n ≤ sl.off + sl.len)

/-- Steps 5 to 7 of R319 against the slot of a command (R148, R153). -/
def State.descSlot (s : State) (t : Nat) (k : CmdKind) (d : List (BitVec 32)) (sl : Slot) : Verdict :=
  let cpt := k == .cpt
  let fmt := codeTag (if descSscr d then descSfmt d else descDfmt d)
  if (match fmt with | some f => f != sl.fmt | none => false) then .fail (plainFault .format)
  else if !(if descSscr d then s.slotRange t sl (descSrc d) (sourceSpan d)
            else s.slotRange t sl (descDst d) (destSpan cpt d)) then .fail { cause := .scratchBounds }
  else if descSscr d && sl.err then .fail poisonFault
  else .run

/-- The counter of a command: the pair Z, or none for G0 (R322). -/
def Thread.ctrOf (t : Thread) (z : BitVec 6) : Option (BitVec 64) := if z = 0 then none else some (t.pairVal z.toNat)

/-- The registers that a copy command reads as operands; G0 as Z names no counter (R322). -/
def copyUses (y z : BitVec 6) : List Use := u8 y :: if z = 0 then [] else [u2 z]

/-- The checks of a copy command of one lane, the `n`-th of those issued together: lanes take the places of the queue and
of the slot's READS in ascending slot order (R9, R65, R146 to R148, R184, R319, R322). -/
def State.copyCheck (s : State) (k : CmdKind) (n : Nat) (x y z : BitVec 6) (r : Ref) : Verdict :=
  let t := s.thr r
  let d := t.desc y
  let bad := t.poisoned (copyUses y z)
  let usesSlot := k == .cpb || (!bad && (descSscr d || descDscr d))
  if usesSlot && (s.slotAt r x).isNone then .fail (illegalFault rRange)
  else if bad then .fail poisonFault
  else if badDesc k d (z != 0) x then .fail (illegalFault rValue)
  else match descAlign d (t.ctrOf z) with
    | some f => .fail f
    | none =>
      let sl := (s.slotAt r x).getD default
      if descSscr d && (sl.state != .ready || decide (255 < sl.reads + n)) then .wait (.slotReady x.toNat (s.slotNow r x.toNat))
      else if descDscr d && sl.state != .filling then .wait (.slotFilling x.toNat (s.slotNow r x.toNat))
      else if (descSscr d && (s.halfOf r).scratchAway (descSrc d).toNat (sourceSpan d)) ||
          (descDscr d && (s.halfOf r).scratchAway (descDst d).toNat (destSpan (k == .cpt) d)) then .wait .handover
      else if 256 < s.copyHeld (s.coreOf r) + n then .wait .copyQueue
      else if descSscr d || descDscr d then s.descSlot r.team k d sl
      else .run

/-- A command joins its thread's open batch (R151). -/
def Thread.joinBatch (t : Thread) : Thread :=
  if t.batches.any fun b => b.number == t.batchNo && !b.sealed then
    { t with batches := t.batches.map fun b => if b.number = t.batchNo ∧ b.sealed = false then { b with open_ := b.open_ + 1 } else b }
  else { t with batches := t.batches ++ [{ number := t.batchNo, sealed := false, open_ := 1, faults := [] }] }

/-- The threads of a thread's fragment, by place in the team. -/
def State.fragIdx (s : State) (r : Ref) : List Nat := (s.fragOf r).map (·.thr)

/-- The command that a thread issues (R146, R322). -/
def State.copyCmd (s : State) (k : CmdKind) (x y z : BitVec 6) (r : Ref) : Cmd :=
  let t := s.thr r
  let m := s.team r.team
  { (default : Cmd) with
    kind := k, stage := if k = .cpb then .slice else .queued, own := r,
    joins := if k = .cpb then [] else [(r.thr, t.batchNo)], half := t.half, core := s.coreOf r, addr := t.pc,
    slot := x.toNat, desc := t.desc y, ctr := (t.ctrOf z).getD 0, hasCtr := z != 0,
    inc := BitVec.ofNat 64 (descInc (t.desc y)), rm := t.rm, sat := t.sat, ccls := t.ccls,
    bulk := (s.group r.team t.group).bulk, asid := m.xasid.setWidth 16, root := m.xroot, cm := t.cm,
    from_ := s.fragIdx r }

/-- A thread's command is accepted: its slot counts it and its batch takes it (R65, R146, R151). -/
def State.copyAccept (s0 s : State) (k : CmdKind) (x y z : BitVec 6) (r : Ref) : State :=
  let t := s0.thr r
  let d := t.desc y
  let s1 := { s with cmds := s.cmds ++ [s0.copyCmd k x y z r] }
  let s2 := if descSscr d then s1.modSlot r.team t.half x.toNat fun sl => sl.consume t.group
    else if descDscr d then s1.modSlot r.team t.half x.toNat fun sl => sl.produce t.group else s1
  if k = .cpb then s2.modGroup r.team t.group fun g => { g with bulk := g.bulk + 1 } else s2.modThr r Thread.joinBatch

/-- CPS, CPG or CPT: one command for each lane that runs; its issue is a release at T (R136, R146). -/
def State.copyLanes (s : State) (i : Instr) (k : CmdKind) (x y z : BitVec 6) : State :=
  s.perform (s.judge i fun r =>
    match s.copyCheck k ((s.active i).idxOf r + 1) x y z r with
    | .run => if s.allPerformed r false then .run else .wait .performed
    | v => v) fun s1 rs => rs.foldl (fun a r => s.copyAccept a k x y z r) s1

/-- CPB: a slice of the team's bulk command, from the whole group (R136, R149). -/
def execCpb (g : BitVec 3) (x y z : BitVec 6) (s : State) : Host.Outcome State Fault Refusal :=
  .next (
    let i : Instr := .cpb g x y z
    s.collective i (fun r =>
      if (s.slotAt r x).isNone then .fail (illegalFault rRange)
      else if !((s.liveRefs r.team (s.thr r).group).all fun q => (s.active i).contains q) then .fail (illegalFault rMismatch)
      else match s.copyCheck .cpb 1 x y z r with
        | .run => s.reportRoom r (if s.fragPerformed i false then .run else .wait .performed)
        | v => v) fun s1 rs =>
    match rs with
    | [] => s1
    | r :: _ => s.copyAccept s1 .cpb x y z r)

/-- CPS (R146, R147, R322). -/
def execCps (g : BitVec 3) (x y z : BitVec 6) (s : State) : Host.Outcome State Fault Refusal :=
  .next (s.copyLanes (.cps g x y z) .cps x y z)
/-- CPG (R146, R147, R322). -/
def execCpg (g : BitVec 3) (x y z : BitVec 6) (s : State) : Host.Outcome State Fault Refusal :=
  .next (s.copyLanes (.cpg g x y z) .cpg x y z)
/-- CPT (R146, R147, R322). -/
def execCpt (g : BitVec 3) (x y z : BitVec 6) (s : State) : Host.Outcome State Fault Refusal :=
  .next (s.copyLanes (.cpt g x y z) .cpt x y z)

/-! ## Batches (R151, R152, R155, R325) -/

/-- A sealed batch that is not complete (R151). -/
def Batch.incomplete (b : Batch) : Bool := b.sealed && decide (0 < b.open_)
/-- Batches that are complete and have nothing to report leave the list. -/
def tidyBatches (bs : List Batch) : List Batch := bs.filter fun b => !(b.sealed && b.open_ == 0 && b.faults.isEmpty)

/-- A command leaves the batches that it joined, with its fault if it had one (R151, R155). -/
def State.endJoins (s : State) (team : Nat) (joins : List (Nat × BitVec 32)) (fault : Option LaneFault) : State :=
  joins.foldl (fun x j => x.modThr ⟨team, j.1⟩ fun t =>
    { t with batches := tidyBatches (t.batches.map fun b =>
        if b.number = j.2 ∧ 0 < b.open_ then { b with open_ := b.open_ - 1, faults := b.faults ++ fault.toList } else b) }) s

/-- The thread seals its open batch (R151, R152). -/
def Thread.sealBatch (t : Thread) : Thread :=
  { t with
    batches := tidyBatches (t.batches.map fun b => if b.number = t.batchNo ∧ b.sealed = false then { b with sealed := true } else b)
    batchNo := t.batchNo + 1
    batchWrap := t.batchWrap || t.batchNo == 0xFFFFFFFF }

/-- The open batch holds a command that is not complete (R151). -/
def Thread.openBusy (t : Thread) : Bool := t.batches.any fun b => b.number == t.batchNo && !b.sealed && decide (0 < b.open_)

/-- The stall of CPSEAL: eight sealed batches are incomplete and the open one would be a ninth; it lasts until the oldest
of them is complete (R151). -/
def Thread.sealCheck (t : Thread) : Verdict :=
  let late := t.batches.filter Batch.incomplete
  match t.wait, late with
  | some (.seal n), _ => if t.openBusy && late.any (·.number == n) then .wait (.seal n) else .run
  | _, b :: _ => if t.openBusy && decide (8 ≤ late.length) then .wait (.seal b.number) else .run
  | _, [] => .run

/-- CPSEAL (R151, R325). -/
def execCpseal (g : BitVec 3) (d : BitVec 6) (s : State) : Host.Outcome State Fault Refusal :=
  .next (s.lanewise (.cpseal g d) (fun r => (s.thr r).sealCheck) fun t u =>
    (u.set32 d.toNat t.batchNo tagI32).sealBatch)

/-- How far back of the open batch a number lies (R152). -/
def Thread.batchBack (t : Thread) (b : BitVec 32) : Nat := (t.batchNo - b).toNat
/-- A batch is covered by a CPWAIT of batch `b` (R152). -/
def Thread.covers (t : Thread) (b : BitVec 32) (x : Batch) : Bool :=
  x.sealed && decide (t.batchBack b ≤ t.batchBack x.number)

/-- The checks and the wait of CPWAIT (R136, R152, R325). -/
def State.cpwaitCheck (s : State) (a : BitVec 6) (r : Ref) : Verdict :=
  let t := s.thr r
  let b := t.val32 a.toNat
  let d := t.batchBack b
  if t.poisoned [u1 a] then .fail poisonFault
  else if d = 0 ∨ (2 ^ 31 < d ∧ t.batchWrap = false) then .fail (illegalFault rValue)
  else s.reportRoom r (
    if 2 ^ 31 < d then .run
    else if t.batches.any fun x => t.covers b x && x.incomplete then .wait (.batch b)
    else if s.allPerformed r true then .run else .wait .performed)

/-- The oldest unreported fault that a CPWAIT of batch `b` covers, with its batch's number (R152, R155). -/
def Thread.waitFault (t : Thread) (b : BitVec 32) : Option (BitVec 32 × LaneFault) :=
  if 2 ^ 31 < t.batchBack b then none
  else (t.batches.filter fun x => t.covers b x && !x.faults.isEmpty).foldl (fun acc x =>
    match acc, x.faults with
    | none, f :: _ => some (x.number, f)
    | some p, f :: _ => if t.batchBack p.1 < t.batchBack x.number then some (x.number, f) else some p
    | _, [] => acc) none

/-- A fault has been reported (R155). -/
def Thread.dropFault (t : Thread) (b : BitVec 32) : Thread :=
  match t.waitFault b with
  | none => t
  | some (n, f) =>
    { t with batches := tidyBatches (t.batches.map fun x => if x.number = n ∧ x.sealed = true then { x with faults := x.faults.erase f } else x) }

/-- The faults of a fragment's lanes become one deferred report; a control thread takes its own at once (R155, R363,
R365, R366). -/
def State.reportWaits (s0 s : State) (marks : List (Ref × LaneFault)) (r : Ref) : State :=
  match marks with
  | [] => s
  | (_, f) :: _ =>
    let t := s0.thr r
    if t.ctl then s.trapFrag [r] [(0, f)] true t.pc
    else s.pushReport r.team t.group { Report.of f t.pc (s0.fragIdx r) with marks := marks.map fun p => (p.1.thr, p.2) }

/-- CPWAIT (R136, R152, R155, R325). -/
def execCpwait (g : BitVec 3) (a : BitVec 6) (s : State) : Host.Outcome State Fault Refusal :=
  .next (s.perform (s.judge (.cpwait g a) (s.cpwaitCheck a)) fun s1 rs =>
    let fault (r : Ref) : Option LaneFault := ((s.thr r).waitFault ((s.thr r).val32 a.toNat)).map (·.2)
    let s2 := rs.foldl (fun x r => x.modThr r fun u => u.dropFault ((s.thr r).val32 a.toNat)) s1
    (s.fragLeads rs).foldl (fun x r =>
      State.reportWaits s x ((rs.filter fun q => s.sameFrag q r).filterMap fun q => (fault q).map fun f => (q, f)) r) s2)

/-! ## Counter waits (R137, R159, R165, R167, R168, R325) -/

/-- The threads that hold an entry of a die's counter-wait table for a tenant (R165). -/
def State.counterWaits (s : State) (die tenant : Nat) : Nat :=
  ((List.range s.teams.length).map fun t =>
    if (s.launchOf t).tenant = tenant ∧ dieOfCore (s.half t 0).core = die then
      ((s.team t).threads.filter fun u => match u.wait with | some (.counter _ _ true _) => true | _ => false).length
    else 0).foldl (· + ·) 0

/-- The value of a counter at its home, or none if it reads as uncorrectable. -/
def State.counterAt (s : State) (addr : Nat) : Option (BitVec 64) :=
  let bs := s.imageRead addr 8
  if bs.any (·.2) then none else some (bytes64 bs)

/-- The place of the counter that a lane of CPCTR names, once its translation has passed. -/
def State.counterOf (s : State) (a : BitVec 6) (r : Ref) : Option Nat :=
  match partsOr (s.loadParts r ((s.thr r).pairVal a.toNat) 8) with
  | (_, _, lf, pa) :: _ => some (imageAddr lf.plinth pa)
  | [] => none

/-- A counter is below a lane's target (R159). -/
def State.counterShort (s : State) (a b : BitVec 6) (r : Ref) : Bool :=
  match (s.counterOf a r).bind s.counterAt with
  | some v => v.ult ((s.thr r).pairVal b.toNat)
  | none => false

/-- A lane waits in CPCTR. -/
def Thread.inCounter (t : Thread) : Bool := match t.wait with | some (.counter ..) => true | _ => false

/-- The read of a counter, an acquire, may be performed: nothing of its thread that comes before it is outstanding, and
nothing waits at the counter's home (R85, R120, R125, R130). -/
def State.counterMay (s : State) (a : BitVec 6) (r : Ref) : Bool :=
  let va := (s.thr r).pairVal a.toNat
  let f := s.flightOf r s.stamp .load va 8 [] (partsOr (s.loadParts r va 8)) 1 4
  !s.drainsOwn r && f.pieces.all fun p => s.mayPerform s.flights.length f p && s.lineOpen p.pa p.addr

/-- Whether a thread that has to wait for a counter has an entry, or takes a free one of its tenant's quota: those of one
bundle that begin to wait take them in ascending slot order (R159, R167). -/
def State.counterEntry (s : State) (i : Instr) (a b : BitVec 6) (r : Ref) : Bool :=
  match (s.thr r).wait with
  | some (.counter _ _ slept _) => slept
  | _ =>
    let ten := (s.launchOf r.team).tenant
    let before := ((s.active i).takeWhile (· != r)).filter fun q =>
      !(s.thr q).inCounter && s.counterMay a q && s.counterShort a b q
    decide (s.counterWaits (s.dieOf r) ten + before.length < (s.quotas.getD ten default).cwait.toNat)

/-- The checks and the wait of CPCTR; a throttled thread goes on only after it has polled (R159, R325). -/
def State.cpctrCheck (s : State) (i : Instr) (a b : BitVec 6) (r : Ref) : Verdict :=
  let t := s.thr r
  let va := t.pairVal a.toNat
  if t.poisoned [u2 a, u2 b] then .fail poisonFault
  else if va.toNat % 8 ≠ 0 then .fail { cause := .misaligned, acc := 1, va := va }
  else passes (s.loadParts r va 8) fun _ =>
    match t.wait with
    | some (.counter p q false h) => .wait (.counter p q false h)
    | _ =>
      if !t.inCounter && !s.counterMay a r then .wait .performed
      else if s.counterShort a b r then
        .wait (.counter ((s.counterOf a r).getD 0) (t.pairVal b.toNat) (s.counterEntry i a b r) false)
      else .run

/-- CPCTR at a scope: the value read, and an acquire (R125, R137, R159, R325). A thread that begins to wait without an entry
is counted as throttled (R168). -/
def State.counterWait (s : State) (i : Instr) (d a b : BitVec 6) (scope : BitVec 3) : State :=
  let s2 := s.perform (s.judge i (s.cpctrCheck i a b)) fun s1 rs =>
    rs.foldl (fun x r =>
      let v := (s.counterOf a r).bind s.counterAt
      (x.modThr r fun u => u.setPair d.toNat (v.getD 0) (if v.isSome then tagI32 else tagPOISON)).acquireAt r scope) s1
  (s.cur.filter fun r =>
    match (s2.thr r).wait with
    | some (.counter _ _ false _) => !(s.thr r).inCounter
    | _ => false).foldl (fun x r => x.count (0x400 + 8 * (s.launchOf r.team).tenant)) s2

/-- CPCTR.G (R159, R325). -/
def execCpctrG (g : BitVec 3) (d a b : BitVec 6) (s : State) : Host.Outcome State Fault Refusal :=
  .next (s.counterWait (.cpctrG g d a b) d a b 0)
/-- CPCTR.T (R159, R325). -/
def execCpctrT (g : BitVec 3) (d a b : BitVec 6) (s : State) : Host.Outcome State Fault Refusal :=
  .next (s.counterWait (.cpctrT g d a b) d a b 1)
/-- CPCTR.C (R159, R325). -/
def execCpctrC (g : BitVec 3) (d a b : BitVec 6) (s : State) : Host.Outcome State Fault Refusal :=
  .next (s.counterWait (.cpctrC g d a b) d a b 2)
/-- CPCTR.D (R159, R325). -/
def execCpctrD (g : BitVec 3) (d a b : BitVec 6) (s : State) : Host.Outcome State Fault Refusal :=
  .next (s.counterWait (.cpctrD g d a b) d a b 3)
/-- CPCTR.V (R159, R325). -/
def execCpctrV (g : BitVec 3) (d a b : BitVec 6) (s : State) : Host.Outcome State Fault Refusal :=
  .next (s.counterWait (.cpctrV g d a b) d a b 4)
/-- CPCTR.S (R159, R325). -/
def execCpctrS (g : BitVec 3) (d a b : BitVec 6) (s : State) : Host.Outcome State Fault Refusal :=
  .next (s.counterWait (.cpctrS g d a b) d a b 5)

end Sys2Proof.Machine
end

