-- ==== Sys2Proof/Machine/MatrixMath.lean ====
section
/-! DEFINITION. The arithmetic of the matrix engine: operands, block scales, asymmetric operands, the K-block sums, and
the drain (R111, R113 to R116, R330 to R333). -/

namespace Sys2Proof.Machine

open Sys2Proof

/-! ## Bytes and elements -/

/-- `n` bytes from an address upwards, in one pass over the memory. -/
def readSpan (m : Mem) (a : Nat) : Nat → List Byte
  | 0 => []
  | n + 1 =>
    match m.dropWhile fun c => decide (c.1 < a) with
    | [] => 0 :: readSpan [] (a + 1) n
    | c :: cs => if c.1 = a then c.2 :: readSpan cs (a + 1) n else 0 :: readSpan (c :: cs) (a + 1) n

/-- The memory that holds these bytes from address `a` and nothing else. -/
def memOf (a : Nat) : List Byte → Mem
  | [] => []
  | b :: bs => if b = 0 then memOf (a + 1) bs else (a, b) :: memOf (a + 1) bs

/-- A list cut into pieces of `n`; `k` bounds their number. -/
def chunks {α : Type} (n : Nat) : Nat → List α → List (List α)
  | 0, _ => []
  | k + 1, l => l.take n :: chunks n k (l.drop n)

/-- Elements of `h` half bytes each, in order; of two 4-bit ones the low half comes first (R101, R153). -/
def elemList (h : Nat) (bs : List Byte) : List Nat :=
  if h = 1 then bs.flatMap fun b => [b.toNat % 16, b.toNat / 16]
  else (chunks (h / 2) (bs.length / (h / 2)) bs).map ofLe

/-- The `n` rows of an array whose columns are given. -/
def columns {α : Type} (n : Nat) (l : List (List α)) : List (List α) :=
  l.foldr (fun c rows => List.zipWith (fun x r => x :: r) c rows) (List.replicate n [])

/-- Half bytes of an element of a slot FMT that matrix work takes, or 0 (R330, R331). -/
def matHalf (t : Tag) : Nat :=
  if t = tagBF16 ∨ t = tagF16 then 4
  else if t = tagE4M3 ∨ t = tagE5M2 ∨ t = tagI8 then 2
  else if t = tagE2M1 ∨ t = tagI4 then 1 else 0

/-- The float format of a slot FMT's elements. -/
def elemFmt (t : Tag) : Option Fmt :=
  if t = tagBF16 then some .bf16 else if t = tagF16 then some .f16 else if t = tagE4M3 then some .e4m3
  else if t = tagE5M2 then some .e5m2 else if t = tagE2M1 then some .e2m1 else if t = tagF32 then some .f32 else none

/-- The 32 rows of A, or columns of B, each along K, of an operand of `depth` bytes, read plain or transposing (R330). -/
def operandRows (t : Tag) (depth : Nat) (transposing : Bool) (bs : List Byte) : List (List Nat) :=
  let h := matHalf t
  let k := depth * 2 / h
  let es := elemList h bs
  if transposing then columns 32 (chunks 32 k es) else chunks k 32 es

/-! ## Values (R111, R114, R331) -/

/-- A value times 2^k. -/
def Num.scaleBy (k : Int) : Num → Num
  | .fin s m e => .fin s m (e + k)
  | x => x

/-- An element under an E8M0 scale byte (R111). -/
def scaled (c : Nat) (x : Num) : Num := if c = 255 then .nan else x.scaleBy ((c : Int) - 127)

/-- An exact integer as an operand. -/
def intNum (x : Int) : Num := if x = 0 then .zero false else .fin (decide (x < 0)) x.natAbs 0

/-- A two's-complement element of `w` bits (R331). -/
def sintOf (w x : Nat) : Int := (BitVec.ofNat w x).toInt

/-- A value, and whether a NaN arose as it was formed from operands that are not NaN. -/
abbrev Val := Num × Bool

/-- s × (q − z) of a parameter word (R114). -/
def asymVal (param : Nat) (q : Int) : Val :=
  let s := Fmt.f16.decode (param % 65536)
  let d := intNum (q - sintOf 8 (param / 65536 % 256))
  (mulNum s d, mulInvalid s d)

/-! ## The sums (R115, R116, R331) -/

/-- The exact sum of R116, as an operand. -/
def numSum (l : List Num) : Num :=
  if l.any Num.isNan then .nan
  else if l.any (· == .inf false) && l.any (· == .inf true) then .nan
  else if l.any (· == .inf false) then .inf false
  else if l.any (· == .inf true) then .inf true
  else
    let x := sumParts ((l.filter fun n => !n.isZero).map Num.parts)
    if x.1 = 0 then .zero (!l.isEmpty && l.all fun n => n == .zero true) else .fin (decide (x.1 < 0)) x.1.natAbs x.2

/-- A sum of products that has opposite infinities and no NaN (R116, R331). -/
def oppositeInf (l : List Num) : Bool :=
  !(l.any Num.isNan) && l.any (· == .inf false) && l.any (· == .inf true)

/-- One K-block's products summed with one rounding, and its conditions, INV included (R115, R331). -/
def blockSum (m : Mode) (a b : List Val) : Nat × Conds :=
  let ps := List.zipWith (fun x y => mulNum x.1 y.1) a b
  let inv := (List.zipWith (fun (x y : Val) => x.2 || y.2 || mulInvalid x.1 y.1) a b).any id || oppositeInf ps
  let r := round .f32 m (exactSum ps)
  (r.1, r.2 ||| (if inv then cINV else 0))

/-- acc + blk, rounded (R115, R331). -/
def accAdd (m : Mode) (acc blk : Nat) : Nat × Conds :=
  let x := addNum m (Fmt.f32.decode acc) (Fmt.f32.decode blk)
  let r := round .f32 m x.1
  (r.1, r.2 ||| x.2)

/-- One element of an F32 tile over its K-blocks in order (R115). -/
def accumulate (m : Mode) (acc : Nat) (a b : List (List Val)) : Nat × Conds :=
  (a.zip b).foldl (fun x p =>
    let blk := blockSum m p.1 p.2
    let s := accAdd m x.1 blk.1
    (s.1, x.2 ||| blk.2 ||| s.2)) (acc, 0)

/-- One element of an I32 tile over its K-blocks (R115); a saturation sets OVF (R331). -/
def accumulateInt (sat : Bool) (acc : Nat) (a b : List (List Int)) : Nat × Conds :=
  let r := (a.zip b).foldl (fun (x : Int × Conds) p =>
    let s := x.1 + (List.zipWith (· * ·) p.1 p.2).foldl (· + ·) 0
    if sat then
      let c := satInt s (-(2 ^ 31)) (2 ^ 31 - 1)
      (c, if c = s then x.2 else x.2 ||| cOVF)
    else ((BitVec.ofInt 32 s).toInt, x.2)) (sintOf 32 acc, 0)
  ((BitVec.ofInt 32 r.1).toNat, r.2)

/-- The elements of a tile after an instruction, from its elements before and the rows of A and columns of B (R115). -/
def tileProduct {α : Type} (f : Nat → α → α → Nat × Conds) (c : List Nat) (a b : List α) : List Nat × Conds :=
  let l := (a.flatMap fun x => b.map fun y => (x, y)).zip c
  let r := l.map fun p => f p.2 p.1.1 p.1.2
  (r.map (·.1), r.foldl (fun w x => w ||| x.2) 0)

/-- The rounding of an accumulation: RNE with the hint's SAT (R115, R331). -/
def accMode (sat : Bool) : Mode := { rm := 0, sat := sat, rnd := 0 }

/-- The rows of an operand cut into K-blocks of 32, each element as its value, under the scale byte of its K-block if
there are scales (R111, R115). -/
def floatRows (t : Tag) (scales : Option (List Byte)) (rows : List (List Nat)) : List (List (List Val)) :=
  let f := (elemFmt t).getD .f32
  rows.map fun r => (chunks 32 (r.length / 32) r).zipIdx.map fun kb =>
    kb.1.map fun x =>
      match scales with
      | some sc => (scaled (sc.getD kb.2 0).toNat (f.decode x), false)
      | none => (f.decode x, false)

/-- The rows of an integer operand cut into K-blocks. -/
def intRows (t : Tag) (rows : List (List Nat)) : List (List (List Int)) :=
  rows.map fun r => chunks 32 (r.length / 32) (r.map (sintOf (4 * matHalf t)))

/-- The rows of a symmetric integer operand as exact values (R331). -/
def symRows (t : Tag) (rows : List (List Nat)) : List (List (List Val)) :=
  (intRows t rows).map fun r => r.map fun kb => kb.map fun q => (intNum q, false)

/-- The columns of an asymmetric operand, whose parameter words lie `pg` to a column, one for `gs` elements (R114,
R331). -/
def asymRows (t : Tag) (gs pg : Nat) (params : List Nat) (rows : List (List Nat)) : List (List (List Val)) :=
  rows.zipIdx.map fun r =>
    chunks 32 (r.1.length / 32) (r.1.zipIdx.map fun x =>
      asymVal (params.getD (r.2 * pg + x.2 / gs) 0) (sintOf (4 * matHalf t) x.1))

/-! ## The drain (R333) -/

/-- The float format of a drain's format code, or none for INT32 (R153, R333). -/
def drainFmt (c : BitVec 4) : Option Fmt :=
  match c.toNat with
  | 1 => some .f32 | 2 => some .bf16 | 3 => some .f16 | 4 => some .e4m3 | 5 => some .e5m2
  | _ => none
/-- Bytes of an element of a format code (R153, R333). -/
def drainBytes (c : BitVec 4) : Nat := match c.toNat with | 2 | 3 => 2 | 4 | 5 => 1 | _ => 4
/-- The slot FMT of a format code (R153, R333). -/
def drainTag (c : BitVec 4) : Tag :=
  match c.toNat with
  | 1 => tagF32 | 2 => tagBF16 | 3 => tagF16 | 4 => tagE4M3 | 5 => tagE5M2 | _ => tagI32

/-- The value of a tile's element as a drain to a float format reads it (R332, R333). -/
def tileNum (tag : Tag) (x : Nat) : Num := if tag = tagI32 then intNum (sintOf 32 x) else Fmt.f32.decode x

/-- One element drained, with the old element of the destination for the add forms (R333). -/
def drainElem (c : BitVec 4) (add sat : Bool) (m : Mode) (tag : Tag) (t old : Nat) : Nat × Conds :=
  match drainFmt c with
  | none =>
    if add then
      let s := sintOf 32 old + sintOf 32 t
      let k := satInt s (-(2 ^ 31)) (2 ^ 31 - 1)
      if sat then ((BitVec.ofInt 32 k).toNat, if k = s then 0 else cOVF) else ((BitVec.ofInt 32 s).toNat, 0)
    else (t, 0)
  | some f =>
    if add then
      let x := addNum m (f.decode old) (tileNum tag t)
      let r := round f m x.1
      (r.1, r.2 ||| x.2)
    else round f m (tileNum tag t).exact

/-- The 1,024 elements of a tile's 4,096 bytes (R70). -/
def tileElems (m : Mem) : List Nat := elemList 8 (readSpan m 0 4096)

/-- The elements that a drain writes, given those it finds, and its conditions, of the elements that are not `bad`; each
rounding draws its own value (R108, R333). -/
def Drain.elems (d : Drain) (draw : Nat) (old bad : List Nat) : List Nat × Conds :=
  let r := (tileElems d.data).zipIdx.map fun p =>
    (p.2, drainElem d.fmt d.add d.sat { rm := d.rm, sat := d.sat, rnd := Config.srDraw (draw + p.2) } d.tag p.1 (old.getD p.2 0))
  (r.map (·.2.1), r.foldl (fun w x => if bad.contains x.1 then w else w ||| x.2.2) 0)

end Sys2Proof.Machine
end

