-- ==== Sys2Proof/Machine/Spawn.lean ====
section
/-! DEFINITION. The state in which teams, their halves and their threads start (R63, R70, R71, R170, R173, R187, R200,
R272, R342, R356). -/

namespace Sys2Proof.Machine

open Sys2Proof

/-- Freed storage: zero, tagged RAW (R44, R102). -/
def rawReg : Reg := { val := 0, tag := tagRAW }

/-- The record registers of a thread that has not trapped: zero, and TRLANE's reason none (R356; log 2). -/
def TrapRegs.start : TrapRegs :=
  { epc := 0, trsum := 0, trmask := 0, trsib := 0, traddr := 0, trlane := 0, trva := 0, trinfo := 0, trinfo2 := 0,
    tscr0 := 0, tscr1 := 0 }

/-- A slot as placement leaves it (R63). -/
def Slot.start : Slot :=
  { base := 0, size := 0, fmt := tagRAW, state := .empty, phase := false, err := false, reads := 0, expect := 0,
    prods := 0, arrived := 0, armedBy := 0, observers := [], fillers := [] }
/-- A tile after zeroing (R44, R70). -/
def Tile.start : Tile := { tag := tagRAW, bytes := [], bad := [] }
/-- A knot-grid register as placement leaves it (R342). -/
def Knot.start : Knot := { w0 := 0, w1 := 0, w2 := 0 }
/-- A convergence register as placement leaves it (R187). -/
def CvReg.start : CvReg := { valid := false, group := 0, target := 0, mask := 0 }
/-- A barrier as placement leaves it (R305). -/
def Barrier.start : Barrier := { ph := 0, arr := [], op := none, pay := 0, last := [] }
/-- A group at its start (R211, R311). -/
def Group.start (role : BitVec 2) : Group :=
  { role := role, retired := 0, phase := .prologue, open_ := false, mask := 0, label := 0, lastMask := 0, buf := [],
    draining := [], reports := [], bulk := 0 }

/-- The stack top of a thread: STKSIZE × (TEAM × TSIZE + TIDX + 1), modulo 2^32 (R200). -/
def stackTop (b : Block) (team tidx : Nat) : BitVec 64 := BitVec.ofNat 64 (b.stksize * (team * b.tsize + tidx + 1) % 2 ^ 32)

/-- The registers of a lane thread at its start: zero tagged RAW, G61 the stack top (R200). -/
def startRegs (b : Block) (team tidx : Nat) : RegFile :=
  (Vector.replicate 64 rawReg).setIfInBounds 61 { val := stackTop b team tidx, tag := tagI32 }

/-- Half of the team that holds lane thread `k` (R170). -/
def halfIdx (b : Block) (k : Nat) : Nat := if b.twoCore && decide (b.tsize / 2 ≤ k) then 1 else 0
/-- Index of lane thread `k` in its half. -/
def idxInHalf (b : Block) (k : Nat) : Nat := if b.twoCore then k % (b.tsize / 2) else k

/-- A thread as it starts, lane or control (R173, R200, R272). -/
def Thread.start (ctl : Bool) (tidx : BitVec 32) (half slot group frag : Nat) (pc : BitVec 64) (regs : RegFile) : Thread :=
  { tidx := tidx, ctl := ctl, half := half, slot := slot, group := group, frag := frag, path := [], pc := pc, hint := none,
    regs := regs, preds := 0, fpstat := 0, cm := false, tr := TrapRegs.start, exited := false, parked := false,
    wait := none, age := 0, holdoff := 0, pending := [], batchNo := 0, batchWrap := false, batches := [], watch := none,
    walked := [], seq := 0, since := 0 }

/-- Lane thread `k` of a team, on the rows of its half (R51, R170, R185, R200). -/
def laneThread (b : Block) (team : Nat) (rows : Nat → List Nat) (k : Nat) : Thread :=
  let h := halfIdx b k
  let j := idxInHalf b k
  Thread.start false (BitVec.ofNat 32 k) h (64 * (rows h).getD (j / 64) 0 + j % 64) (k / b.width) 0 b.lanepc
    (startRegs b team k)

/-- The control thread of a team, after its lane threads in slot order (R173, R264). -/
def ctlThread (b : Block) : Thread :=
  Thread.start true 0xFFFFFFFF 0 1536 (b.tsize / b.width) 0 b.ctlpc (Vector.replicate 64 rawReg)

/-- The threads of a team: the lane threads in order, then the control thread if there is one (R170, R173). -/
def startThreads (b : Block) (team : Nat) (rows : Nat → List Nat) : List Thread :=
  (List.range b.tsize).map (laneThread b team rows) ++ (if b.ctlpc = 0 then [] else [ctlThread b])

/-- One half of a team on a core, with the claims it has been given (R55, R62, R70, R71, R187, R342). -/
def Half.start (b : Block) (core : Nat) (rows regGran accTiles vitTiles scrGran rings awaiting : List Nat) : Half :=
  { core := core, rows := rows, regGran := regGran, accTiles := accTiles, vitTiles := vitTiles, scrGran := scrGran,
    slots := List.replicate b.slots Slot.start, tiles := List.replicate b.tiles Tile.start,
    vit := if b.kflags.getLsbD 7 then some [] else none, vitBad := [], knots := List.replicate b.kgreg Knot.start,
    cvs := List.replicate b.cvreg CvReg.start, scratch := [], scrPoison := [], rings := rings, awaiting := awaiting,
    shares := false, resIdx := 0 }

/-- A team's groups at their start (R178). -/
def startGroups (b : Block) : List Group :=
  (List.range (b.tsize / b.width)).map fun g => Group.start (b.roles.getD g 0)

/-- A team of a launch, not yet placed (R176, R219, R320, R356; TVEC and the address space from the launch, R17). -/
def Team.start (l : Launch) (launch index disp : Nat) : Team :=
  let b := l.block
  { launch := launch, index := index, status := .drawn, cohort := none, crank := 0, csize := 1, ctxid := 0, halves := [],
    groups := startGroups b, threads := [], tflags := 0, clkcnt := 0, cpstat := 0, estat := 0, tvec := l.tvec,
    xroot := l.root ||| 1#64, xasid := l.asid.setWidth 64, dbgctl := 0, up := [], down := [],
    bars := List.replicate b.tbar Barrier.start, preemptReq := false, leftGrant := 0, disp := disp }

end Sys2Proof.Machine
end

