-- ==== Sys2Proof/Machine/Region.lean ====
section
/-! DEFINITION. Regions: opening, committing and discarding one, and restarting its group (R311 to R317). -/

namespace Sys2Proof.Machine

open Sys2Proof

/-! ## The checks (R311, R313) -/

/-- The active threads of the bundle are every thread of the group that has not exited (R311). -/
def State.wholeGroup (s : State) (i : Instr) (r : Ref) : Bool :=
  (s.liveRefs r.team (s.thr r).group).all fun q => (s.active i).contains q

/-- A live-in mask that R313 refuses: over 16 bits, bit 0, or a register that does not exist. -/
def badMask (regs : Nat) (m : BitVec 64) : Bool :=
  decide (16 < (setBits m).length) || m.getLsbD 0 || !(setBits m).all (laneExists regs)

/-- The checks of a word that opens a region with the mask in pair `a` (R313). -/
def State.openCheck (s : State) (a : BitVec 6) (i : BitVec 11) (r : Ref) : Verdict :=
  let t := s.thr r
  if t.poisoned [u2 a] then .fail poisonFault
  else if badMask (s.block r.team).regs (t.pairVal a.toNat) then .fail (illegalFault rValue)
  else if !canonical (t.label i) then .fail (transFault rNotCanonical 0 0 (t.label i))
  else .run

/-- The checks of a region word: the whole group, its own, and the region state it needs (R311, R313, R316, R317). -/
def State.regionCheck (s : State) (i : Instr) (needOpen : Bool) (own : Ref → Verdict) (r : Ref) : Verdict :=
  if !s.wholeGroup i r then .fail (illegalFault rMismatch)
  else joinRegion ((s.group r.team (s.thr r).group).open_ != needOpen) (own r)

/-! ## The region state -/

/-- A region opens (R313). -/
def Group.openRegion (g : Group) (mask label : BitVec 64) : Group :=
  { g with open_ := true, phase := .region, mask := mask, label := label }
/-- A region commits: its entries go to the drain, a deferred drain among them (R316, R334). -/
def Group.commit (g : Group) : Group :=
  { g with open_ := false, phase := .between, lastMask := g.mask, buf := [],
           draining := g.draining ++ g.buf }
/-- A region's buffered entries are discarded (R317). -/
def Group.discard (g : Group) : Group := { g with buf := [] }
/-- A group's buffered entries are discarded; a deferred drain among them leaves its batches (R317, R334). -/
def State.discardRegion (s : State) (t g : Nat) : State :=
  (s.group t g).buf.foldl (fun x e => x.endJoins t e.joins none) (s.modGroup t g Group.discard)

/-- RGNB (R311, R313). -/
def execRgnb (g : BitVec 3) (a : BitVec 6) (i : BitVec 11) (s : State) : Host.Outcome State Fault Refusal :=
  .next (s.collective (.rgnb g a i) (s.regionCheck (.rgnb g a i) false (s.openCheck a i)) fun s1 rs =>
    match rs with
    | [] => s1
    | r :: _ =>
      let t := s.thr r
      s1.modGroup r.team t.group fun x => x.openRegion (t.pairVal a.toNat) (t.label i))

/-- RGNN: commits the region and opens the next (R313, R316). -/
def execRgnn (g : BitVec 3) (a : BitVec 6) (i : BitVec 11) (s : State) : Host.Outcome State Fault Refusal :=
  .next (s.collective (.rgnn g a i) (s.regionCheck (.rgnn g a i) true (s.openCheck a i)) fun s1 rs =>
    match rs with
    | [] => s1
    | r :: _ =>
      let t := s.thr r
      s1.modGroup r.team t.group fun x => x.commit.openRegion (t.pairVal a.toNat) (t.label i))

/-- RGNC (R311, R316). -/
def execRgnc (g : BitVec 3) (s : State) : Host.Outcome State Fault Refusal :=
  .next (s.collective (.rgnc g) (s.regionCheck (.rgnc g) true noCheck) fun s1 rs =>
    match rs with
    | [] => s1
    | r :: _ => s1.modGroup r.team (s.thr r).group Group.commit)

/-- RGNX: the group goes on at the region's label, the region still open (R311, R317). -/
def execRgnx (g : BitVec 3) (s : State) : Host.Outcome State Fault Refusal :=
  .next (s.collective (.rgnx g) (s.regionCheck (.rgnx g) true noCheck) fun s1 rs =>
    match rs with
    | [] => s1
    | r :: _ =>
      let k := (s.thr r).group
      let label := (s.group r.team k).label
      rs.foldl (fun x q => x.modThr q fun u => { u with pc := label }) (s1.discardRegion r.team k))

/-! ## Restart (R41, R207, R317) -/

/-- The values still to come to a thread's registers are discarded (R207, R317). -/
def State.discardLoads (s : State) (r : Ref) : State :=
  { s with flights := s.flights.map fun f => if f.own = r ∧ f.op.isRead = true then { f with dst := 0, wcode := 2 } else f }

/-- A thread's registers as a restart leaves them: the live-ins of a mask, every other zero and RAW (R317). -/
def liveRegs (mask : BitVec 64) (regs : RegFile) : RegFile :=
  regs.mapIdx fun k x => if mask.getLsbD k then x else rawReg

/-- A thread restarted at an address with the registers given (R317). -/
def Thread.restart (t : Thread) (pc : BitVec 64) (regs : RegFile) (frag : Nat) : Thread :=
  { t with pc := pc, regs := regs, frag := frag, path := [], hint := none, wait := none, parked := false, preds := 0, fpstat := 0,
           cm := false, pending := [], walked := [], holdoff := 0 }

/-- A group's convergence registers take their reset values (R317). -/
def State.clearCv (s : State) (t g : Nat) : State :=
  s.modTeam t fun x => { x with halves := x.halves.map fun h =>
    { h with cvs := h.cvs.map fun c => if c.group.toNat = g then CvReg.start else c } }

/-- A group's open region is abandoned: its entries are discarded and it restarts at the label, one fragment of its
threads that have not exited, with its live-ins as they are (R41, R317). -/
def State.abandonRegion (s : State) (t g : Nat) : State :=
  let x := s.group t g
  let rs := s.liveRefs t g
  let frag := s.leastIdx rs (fun _ => true) (s.width t)
  let s1 := (s.discardRegion t g).clearCv t g
  rs.foldl (fun y r => (y.modThr r fun u => u.restart x.label (liveRegs x.mask u.regs) frag).discardLoads r) s1

end Sys2Proof.Machine
end

