-- ==== Sys2Proof/Machine/Matrix.lean ====
section
/-! DEFINITION. Issuing matrix instructions and MMV: the checks of R319, the engine's queue, what an accepted
instruction holds (R318 to R321, R330 to R335, R376). -/

namespace Sys2Proof.Machine

open Sys2Proof

/-! ## The shared checks (R319, R321, R376) -/

/-- The team's storage on the thread's core is part of a held set of another context (R376). -/
def State.accOwned (s : State) (r : Ref) : Bool :=
  let c := s.core (s.coreOf r)
  ((s.halfOf r).shares && c.held && c.owner != (s.team r.team).ctxid) || (s.halfOf r).displaced
/-- The ACC_OWNER failure, with the owner (R365). -/
def State.ownerFault (s : State) (r : Ref) : LaneFault :=
  { cause := .accOwner, info := (s.core (s.coreOf r)).owner.setWidth 64 }

/-- Accepted instructions that a core's matrix engine holds, of one class or of both (R321). -/
def State.engineHeld (s : State) (core : Nat) (harvestOnly : Bool) : Nat :=
  (s.engine.filter fun e => e.core == core && (!harvestOnly || e.harvest)).length

/-- The engine has a free queue entry for a team: 32 in all, 16 of them at most for harvest (R321). -/
def State.engineRoom (s : State) (r : Ref) : Bool :=
  decide (s.engineHeld (s.coreOf r) false < 32) &&
    (!s.harvest r.team || decide (s.engineHeld (s.coreOf r) true < 16))

/-- The storage of its half that an accepted instruction changes: tiles by index, 64 for the vitrine, 65 + k for
knot-grid register k. -/
def engineWrites : Instr → List Nat
  | .mma _ x _ _ _ _ _ | .mmas _ x _ _ _ _ _ | .mmaq _ x _ _ _ _ => [x.toNat]
  | .mzero _ x | .mlda _ x _ | .accrest _ x _ => [x.toNat]
  | .splev _ x _ _ | .spldr _ x _ _ => [x.toNat]
  | .splgr _ x _ _ => (List.range 35).map fun j => x.toNat + j
  | .splld .. | .splrf .. => [64]
  | .splkg _ k _ => [65 + k.toNat]
  | .accrestV .. => 64 :: (List.range 32).map fun k => 65 + k
  | _ => []

/-- An accepted instruction of the thread's half that changes one of these is still to be performed. -/
def State.engineBusy (s : State) (r : Ref) (what : List Nat) : Bool :=
  s.engine.any fun e => e.team == r.team && e.half == (s.thr r).half && (engineWrites e.instr).any what.contains

/-- What of its half an instruction reads: as `engineWrites`. -/
def engineSources : Instr → List Nat
  | .mdrnS _ x _ _ | .mdrnSadd _ x _ _ | .mdrnG _ x _ _ | .mdrnGadd _ x _ _ | .accsave _ x _ => [x.toNat]
  | .splev .. | .spldr .. | .splst .. | .splrf .. | .accsaveV .. => [64]
  | _ => []

/-- The slots that an engine instruction reads or fills. -/
def engineSlots : Instr → List Nat
  | .mma _ _ y z _ _ _ => [y.toNat, z.toNat]
  | .mmas _ _ y z _ _ _ => [y.toNat, y.toNat + 1, z.toNat, z.toNat + 1]
  | .mmaq _ _ y z _ _ => [y.toNat, z.toNat, z.toNat + 1]
  | .mlda _ _ y | .mdrnS _ _ y _ | .mdrnSadd _ _ y _ | .splld _ _ y _ | .splst _ _ y _ | .splev _ _ y _ => [y.toNat]
  | .spldr _ _ y _ | .splgr _ _ y _ => [y.toNat, y.toNat + 1]
  | _ => []

/-- A tile, the vitrine or a slot's range that an instruction touches has not yet passed to the team (R209). -/
def Half.accAway (h : Half) (i : Instr) : Bool :=
  !h.awaiting.isEmpty &&
    ((engineWrites i ++ engineSources i).any (fun k => h.awaiting.contains (if k = 64 then 4096 else 2048 + k)) ||
      (engineSlots i).any fun n => (h.slots[n]?).any fun x => h.scratchAway x.off x.len)

/-- The stalls of R319 step 4 that every engine instruction shares: its tiles' earlier work, a free entry, the release
that its issue is (R136), and room for a report (R364). -/
def State.engineStall (s : State) (i : Instr) (what : List Nat) (r : Ref) (v : Verdict) : Verdict :=
  if (s.halfOf r).accAway i then .wait .handover
  else if s.engineBusy r what then .wait .engineBusy
  else if !s.engineRoom r then .wait .engineQueue
  else if !s.fragPerformed i false then .wait .performed
  else
    let t := s.thr r
    if !t.ctl && decide (8 ≤ (s.group r.team t.group).reports.length) then .wait .reports else v

/-- Every index names a tile, or a slot, that the team has (R62, R70). -/
def State.inTables (s : State) (r : Ref) (tiles slots : List Nat) : Bool :=
  let h := s.halfOf r
  (tiles.all fun x => decide (x < h.tiles.length)) && slots.all fun n => decide (n < h.slots.length)

/-- A tile's tag admits work of a tag: itself, RAW, or POISON, which is judged later (R331). -/
def tileTakes (tile want : Tag) : Bool := tile == tagRAW || tile == want || tile == tagPOISON

/-! ## Acceptance (R321) -/

/-- Batches that a command of the fragment's active threads joins (R151). -/
def State.joinsOf (s : State) (rs : List Ref) : List (Nat × BitVec 32) := rs.map fun r => (r.thr, (s.thr r).batchNo)

/-- The entry that an accepted instruction takes (R321). -/
def State.entryOf (s : State) (i : Instr) (r : Ref) : MEntry :=
  let t := s.thr r
  { (default : MEntry) with
    id := s.stamp, core := s.coreOf r, team := r.team, half := t.half, group := t.group, harvest := s.harvest r.team,
    instr := i, addr := t.pc, from_ := s.fragIdx r, rm := t.rm, sat := t.sat, own := r }

/-- An instruction joins the queue of its core's engine (R321). -/
def State.accept (s : State) (e : MEntry) : State := { s with engine := s.engine ++ [e], stamp := s.stamp + 1 }

/-- Slots count their reads from acceptance (R65, R321). -/
def State.consumeAll (s : State) (r : Ref) (slots : List Nat) : State :=
  let t := s.thr r
  slots.foldl (fun x n => x.modSlot r.team t.half n fun sl => sl.consume t.group) s

/-- An engine instruction with no result of its own: judged for its fragment, then accepted with its slots' reads. -/
def State.engineWord (s : State) (i : Instr) (own : Ref → Verdict) (slots : List Nat) : State :=
  s.collective i own fun s1 rs =>
    match rs with
    | [] => s1
    | r :: _ => (s1.accept (s.entryOf i r)).consumeAll r slots

/-! ## MMA, MMAS, MMAQ (R330, R331) -/

/-- Operand depth in bytes (R330). -/
def depthBytes (k : BitVec 2) : Nat := 64 * (k.toNat + 1)
/-- Group size of MMAQ (R331). -/
def groupSize (q : BitVec 2) : Nat := 32 * 2 ^ q.toNat
/-- An FP8 tag. -/
def isFp8 (t : Tag) : Bool := t == tagE4M3 || t == tagE5M2

/-- The tile tag that a form gives for its slots' FMTs, or none for a combination that R331 does not list. -/
def mmaTag : List Tag → Option Tag
  | [a, b] =>
    if a = b ∧ (a = tagBF16 ∨ a = tagF16) then some tagF32
    else if isFp8 a && isFp8 b then some tagF32
    else if a = b ∧ (a = tagI8 ∨ a = tagI4) then some tagI32 else none
  | _ => none
/-- As `mmaTag`, for MMAS: A, A's scales, B, B's scales (R331). -/
def mmasTag : List Tag → Option Tag
  | [a, sa, b, sb] =>
    if sa = tagE8M0 ∧ sb = tagE8M0 ∧ ((a = tagE2M1 ∧ b = tagE2M1) ∨ (isFp8 a && isFp8 b)) then some tagF32 else none
  | _ => none
/-- As `mmaTag`, for MMAQ: A, B, B's parameters (R331). -/
def mmaqTag : List Tag → Option Tag
  | [a, b, p] => if a = b ∧ ((a = tagI8 ∧ p = tagADHI) ∨ (a = tagI4 ∧ p = tagADLO)) then some tagF32 else none
  | _ => none

/-- Elements along K of an operand of a tag (R330). -/
def depthK (t : Tag) (k : BitVec 2) : Nat := depthBytes k * 2 / max 1 (matHalf t)
/-- PG of MMAQ (R331). -/
def paramGroups (t : Tag) (q k : BitVec 2) : Nat := max 1 (depthK t k / groupSize q)
/-- The parameter words that MMAQ reads: up to that of column 31's last element, which is past the 32 × PG where K is no
multiple of the group size (R331). -/
def paramWords (t : Tag) (q k : BitVec 2) : Nat :=
  31 * paramGroups t q k + (depthK t k + groupSize q - 1) / groupSize q

/-- The checks of a matrix instruction on tile `x`: `slots` with the bytes each must hold, by their FMTs, and `form`
giving the tile's tag (R319, R331). -/
def State.matCheck (s : State) (i : Instr) (x : Nat) (slots : List Nat) (form : List Tag → Option Tag)
    (bytes : List Tag → List Nat) (r : Ref) : Verdict :=
  let h := s.halfOf r
  let sl := slots.map fun n => h.slots.getD n default
  if !s.inTables r [x] slots then .fail (illegalFault rRange)
  else if s.accOwned r then .fail (s.ownerFault r)
  else match s.notReady r slots with
    | some n => .wait (.slotReady n (s.slotNow r n))
    | none =>
      s.engineStall i [x] r (
        let fmts := sl.map (·.fmt)
        let tag := (h.tiles.getD x default).tag
        match form fmts with
        | none => .fail (plainFault .format)
        | some want =>
          if !tileTakes tag want then .fail (plainFault .format)
          else if !((sl.zip (bytes fmts)).all fun p => decide (p.2 ≤ p.1.len)) then .fail { cause := .scratchBounds }
          else if (sl.any fun y => y.err) || tag == tagPOISON then .fail poisonFault else .run)

/-- MMA (R330, R331). -/
def execMma (g : BitVec 3) (x y z : BitVec 6) (t u : BitVec 1) (k : BitVec 2) (s : State) :
    Host.Outcome State Fault Refusal :=
  .next (
    let i : Instr := .mma g x y z t u k
    let slots := [y.toNat, z.toNat]
    s.engineWord i (s.matCheck i x.toNat slots mmaTag fun _ => [32 * depthBytes k, 32 * depthBytes k]) slots)

/-- MMAS (R330, R331). -/
def execMmas (g : BitVec 3) (x y z : BitVec 6) (t u : BitVec 1) (k : BitVec 2) (s : State) :
    Host.Outcome State Fault Refusal :=
  .next (
    let i : Instr := .mmas g x y z t u k
    let slots := [y.toNat, y.toNat + 1, z.toNat, z.toNat + 1]
    let scales (a : Tag) : Nat := depthK a k / 32
    s.engineWord i (s.matCheck i x.toNat slots mmasTag fun f =>
      [32 * depthBytes k, scales (f.getD 0 0), 32 * depthBytes k, scales (f.getD 2 0)]) slots)

/-- MMAQ (R330, R331). -/
def execMmaq (g : BitVec 3) (x y z : BitVec 6) (q k : BitVec 2) (s : State) : Host.Outcome State Fault Refusal :=
  .next (
    let i : Instr := .mmaq g x y z q k
    let slots := [y.toNat, z.toNat, z.toNat + 1]
    s.engineWord i (s.matCheck i x.toNat slots mmaqTag fun f =>
      [32 * depthBytes k, 32 * depthBytes k, 128 * paramGroups (f.getD 0 0) q k]) slots)

/-! ## MZERO, MLDA (R332) -/

/-- MZERO (R332). -/
def execMzero (g : BitVec 3) (x : BitVec 6) (s : State) : Host.Outcome State Fault Refusal :=
  .next (
    let i : Instr := .mzero g x
    s.engineWord i (fun r =>
      if !s.inTables r [x.toNat] [] then .fail (illegalFault rRange)
      else if s.accOwned r then .fail (s.ownerFault r)
      else s.engineStall i [] r .run) [])

/-- MLDA (R332). -/
def execMlda (g : BitVec 3) (x y : BitVec 6) (s : State) : Host.Outcome State Fault Refusal :=
  .next (
    let i : Instr := .mlda g x y
    s.engineWord i (fun r =>
      let sl := (s.halfOf r).slots.getD y.toNat default
      if !s.inTables r [x.toNat] [y.toNat] then .fail (illegalFault rRange)
      else if s.accOwned r then .fail (s.ownerFault r)
      else match s.notReady r [y.toNat] with
        | some n => .wait (.slotReady n (s.slotNow r n))
        | none =>
          s.engineStall i [] r (
            if !(sl.fmt == tagF32 || sl.fmt == tagI32 || sl.fmt == tagRAW) then .fail (plainFault .format)
            else if sl.len < 4096 then .fail { cause := .scratchBounds }
            else if sl.err then .fail poisonFault else .run)) [y.toNat])

/-! ## MDRN (R333, R334) -/

/-- A format code that MDRN takes (R333). -/
def drainCode (f : BitVec 4) : Bool := decide (1 ≤ f.toNat) && decide (f.toNat ≤ 6)

/-- The tile of a drain: FORMAT for an F32 tile to INT32 (R333). -/
def drainFormat (tag : Tag) (f : BitVec 4) : Bool := !(tag == tagF32 && f == 6)

/-- The checks of the .S forms (R319, R333). -/
def State.drainSlotCheck (s : State) (i : Instr) (x y : BitVec 6) (f : BitVec 4) (r : Ref) : Verdict :=
  let h := s.halfOf r
  let sl := h.slots.getD y.toNat default
  let tag := (h.tiles.getD x.toNat default).tag
  if !s.inTables r [x.toNat] [y.toNat] then .fail (illegalFault rRange)
  else if s.accOwned r then .fail (s.ownerFault r)
  else if !drainCode f then .fail (illegalFault rValue)
  else if sl.off % (1024 * drainBytes f) ≠ 0 then .fail { cause := .misaligned, acc := 6 }
  else if sl.state ≠ .filling then .wait (.slotFilling y.toNat (s.slotNow r y.toNat))
  else s.engineStall i [x.toNat] r (
    if sl.fmt ≠ drainTag f ∨ drainFormat tag f = false then .fail (plainFault .format)
    else if sl.len < 1024 * drainBytes f then .fail { cause := .scratchBounds }
    else if tag = tagPOISON then .fail poisonFault else .run)

/-- MDRN.S and MDRN.SADD: a producer of slot Y (R333). -/
def State.drainSlot (s : State) (i : Instr) (x y : BitVec 6) (f : BitVec 4) : State :=
  s.collective i (s.drainSlotCheck i x y f) fun s1 rs =>
    match rs with
    | [] => s1
    | r :: _ => (s1.accept (s.entryOf i r)).modSlot r.team (s.thr r).half y.toNat fun sl => sl.produce (s.thr r).group

/-- MDRN.S (R333). -/
def execMdrnS (g : BitVec 3) (x y : BitVec 6) (f : BitVec 4) (s : State) : Host.Outcome State Fault Refusal :=
  .next (s.drainSlot (.mdrnS g x y f) x y f)
/-- MDRN.SADD (R333). -/
def execMdrnSadd (g : BitVec 3) (x y : BitVec 6) (f : BitVec 4) (s : State) : Host.Outcome State Fault Refusal :=
  .next (s.drainSlot (.mdrnSadd g x y f) x y f)

/-- The checks of the .G forms (R319, R333); in a region they take one entry of the store buffer, and only one of them
may (R315, R334). -/
def State.drainMemCheck (s : State) (i : Instr) (x y : BitVec 6) (f : BitVec 4) (add : Bool) (r : Ref) : Verdict :=
  let t := s.thr r
  let h := s.halfOf r
  let tag := (h.tiles.getD x.toNat default).tag
  let va := t.pairVal y.toNat
  let n := 1024 * drainBytes f
  let room := if s.buffers r then
      (if (s.group r.team t.group).buf.any (·.drain.isSome) then .fail (plainFault .region) else s.bufferCheck r 1)
    else .run
  joinRegion (room == .fail (plainFault .region)) (
    if !s.inTables r [x.toNat] [] then .fail (illegalFault rRange)
    else if s.accOwned r then .fail (s.ownerFault r)
    else if t.poisoned [u2 y] then .fail poisonFault
    else if !drainCode f then .fail (illegalFault rValue)
    else if va.toNat % n ≠ 0 then .fail { cause := .misaligned, acc := 6, va := va }
    else s.engineStall i [x.toNat] r (
      if room ≠ .run then room
      else if !drainFormat tag f then .fail (plainFault .format)
      else if tag = tagPOISON then .fail poisonFault
      else passes (s.transAccess r va n { wr := true } 6) fun l =>
        if add && farParts l then .fail (illegalFault rValue) else .run))

/-- The tile as a drain reads it. -/
def Half.drainOf (h : Half) (x : Nat) (f : BitVec 4) (add : Bool) (rm : BitVec 3) (sat : Bool) : Drain :=
  let t := h.tiles.getD x default
  { fmt := f, add := add, rm := rm, sat := sat, tag := t.tag, data := t.bytes, bad := t.bad }

/-- The buffer entry of a deferred drain (R315, R334). -/
def drainEntry (t : Thread) (asid : BitVec 16) (va : BitVec 64) (l : Leaf) (pa : Nat) (d : Drain) : BufEntry :=
  { scratch := none, addr := pa, plinth := some (imageAddr l.plinth pa), kind := l.ordKind, ord := t.ord,
    scope := t.scope, op := .store, parts := [], asid := asid, va := va, level := l.level, glob := l.glob,
    drain := some d }

/-- MDRN.G and MDRN.GADD: accepted, the batch of every active thread joined; in a region deferred with the tile as it
stands (R333, R334). -/
def State.drainMem (s : State) (i : Instr) (x y : BitVec 6) (f : BitVec 4) (add : Bool) : State :=
  s.collective i (s.drainMemCheck i x y f add) fun s1 rs =>
    match rs with
    | [] => s1
    | r :: _ =>
      let t := s.thr r
      let va := t.pairVal y.toNat
      match partsOr (s.transAccess r va (1024 * drainBytes f) { wr := true } 6) with
      | (_, _, l, pa) :: _ =>
        let s2 :=
          if s.buffers r then
            s1.bufferPush r [{ drainEntry t ((s.team r.team).xasid.setWidth 16) va l pa
              ((s.halfOf r).drainOf x.toNat f add t.rm t.sat) with joins := s.joinsOf rs }]
          else
            s1.accept { s.entryOf i r with
              arg := va, parts := [(1024 * drainBytes f, pa, l.plinth)], joins := s.joinsOf rs }
        rs.foldl (fun a q => a.modThr q Thread.joinBatch) s2
      | [] => s1

/-- MDRN.G (R333, R334). -/
def execMdrnG (g : BitVec 3) (x y : BitVec 6) (f : BitVec 4) (s : State) : Host.Outcome State Fault Refusal :=
  .next (s.drainMem (.mdrnG g x y f) x y f false)
/-- MDRN.GADD (R333, R334). -/
def execMdrnGadd (g : BitVec 3) (x y : BitVec 6) (f : BitVec 4) (s : State) : Host.Outcome State Fault Refusal :=
  .next (s.drainMem (.mdrnGadd g x y f) x y f true)

/-! ## MMV (R335, R337) -/

/-- WBASE, XBASE or YBASE of an MMV descriptor (R335). -/
def mmvBase (d : List (BitVec 32)) (k : Nat) : BitVec 64 := descWord d (2 * k + 1) ++ descWord d (2 * k)
/-- K of an MMV descriptor (R335). -/
def mmvK (d : List (BitVec 32)) : Nat := ((descWord d 6).extractLsb' 0 14).toNat
/-- NV (R335). -/
def mmvNv (d : List (BitVec 32)) : Nat := ((descWord d 6).extractLsb' 14 3).toNat + 1
/-- ACC (R335). -/
def mmvAcc (d : List (BitVec 32)) : Bool := (descWord d 6).getLsbD 17
/-- NROW (R335). -/
def mmvRows (d : List (BitVec 32)) : Nat := ((descWord d 7).extractLsb' 0 24).toNat

/-- A descriptor value that R335 refuses; weight format 3 is INT4. -/
def badMmv (d : List (BitVec 32)) (w : BitVec 2) : Bool :=
  mmvK d == 0 || decide (8192 < mmvK d) || (w == 3 && mmvK d % 2 != 0) || decide (16384 < mmvNv d * mmvK d * 2) ||
    (descWord d 6).extractLsb' 18 14 != 0 || mmvRows d == 0 || (descWord d 7).extractLsb' 24 8 != 0

/-- The checks of MMV (R319, R335, R337). -/
def State.mmvCheck (s : State) (i : Instr) (y z : BitVec 6) (w : BitVec 2) (r : Ref) : Verdict :=
  let t := s.thr r
  let d := t.desc y
  if t.poisoned (copyUses y z) then .fail poisonFault
  else if badMmv d w then .fail (illegalFault rValue)
  else match ((alignFault (mmvBase d 0) 256 5).orElse fun _ => alignFault (mmvBase d 1) 2 5).orElse fun _ =>
      (alignFault (mmvBase d 2) 4 6).orElse fun _ => (t.ctrOf z).bind fun c => alignFault c 8 6 with
    | some f => .fail f
    | none => s.reportRoom r (if s.fragPerformed i false then .run else .wait .performed)

/-- MMV: a command of the plinth engines, which every active thread's open batch joins (R335, R337). -/
def execMmv (g : BitVec 3) (y z : BitVec 6) (w : BitVec 2) (s : State) : Host.Outcome State Fault Refusal :=
  .next (
    let i : Instr := .mmv g y z w
    s.collective i (s.mmvCheck i y z w) fun s1 rs =>
      match rs with
      | [] => s1
      | r :: _ =>
        let c := { s.copyCmd .mmv 0 y z r with inc := 1, fmt := w.setWidth 4, joins := s.joinsOf rs }
        rs.foldl (fun a q => a.modThr q Thread.joinBatch) { s1 with cmds := s1.cmds ++ [c] })

end Sys2Proof.Machine
end

