-- ==== Sys2Proof/Machine/SplineMath.lean ====
section
/-! DEFINITION. The arithmetic of spline cells: placing an argument, basis weights, a cell's value, derivative and
weights, the three sums and the refinement (R343 to R345, R348, R353, R354). -/

namespace Sys2Proof.Machine

open Sys2Proof

/-! ## Placing an argument (R342, R343) -/

/-- G of a knot-grid register (R342). -/
def Knot.g (k : Knot) : Nat := slice k.w1 0 6
/-- D (R342). -/
def Knot.d (k : Knot) : Nat := slice k.w1 6 2
/-- MODE (R342): 0 CLAMP, 1 LINEAR, 2 ZERO. -/
def Knot.mode (k : Knot) : Nat := slice k.w1 8 2
/-- X0 (R342). -/
def Knot.x0 (k : Knot) : Num := Fmt.f32.decode (slice k.w0 0 32)
/-- HINV (R342). -/
def Knot.hinv (k : Knot) : Num := Fmt.f32.decode (slice k.w0 32 32)

/-- The classes of R343. -/
inductive ArgClass where
  | nan | low | high | inside
  deriving DecidableEq, Repr, Inhabited

/-- `rnd` of R344: FP32 under RNE, as an operand. -/
def rnd (x : Num) : Num := Fmt.f32.decode (round .f32 Mode.rne x.exact).1

/-- `rnd` of a rational that is not negative. -/
def rndEx (x : Ex) : Num := Fmt.f32.decode (round .f32 Mode.rne (x.toExact false)).1

/-- A finite operand as a rational. -/
def Num.ex (x : Num) : Ex := match x with | .fin s m e => Ex.dyadic (if s then -(m : Int) else m) e | _ => Ex.rat 0 1
/-- x + a / b. -/
def exAdd (x : Ex) (a b : Nat) : Ex := Ex.rat (x.p * b + a * x.d) (x.d * b)
/-- x / n. -/
def exDiv (x : Ex) (n : Nat) : Ex := Ex.rat x.p (x.d * n)

/-- The basis weights of a degree at t (R344). -/
def basis (deg : Nat) (t : Num) : List Num :=
  let s := rnd (numSum [intNum 1, t.neg])
  let t2 := rnd (mulNum t t)
  let s2 := rnd (mulNum s s)
  match deg with
  | 0 => [intNum 1]
  | 1 => [s, t]
  | 2 => [rnd (s2.scaleBy (-1)), rnd (numSum [.fin false 1 (-1), rnd (numSum [t, t2.neg])]), rnd (t2.scaleBy (-1))]
  | _ =>
    let t3 := rnd (mulNum t2 t)
    let s3 := rnd (mulNum s2 s)
    [rndEx (exDiv s3.ex 6), rndEx (exAdd (rnd (numSum [t3.scaleBy (-1), t2.neg])).ex 2 3),
     rndEx (exAdd (rnd ((numSum [t, t2, t3.neg]).scaleBy (-1))).ex 1 6), rndEx (exDiv t3.ex 6)]

/-- A placed argument (R343), with the weights of degree D and D − 1 at its t (R344). -/
structure Placed where
  cls : ArgClass
  i : Nat
  /-- u − ub, for LINEAR. -/
  beyond : Num
  b : List Num
  w : List Num
  deriving DecidableEq, Repr, Inhabited

/-- An argument placed against a loaded register (R343). -/
def Knot.place (k : Knot) (a : Num) : Placed :=
  let at_ (cls : ArgClass) (i : Nat) (beyond t : Num) : Placed :=
    { cls := cls, i := i, beyond := beyond, b := basis k.d t, w := basis (k.d - 1) t }
  match a with
  | .nan => { cls := .nan, i := 0, beyond := .nan, b := [], w := [] }
  | _ =>
    let u := rnd (mulNum (numSum [a, k.x0.neg]) k.hinv)
    let top := intNum k.g
    if numLt u (.zero false) then at_ .low 0 u (.zero false)
    else if !numLt u top then at_ .high (k.g - 1) (numSum [u, top.neg]) (intNum 1)
    else
      let i : Nat := match u with
        | .fin _ m e => if 0 ≤ e then m * 2 ^ e.toNat else m / 2 ^ (-e).toNat
        | _ => 0
      let t := numSum [u, (intNum i).neg]
      at_ .inside i (.zero false) (if t.isZero then .zero false else t)

/-! ## A cell (R345) -/

/-- The coefficients c_i to c_{i+D} that a placed argument reads of a cell. -/
def Placed.coefs (p : Placed) (d : Nat) (cs : List Num) : List Num := (cs.drop p.i).take (d + 1)

/-- f of R345. -/
def cellF (p : Placed) (cs : List Num) : Num := numSum (List.zipWith mulNum cs p.b)
/-- d of R345. -/
def cellD (p : Placed) (cs : List Num) : Num :=
  numSum (List.zipWith (fun (x : Num × Num) w => mulNum (numSum [x.2, x.1.neg]) w) (cs.zip (cs.drop 1)) p.w)

/-- The argument lies outside the grid and the register's rule makes its cells zero, or flat. -/
def Placed.out (p : Placed) (k : Knot) (mode : Nat) : Bool := (p.cls == .low || p.cls == .high) && k.mode == mode

/-- The argument's cells read their coefficients for a value. -/
def Placed.reads (p : Placed) (k : Knot) : Bool := p.cls != .nan && !p.out k 2
/-- The argument's cells read their coefficients for a derivative. -/
def Placed.readsSlope (p : Placed) (k : Knot) : Bool := p.cls == .inside || p.out k 1

/-- The cell value, as FP32 bits, with its conditions (R345, R348). `cs` are c_i to c_{i+D}. -/
def Knot.cell (k : Knot) (p : Placed) (cs : List Num) : Nat × Conds :=
  if p.cls == .nan then (Fmt.f32.nan, 0)
  else if p.out k 2 then (0, 0)
  else
    let f := cellF p cs
    let x :=
      if p.out k 1 then
        let d := cellD p cs
        if p.beyond.isInf then
          (if d.isNan then .nan else if d.isZero then f else .inf (d.isNeg != p.beyond.isNeg))
        else numSum [f, mulNum d p.beyond]
      else f
    let r := round .f32 Mode.rne x.exact
    (r.1, r.2 ||| (if x.isNan && !cs.any Num.isNan then cINV else 0))

/-- The cell derivative, exact, and INV if a NaN arises in it (R345, R348). -/
def Knot.dcell (k : Knot) (p : Placed) (cs : List Num) : Num × Conds :=
  if p.cls == .nan then (.nan, 0)
  else if !p.readsSlope k then (.zero false, 0)
  else
    let d := cellD p cs
    (mulNum k.hinv d, if d.isNan && !cs.any Num.isNan then cINV else 0)

/-- The weight on c_p (R345). -/
def Knot.wgt (k : Knot) (p : Placed) (q : Nat) : Num :=
  let z : Num := .zero false
  if p.cls == .nan then .nan
  else if p.out k 2 then z
  else
    let b := if p.i ≤ q then p.b.getD (q - p.i) z else z
    if p.out k 1 then
      let lo := if p.i + 1 ≤ q then p.w.getD (q - p.i - 1) z else z
      let hi := if p.i ≤ q then p.w.getD (q - p.i) z else z
      let fac := numSum [lo, hi.neg]
      if fac.isZero then b
      else if p.beyond.isInf then .inf (fac.isNeg != p.beyond.isNeg)
      else numSum [b, mulNum p.beyond fac]
    else b

/-! ## The sums (R348, R353) -/

/-- A block of terms summed with one rounding and added to an element; `nans` says that a NaN was among the inputs
(R348, R353). -/
def splineAdd (acc : Nat) (terms : List Num) (nans : Bool) : Nat × Conds :=
  let s := numSum terms
  let r := round .f32 Mode.rne s.exact
  let x := accAdd Mode.rne acc r.1
  (x.1, x.2 ||| r.2 ||| (if s.isNan && !nans then cINV else 0))

/-- The elements of a tile after a sum, and its conditions. -/
def joinTile (l : List (Nat × Conds)) : List Nat × Conds := (l.map (·.1), l.foldl (fun w x => w ||| x.2) 0)

/-- SPLEV: `args` by row m and k, `cells` the coefficients by k and n (R353). -/
def Knot.evalTile (k : Knot) (tile : List Nat) (args : List (List Placed)) (cells : List (List (List Num))) :
    List Nat × Conds :=
  let byN := columns 32 cells
  let sums := args.flatMap fun row => byN.map fun col =>
    List.zipWith (fun p cs => k.cell p (p.coefs k.d cs)) row col
  joinTile (List.zipWith (fun acc (vs : List (Nat × Conds)) =>
    let ns := vs.map fun v => Fmt.f32.decode v.1
    let r := splineAdd acc ns (ns.any Num.isNan)
    (r.1, vs.foldl (fun w v => w ||| v.2) r.2)) tile sums)

/-- SPLDR: `grads` by row m and n (R353). -/
def Knot.slopeTile (k : Knot) (tile : List Nat) (args : List (List Placed)) (cells : List (List (List Num)))
    (grads : List (List Num)) : List Nat × Conds :=
  let sums := (args.zip grads).flatMap fun (row, g) =>
    List.zipWith (fun p (cs : List (List Num)) =>
      let ds := cs.map fun c => k.dcell p (p.coefs k.d c)
      (List.zipWith (fun g (d : Num × Conds) => mulNum g d.1) g ds,
       g.any Num.isNan || ds.any (·.1.isNan), ds.foldl (fun w d => w ||| d.2) 0)) row cells
  joinTile (List.zipWith (fun acc (x : List Num × Bool × Conds) =>
    let r := splineAdd acc x.1 x.2.1
    (r.1, r.2 ||| x.2.2)) tile sums)

/-- SPLGR: the tile of plane p (R353). -/
def Knot.gradTile (k : Knot) (tile : List Nat) (args : List (List Placed)) (grads : List (List Num)) (p : Nat) :
    List Nat × Conds :=
  let wByK := columns 32 (args.map fun row => row.map fun a => k.wgt a p)
  let gByN := columns 32 grads
  let sums := wByK.flatMap fun ws => gByN.map fun gs => (ws, gs)
  joinTile (List.zipWith (fun acc (x : List Num × List Num) =>
    splineAdd acc (List.zipWith mulNum x.2 x.1) (x.1.any Num.isNan || x.2.any Num.isNan)) tile sums)

/-- A counter of a knot-grid register grows, saturating (R342, R343). -/
def satCount (old n : Nat) : Nat := min (old + n) (2 ^ 32 - 1)

/-- The register counts the arguments placed (R343). -/
def Knot.count (k : Knot) (args : List (List Placed)) : Knot :=
  let n (c : ArgClass) : Nat := ((args.flatMap id).filter fun p => p.cls == c).length
  { k with w2 := (BitVec.ofNat 32 (satCount (slice k.w2 32 32) (n .high)) : BitVec 32) ++
      BitVec.ofNat 32 (satCount (slice k.w2 0 32) (n .low)) }

/-! ## Refinement (R354) -/

/-- The multiples of c_s, c_{s+1} and c_{s+2} in the new coefficient of index q, with the power of two they are divided
by (R354). -/
def refineRow (d q : Nat) : List Int × Int :=
  match d, q % 2 with
  | 1, 0 => ([1], 0)
  | 1, _ => ([1, 1], -1)
  | 2, 0 => ([3, 1], -2)
  | 2, _ => ([1, 3], -2)
  | _, 0 => ([1, 1], -1)
  | _, _ => ([1, 6, 1], -3)

/-- New coefficient q of a cell, as BF16 bits, with its conditions (R354). -/
def refineCell (d q : Nat) (cs : List Num) : Nat × Conds :=
  let row := refineRow d q
  let ins := (cs.drop (q / 2)).take row.1.length
  let x := (numSum (List.zipWith (fun c k => mulNum c (intNum k)) ins row.1)).scaleBy row.2
  let f := round .f32 Mode.rne x.exact
  let b := round .bf16 Mode.rne (Fmt.f32.decode f.1).exact
  (b.1, f.2 ||| b.2 ||| (if x.isNan && !ins.any Num.isNan then cINV else 0))

/-- The register after a refinement: G doubled, HINV doubled (R354). -/
def Knot.refined (k : Knot) : Knot :=
  let h := (round .f32 Mode.rne (k.hinv.scaleBy 1).exact).1
  { k with w0 := (BitVec.ofNat 32 h : BitVec 32) ++ BitVec.ofNat 32 (slice k.w0 0 32)
           w1 := (k.w1 &&& ~~~0x3F#64) ||| BitVec.ofNat 64 (2 * k.g) }

/-- A register that SPLRF refuses (R354). -/
def Knot.noRefine (k : Knot) : Bool :=
  k.g == 0 || decide (16 < k.g) || ((round .f32 Mode.rne (k.hinv.scaleBy 1).exact).2 &&& cOVF != 0)

end Sys2Proof.Machine
end

