-- ==== Sys2Proof/Machine/Spline.lean ====
section
/-! DEFINITION. Issuing spline instructions: the checks of R319 and R346 and what an accepted instruction holds (R346 to
R353). They are performed by the matrix engine. -/

namespace Sys2Proof.Machine

open Sys2Proof

/-! ## The shared checks (R319, R342, R346) -/

/-- Knot-grid register `k` is the team's (R342). -/
def State.hasKnot (s : State) (r : Ref) (k : Nat) : Bool := decide (k < (s.halfOf r).knots.length)

/-- Steps 1 to 3 of R319 for a spline instruction: its indices are good (`idx`), its team's storage is its own, its
operands are not poisoned (`bad`), the team has a vitrine, then the rest. -/
def State.splineHead (s : State) (r : Ref) (idx bad : Bool) (rest : Verdict) : Verdict :=
  if !idx then .fail (illegalFault rRange)
  else if s.accOwned r then .fail (s.ownerFault r)
  else if bad then .fail poisonFault
  else if (s.halfOf r).vit.isNone then .fail (illegalFault rValue)
  else rest

/-! ## SPLKG, SPLKQ (R350, R351) -/

/-- A block of SPLKG that R350 refuses by value. -/
def badKnot (x0 hinv ctl zero : BitVec 32) : Bool :=
  let x := Fmt.f32.decode x0.toNat
  let h := Fmt.f32.decode hinv.toNat
  let g := (ctl.extractLsb' 0 6).toNat
  x.isNan || x.isInf || h.isNan || h.isInf || h.isZero || h.isNeg || g == 0 || decide (32 < g) ||
    ctl.extractLsb' 6 2 == 0 || ctl.extractLsb' 8 2 == 3 || ctl.extractLsb' 10 22 != 0 || zero != 0

/-- SPLKG: the values are read at issue (R350). A poisoned source stops it ahead of the value and tag checks. -/
def execSplkg (g : BitVec 3) (x : BitVec 5) (y : BitVec 6) (s : State) : Host.Outcome State Fault Refusal :=
  .next (
    let i : Instr := .splkg g x y
    s.collective i (fun r =>
      let t := s.thr r
      let w := t.blockWord y.toNat
      s.splineHead r (s.hasKnot r x.toNat) (t.poisoned [u4 y]) (
        if badKnot (w 0) (w 1) (w 2) (w 3) then .fail (illegalFault rValue)
        else s.engineStall i [] r (
          if t.blockTag y.toNat 0 = tagF32 ∧ t.blockTag y.toNat 1 = tagF32 then .run else .fail (plainFault .format))))
      fun s1 rs =>
      match rs with
      | [] => s1
      | r :: _ =>
        let w := (s.thr r).blockWord y.toNat
        s1.accept { s.entryOf i r with arg := w 1 ++ w 0, arg2 := (w 2).setWidth 64 })

/-- What a word that its issuer must wait for does: accepted once as entry `s.stamp` of the engine, it is over when the
engine no longer holds that entry (R351, R388). -/
def State.heldVerdict (s : State) (own : Ref → Verdict) (r : Ref) : Verdict :=
  match (s.thr r).wait with
  | some (.engine id) => if s.engine.any fun e => e.id == id then .wait (.engine id) else .run
  | _ =>
    match own r with
    | .run => .wait (.engine s.stamp)
    | v => v

/-- A word that the engine holds its issuer for: on its first issue its threads wait, and the entry is accepted. -/
def State.heldWord (s : State) (i : Instr) (own : Ref → Verdict) (entry : Ref → MEntry) : State :=
  let v := s.judgeAll i (s.heldVerdict own)
  let s1 := s.perform v fun a _ => a
  match s.active i with
  | [] => s1
  | r :: _ => if v r = .wait (.engine s.stamp) then s1.accept (entry r) else s1

/-- SPLKQ: its result is written when it is performed (R351). -/
def execSplkq (g : BitVec 3) (x : BitVec 5) (y : BitVec 6) (s : State) : Host.Outcome State Fault Refusal :=
  .next (
    let i : Instr := .splkq g x y
    s.heldWord i (fun r => s.splineHead r (s.hasKnot r x.toNat) false (s.engineStall i [] r .run)) (s.entryOf i))

/-! ## SPLLD, SPLST (R352) -/

/-- Plane operands that R352 accepts. -/
def planesOk (x z : BitVec 6) : Bool := decide (x.toNat ≤ 35) && decide (1 ≤ z.toNat) && decide (x.toNat + z.toNat ≤ 36)

/-- FORMAT, SCRATCH_BOUNDS and ERR of a slot of planes (R352). -/
def planeSlot (sl : Slot) (z : BitVec 6) (rest : Verdict) : Verdict :=
  if sl.fmt ≠ tagBF16 then .fail (plainFault .format)
  else if sl.len < 2048 * z.toNat then .fail { cause := .scratchBounds }
  else rest

/-- SPLLD (R352). -/
def execSplld (g : BitVec 3) (x y z : BitVec 6) (s : State) : Host.Outcome State Fault Refusal :=
  .next (
    let i : Instr := .splld g x y z
    s.engineWord i (fun r =>
      let sl := (s.halfOf r).slots.getD y.toNat default
      s.splineHead r (s.inTables r [] [y.toNat] && planesOk x z) false (
        match s.notReady r [y.toNat] with
        | some n => .wait (.slotReady n (s.slotNow r n))
        | none => s.engineStall i [] r (planeSlot sl z (if sl.err then .fail poisonFault else .run)))) [y.toNat])

/-- SPLST: a producer of slot Y (R352). -/
def execSplst (g : BitVec 3) (x y z : BitVec 6) (s : State) : Host.Outcome State Fault Refusal :=
  .next (
    let i : Instr := .splst g x y z
    s.collective i (fun r =>
      let sl := (s.halfOf r).slots.getD y.toNat default
      s.splineHead r (s.inTables r [] [y.toNat] && planesOk x z) false (
        if sl.state ≠ .filling then .wait (.slotFilling y.toNat (s.slotNow r y.toNat)) else s.engineStall i [] r (planeSlot sl z .run)))
      fun s1 rs =>
      match rs with
      | [] => s1
      | r :: _ =>
        (s1.accept (s.entryOf i r)).modSlot r.team (s.thr r).half y.toNat fun sl => sl.produce (s.thr r).group)

/-! ## SPLEV, SPLDR, SPLGR, SPLRF (R348, R353, R354) -/

/-- Bytes of a 32 × 32 array in a slot FMT that R348 takes, or none. -/
def gridBytes (t : Tag) : Option Nat := if t = tagF32 then some 4096 else if t = tagBF16 then some 2048 else none

/-- The checks of an evaluation on tile `x` and `slots` (R319, R348, R353). -/
def State.gridCheck (s : State) (i : Instr) (x k : Nat) (slots : List Nat) (r : Ref) : Verdict :=
  let h := s.halfOf r
  let sl := slots.map fun n => h.slots.getD n default
  let tag := (h.tiles.getD x default).tag
  s.splineHead r (s.inTables r [x] slots && s.hasKnot r k) false (
    match s.notReady r slots with
    | some n => .wait (.slotReady n (s.slotNow r n))
    | none =>
      s.engineStall i [x] r (
        if (sl.any fun y => (gridBytes y.fmt).isNone) || !tileTakes tag tagF32 then .fail (plainFault .format)
        else if sl.any fun y => decide (y.len < (gridBytes y.fmt).getD 0) then .fail { cause := .scratchBounds }
        else if (sl.any fun y => y.err) || tag == tagPOISON then .fail poisonFault else .run))

/-- SPLEV (R353). -/
def execSplev (g : BitVec 3) (x y : BitVec 6) (z : BitVec 5) (s : State) : Host.Outcome State Fault Refusal :=
  .next (
    let i : Instr := .splev g x y z
    s.engineWord i (s.gridCheck i x.toNat z.toNat [y.toNat]) [y.toNat])

/-- SPLDR (R353). -/
def execSpldr (g : BitVec 3) (x y : BitVec 6) (z : BitVec 5) (s : State) : Host.Outcome State Fault Refusal :=
  .next (
    let i : Instr := .spldr g x y z
    s.engineWord i (s.gridCheck i x.toNat z.toNat [y.toNat, y.toNat + 1]) [y.toNat, y.toNat + 1])

/-- SPLGR (R353). -/
def execSplgr (g : BitVec 3) (x y : BitVec 6) (z : BitVec 5) (s : State) : Host.Outcome State Fault Refusal :=
  .next (
    let i : Instr := .splgr g x y z
    s.engineWord i (s.gridCheck i x.toNat z.toNat [y.toNat, y.toNat + 1]) [y.toNat, y.toNat + 1])

/-- SPLRF (R354). -/
def execSplrf (g : BitVec 3) (x : BitVec 5) (s : State) : Host.Outcome State Fault Refusal :=
  .next (
    let i : Instr := .splrf g x
    s.engineWord i (fun r => s.splineHead r (s.hasKnot r x.toNat) false (s.engineStall i [] r .run)) [])

end Sys2Proof.Machine
end

