-- ==== Sys2Proof/Machine/Acc.lean ====
section
/-! DEFINITION. Issuing ACCSAVE, ACCREST and their .V forms (R105, R374, R388). The matrix engine performs them. -/

namespace Sys2Proof.Machine

open Sys2Proof

/-- Bytes of a tile record (R388). -/
def tileRecord : Nat := 4224
/-- Bytes of a vitrine record (R388). -/
def vitRecord : Nat := 74624

/-- The half of a team that lies on a core. -/
def State.halfOn (s : State) (t core : Nat) : Nat := ((s.team t).halves.findIdx? fun h => h.core == core).getD 0

/-- The source of a save by a team's half: the storage of the core's owner when the team shares its held set, else its
own; as the team and half that hold it (R388). -/
def State.accSource (s : State) (t h : Nat) : Nat × Nat :=
  let core := (s.half t h).core
  let c := s.core core
  match c.ownerTeam with
  | some o => if (s.half t h).shares && c.held && c.owner != (s.team t).ctxid then (o, s.halfOn o core) else (t, h)
  | none => (t, h)

/-- A range of a thread translated page by page: the parts that the engine entry keeps, or what stops the first page
that fails (R388). -/
def State.transRange (s : State) (r : Ref) (need : Need) (acc : BitVec 3) : Nat → BitVec 64 → Nat →
    Except Verdict (List (Nat × Nat × Bool))
  | 0, _, _ => .ok []
  | fuel + 1, va, n =>
    if n = 0 then .ok []
    else
      let k := firstPart va n
      match s.transPart r va k need acc with
      | .fault f => .error (.fail f)
      | .walk => .error (.wait (.walk va need.rd need.wr need.ex))
      | .ok l pa =>
        match s.transRange r need acc fuel (addNat va k) (n - k) with
        | .error e => .error e
        | .ok ps => .ok ((k, pa, l.plinth) :: ps)

/-- Translation of a record at the address in pair Y: WR for a save, RD for a restore (R388). -/
def State.recordParts (s : State) (r : Ref) (y : BitVec 6) (save : Bool) (n : Nat) :
    Except Verdict (List (Nat × Nat × Bool)) :=
  s.transRange r { rd := !save, wr := save } (if save then 2 else 1) 3 ((s.thr r).pairVal y.toNat) n

/-- The checks of a context instruction: its tile, below the tiles of source and target, ACC_OWNER for a restore, its address, the engine's room, its thread's
earlier accesses, then translation (R319, R388). -/
def State.accCheck (s : State) (i : Instr) (tile : Option Nat) (y : BitVec 6) (save : Bool) (n : Nat) (r : Ref) : Verdict :=
  let t := s.thr r
  let src := s.accSource r.team t.half
  let tiles := min (s.half src.1 src.2).tiles.length (s.halfOf r).tiles.length
  let va := t.pairVal y.toNat
  if tile.any fun x => decide (tiles ≤ x) then .fail (illegalFault rRange)
  else if !save && s.accOwned r then .fail (s.ownerFault r)
  else if t.poisoned [u2 y] then .fail poisonFault
  else if va.toNat % 128 ≠ 0 then .fail { cause := .misaligned, acc := if save then 2 else 1, va := va }
  else s.engineStall i [] r (
    if !s.allPerformed r true then .wait .performed
    else match s.recordParts r y save n with
      | .error e => e
      | .ok _ => .run)

/-- A context instruction: held until the engine has performed it (R388). -/
def State.accWord (s : State) (i : Instr) (tile : Option Nat) (y : BitVec 6) (save : Bool) (n : Nat) : State :=
  s.heldWord i (s.accCheck i tile y save n) fun r =>
    { s.entryOf i r with
      arg := (s.thr r).pairVal y.toNat
      parts := match s.recordParts r y save n with
        | .ok ps => ps
        | .error _ => [] }

/-- ACCSAVE (R388). -/
def execAccsave (g : BitVec 3) (x y : BitVec 6) (s : State) : Host.Outcome State Fault Refusal :=
  .next (s.accWord (.accsave g x y) (some x.toNat) y true tileRecord)
/-- ACCREST (R388). -/
def execAccrest (g : BitVec 3) (x y : BitVec 6) (s : State) : Host.Outcome State Fault Refusal :=
  .next (s.accWord (.accrest g x y) (some x.toNat) y false tileRecord)
/-- ACCSAVE.V (R388). -/
def execAccsaveV (g : BitVec 3) (y : BitVec 6) (s : State) : Host.Outcome State Fault Refusal :=
  .next (s.accWord (.accsaveV g y) none y true vitRecord)
/-- ACCREST.V (R388). -/
def execAccrestV (g : BitVec 3) (y : BitVec 6) (s : State) : Host.Outcome State Fault Refusal :=
  .next (s.accWord (.accrestV g y) none y false vitRecord)

end Sys2Proof.Machine
end

