-- ==== Sys2Proof/Machine/Image.lean ====
section
/-! DEFINITION. Firmware images: SHA-384, ECDSA over brainpoolP384r1 and the checks of the boot ROM (R415, R416; the
parameters of the hash and of the curve are those of their public standards, log 20). -/

namespace Sys2Proof.Machine

open Sys2Proof

/-! ## SHA-384 (R416) -/

/-- Round constants 0 to 7 of SHA-384 (log 20). -/
def shaK0 : List (BitVec 64) :=
  [0x428a2f98d728ae22, 0x7137449123ef65cd, 0xb5c0fbcfec4d3b2f, 0xe9b5dba58189dbbc,
   0x3956c25bf348b538, 0x59f111f1b605d019, 0x923f82a4af194f9b, 0xab1c5ed5da6d8118]
/-- Round constants 8 to 15 of SHA-384 (log 20). -/
def shaK1 : List (BitVec 64) :=
  [0xd807aa98a3030242, 0x12835b0145706fbe, 0x243185be4ee4b28c, 0x550c7dc3d5ffb4e2,
   0x72be5d74f27b896f, 0x80deb1fe3b1696b1, 0x9bdc06a725c71235, 0xc19bf174cf692694]
/-- Round constants 16 to 23 of SHA-384 (log 20). -/
def shaK2 : List (BitVec 64) :=
  [0xe49b69c19ef14ad2, 0xefbe4786384f25e3, 0x0fc19dc68b8cd5b5, 0x240ca1cc77ac9c65,
   0x2de92c6f592b0275, 0x4a7484aa6ea6e483, 0x5cb0a9dcbd41fbd4, 0x76f988da831153b5]
/-- Round constants 24 to 31 of SHA-384 (log 20). -/
def shaK3 : List (BitVec 64) :=
  [0x983e5152ee66dfab, 0xa831c66d2db43210, 0xb00327c898fb213f, 0xbf597fc7beef0ee4,
   0xc6e00bf33da88fc2, 0xd5a79147930aa725, 0x06ca6351e003826f, 0x142929670a0e6e70]
/-- Round constants 32 to 39 of SHA-384 (log 20). -/
def shaK4 : List (BitVec 64) :=
  [0x27b70a8546d22ffc, 0x2e1b21385c26c926, 0x4d2c6dfc5ac42aed, 0x53380d139d95b3df,
   0x650a73548baf63de, 0x766a0abb3c77b2a8, 0x81c2c92e47edaee6, 0x92722c851482353b]
/-- Round constants 40 to 47 of SHA-384 (log 20). -/
def shaK5 : List (BitVec 64) :=
  [0xa2bfe8a14cf10364, 0xa81a664bbc423001, 0xc24b8b70d0f89791, 0xc76c51a30654be30,
   0xd192e819d6ef5218, 0xd69906245565a910, 0xf40e35855771202a, 0x106aa07032bbd1b8]
/-- Round constants 48 to 55 of SHA-384 (log 20). -/
def shaK6 : List (BitVec 64) :=
  [0x19a4c116b8d2d0c8, 0x1e376c085141ab53, 0x2748774cdf8eeb99, 0x34b0bcb5e19b48a8,
   0x391c0cb3c5c95a63, 0x4ed8aa4ae3418acb, 0x5b9cca4f7763e373, 0x682e6ff3d6b2b8a3]
/-- Round constants 56 to 63 of SHA-384 (log 20). -/
def shaK7 : List (BitVec 64) :=
  [0x748f82ee5defb2fc, 0x78a5636f43172f60, 0x84c87814a1f0ab72, 0x8cc702081a6439ec,
   0x90befffa23631e28, 0xa4506cebde82bde9, 0xbef9a3f7b2c67915, 0xc67178f2e372532b]
/-- Round constants 64 to 71 of SHA-384 (log 20). -/
def shaK8 : List (BitVec 64) :=
  [0xca273eceea26619c, 0xd186b8c721c0c207, 0xeada7dd6cde0eb1e, 0xf57d4f7fee6ed178,
   0x06f067aa72176fba, 0x0a637dc5a2c898a6, 0x113f9804bef90dae, 0x1b710b35131c471b]
/-- Round constants 72 to 79 of SHA-384 (log 20). -/
def shaK9 : List (BitVec 64) :=
  [0x28db77f523047d84, 0x32caab7b40c72493, 0x3c9ebe0a15c9bebc, 0x431d67c49c100d4c,
   0x4cc5d4becb3e42b6, 0x597f299cfc657e2a, 0x5fcb6fab3ad6faec, 0x6c44198c4a475817]
/-- Initial hash words of SHA-384 (log 20). -/
def shaInit : List (BitVec 64) :=
  [0xcbbb9d5dc1059ed8, 0x629a292a367cd507, 0x9159015a3070dd17, 0x152fecd8f70e5939,
   0x67332667ffc00b31, 0x8eb44a8768581511, 0xdb0c2e0d64f98fa7, 0x47b5481dbefa4fa4]

/-- The 80 round constants. -/
def shaConsts : List (BitVec 64) :=
  shaK0 ++ shaK1 ++ shaK2 ++ shaK3 ++ shaK4 ++ shaK5 ++ shaK6 ++ shaK7 ++ shaK8 ++ shaK9

/-- A number from bytes, most significant first. -/
def ofBe (bs : List Byte) : Nat := bs.foldl (fun a b => 256 * a + b.toNat) 0
/-- The `n` low bytes of a number, most significant first. -/
def beBytes (n v : Nat) : List Byte := (leBytes n v).reverse

/-- The word that a message schedule takes next; the latest stands first. -/
def shaNext (w : List (BitVec 64)) : BitVec 64 :=
  let x := w.getD 1 0
  let y := w.getD 14 0
  (x.rotateRight 19 ^^^ x.rotateRight 61 ^^^ (x >>> 6)) + w.getD 6 0 +
    (y.rotateRight 1 ^^^ y.rotateRight 8 ^^^ (y >>> 7)) + w.getD 15 0

/-- A schedule with `n` more words. -/
def shaGrow : Nat → List (BitVec 64) → List (BitVec 64)
  | 0, w => w
  | n + 1, w => shaGrow n (shaNext w :: w)

/-- One round, on the eight working words. -/
def shaRound (h : List (BitVec 64)) (kw : BitVec 64 × BitVec 64) : List (BitVec 64) :=
  match h with
  | [a, b, c, d, e, f, g, x] =>
    let t1 := x + (e.rotateRight 14 ^^^ e.rotateRight 18 ^^^ e.rotateRight 41) + ((e &&& f) ^^^ (~~~e &&& g)) + kw.1 + kw.2
    let t2 := (a.rotateRight 28 ^^^ a.rotateRight 34 ^^^ a.rotateRight 39) + ((a &&& b) ^^^ (a &&& c) ^^^ (b &&& c))
    [t1 + t2, a, b, c, d + t1, e, f, g]
  | _ => h

/-- The 16 words of a block. -/
def shaWords (block : List Byte) : List (BitVec 64) :=
  (List.range 16).map fun j => BitVec.ofNat 64 (ofBe ((block.drop (8 * j)).take 8))

/-- The hash words after one block. -/
def shaBlock (h : List (BitVec 64)) (block : List Byte) : List (BitVec 64) :=
  let w := (shaGrow 64 (shaWords block).reverse).reverse
  (List.zipWith (· + ·) h ((shaConsts.zip w).foldl shaRound h))

/-- A message with its padding to whole blocks. -/
def shaPad (m : List Byte) : List Byte :=
  m ++ [0x80#8] ++ List.replicate ((239 - m.length % 128) % 128) 0#8 ++ beBytes 16 (8 * m.length)

/-- The hash words after `n` blocks. -/
def shaBlocks : Nat → List Byte → List (BitVec 64) → List (BitVec 64)
  | 0, _, h => h
  | n + 1, m, h => shaBlocks n (m.drop 128) (shaBlock h (m.take 128))

/-- SHA-384 of a message, its first byte most significant. -/
def sha384 (m : List Byte) : BitVec 384 :=
  let p := shaPad m
  BitVec.ofNat 384 (ofBe (((shaBlocks (p.length / 128) p shaInit).take 6).flatMap fun w => beBytes 8 w.toNat))

/-! ## ECDSA over brainpoolP384r1 (R416) -/

/-- The curve's field prime (log 20). -/
def bpP : Nat := 0x8CB91E82A3386D280F5D6F7E50E641DF152F7109ED5456B412B1DA197FB71123ACD3A729901D1A71874700133107EC53
/-- Coefficient A (log 20). -/
def bpA : Nat := 0x7BC382C63D8C150C3C72080ACE05AFA0C2BEA28E4FB22787139165EFBA91F90F8AA5814A503AD4EB04A8C7DD22CE2826
/-- Coefficient B (log 20). -/
def bpB : Nat := 0x04A8C7DD22CE28268B39B55416F0447C2FB77DE107DCD2A62E880EA53EEB62D57CB4390295DBC9943AB78696FA504C11
/-- Base point, x (log 20). -/
def bpGx : Nat := 0x1D1C64F068CF45FFA2A63A81B7C13F6B8847A3E77EF14FE3DB7FCAFE0CBD10E8E826E03436D646AAEF87B2E247D4AF1E
/-- Base point, y (log 20). -/
def bpGy : Nat := 0x8ABE1D7520F9C2A45CB1EB8E95CFD55262B70B29FEEC5864E19C054FF99129280E4646217791811142820341263C5315
/-- Order of the base point (log 20). -/
def bpQ : Nat := 0x8CB91E82A3386D280F5D6F7E50E641DF152F7109ED5456B31F166E6CAC0425A7CF3AB6AF6B7FC3103B883202E9046565

/-- A power to a modulus; `fuel` bounds the bits of the exponent. -/
def powMod (m : Nat) : Nat → Nat → Nat → Nat
  | 0, _, _ => 1
  | fuel + 1, b, e =>
    if e = 0 then 1
    else
      let r := powMod m fuel (b * b % m) (e / 2)
      if e % 2 = 1 then b * r % m else r

/-- The inverse of a number to a prime modulus of 384 bits. -/
def invMod (m a : Nat) : Nat := powMod m 384 (a % m) (m - 2)

/-- A point of the curve; `none` is the point at infinity. -/
abbrev Point := Option (Nat × Nat)

/-- The third point of a line with slope `l` through points with abscissas `x1`, `x2`, mirrored. -/
def chord (l x1 y1 x2 : Nat) : Nat × Nat :=
  let x := (l * l + (bpP - x1) + (bpP - x2)) % bpP
  (x, (l * (x1 + (bpP - x)) + (bpP - y1)) % bpP)

/-- The group law of the curve. -/
def pointAdd : Point → Point → Point
  | none, q => q
  | p, none => p
  | some (x1, y1), some (x2, y2) =>
    if x1 = x2 then
      if (y1 + y2) % bpP = 0 then none
      else some (chord ((3 * x1 * x1 + bpA) * invMod bpP (2 * y1) % bpP) x1 y1 x1)
    else some (chord ((y2 + (bpP - y1)) * invMod bpP (x2 + (bpP - x1)) % bpP) x1 y1 x2)

/-- A multiple of a point; `fuel` bounds the bits of the factor. -/
def pointMul : Nat → Nat → Point → Point
  | 0, _, _ => none
  | fuel + 1, k, p =>
    if k = 0 then none
    else
      let r := pointMul fuel (k / 2) (pointAdd p p)
      if k % 2 = 1 then pointAdd p r else r

/-- A point's coordinates are in the field and satisfy the curve's equation. -/
def onCurve (x y : Nat) : Bool :=
  decide (x < bpP) && decide (y < bpP) && decide (y * y % bpP = (x * x * x + bpA * x + bpB) % bpP)

/-- A signature of a digest verifies under a public key. -/
def ecdsaOk (digest : Nat) (x y r s : Nat) : Bool :=
  onCurve x y && decide (0 < r) && decide (r < bpQ) && decide (0 < s) && decide (s < bpQ) &&
    (let w := invMod bpQ s
     match pointAdd (pointMul 384 (digest * w % bpQ) (some (bpGx, bpGy))) (pointMul 384 (r * w % bpQ) (some (x, y))) with
     | none => false
     | some (vx, _) => decide (vx % bpQ = r))

/-! ## Images (R415, R416) -/

/-- A header word of an image. -/
def imgWord (img : List Byte) (off : Nat) : Nat := ofLe ((img.drop off).take 4)
/-- SVN, KEYSLOT and BODYLEN of an image (R415). -/
def imgSvn (img : List Byte) : Nat := imgWord img 8
/-- KEYSLOT of an image (R415). -/
def imgKeySlot (img : List Byte) : Nat := imgWord img 12
/-- BODYLEN of an image (R415). -/
def imgBodyLen (img : List Byte) : Nat := imgWord img 0x14
/-- PUBKEY of an image (R415). -/
def imgKey (img : List Byte) : List Byte := (img.drop 0x20).take 97
/-- The digest that an image's signature covers: header and body (R416). -/
def imgDigest (img : List Byte) : BitVec 384 := sha384 (img.take (256 + imgBodyLen img))

/-- The first check of R416: the constants, the zero fields and the ranges of R415 (log 21). -/
def imgFormat (img : List Byte) : Bool :=
  decide (352 ≤ img.length) && decide (img.length = 352 + imgBodyLen img) && decide (imgWord img 0 = 0x4C583946) &&
    decide (imgWord img 4 = 1) && decide (imgSvn img ≤ 64) && decide (imgKeySlot img ≤ 3) &&
    decide (imgWord img 0x10 % 4 = 0) && decide (imgWord img 0x10 + imgBodyLen img ≤ 262144) &&
    decide (imgWord img 0x18 < imgBodyLen img) && decide (imgWord img 0x1C = 0) &&
    (img.drop 0x20).head? == some 4 && ((img.drop 0x81).take 127).all (· == 0)

/-- The checks of R416 in order: 0 accepted, 1 FORMAT, 2 KEY, 3 SIGNATURE, 4 ROLLBACK. `keys` are the fused key hashes,
`revoked` has a bit per blown revocation fuse. -/
def imgCheck (keys : List (BitVec 384)) (revoked : BitVec 4) (fuses : Nat) (img : List Byte) : Nat :=
  let k := imgKeySlot img
  let sig := img.drop (256 + imgBodyLen img)
  if !imgFormat img then 1
  else if sha384 (imgKey img) ≠ keys.getD k 0 ∨ revoked.getLsbD k = true then 2
  else if !ecdsaOk (imgDigest img).toNat (ofBe ((imgKey img).drop 1 |>.take 48)) (ofBe ((imgKey img).drop 49))
      (ofBe (sig.take 48)) (ofBe ((sig.drop 48).take 48)) then 3
  else if imgSvn img < fuses then 4
  else 0

end Sys2Proof.Machine
end

