-- ==== Sys2Proof/Machine/Spire.lean ====
section
/-! DEFINITION. Slices and galleries that leave and return: router and gallery failures, spire power (R81 to R84, R88,
R89). -/

namespace Sys2Proof.Machine

open Sys2Proof

/-! ## Router failures (R82, R83) -/

/-- A line of the L2 lost with its slice: what HBM holds for it is what remains (R83). -/
def State.loseLine (s : State) (x : L2Line) : State :=
  match x.dirty with
  | none => s
  | some old =>
    { s with mem := writeBytes s.mem x.line old
             poison := x.dirtyBad.foldl (fun p k => setAdd k p) (setDelRange s.poison x.line 128) }

/-- The lines of a slice are lost. -/
def State.loseSlice (s : State) (d k : Nat) : State :=
  let gone := s.l2.filter fun x => x.die == d && x.slice == k
  let s1 := gone.foldl State.loseLine s
  { s1 with l2 := s1.l2.filter fun x => !(x.die == d && x.slice == k) }

/-- A piece is in flight to a slice (R83). -/
def State.inFlightTo (s : State) (d k : Nat) (p : Piece) : Bool :=
  (p.stage == .net || p.stage == .slice || p.stage == .hbm) && spaceOf p.pa == .hbm && dieOfPa p.pa == d &&
    s.homeOf p.pa == some k

/-- A piece as it is lost. -/
def Piece.lose (p : Piece) : Piece := { p with lost := true, stage := (if p.stage = .hbm then .slice else p.stage) }

/-- Accesses and add-on-stores in flight to a slice are lost: they complete with no data and nothing stored (R83). -/
def State.loseFlights (s : State) (d k : Nat) : State :=
  let lost (p : Piece) : Bool := s.inFlightTo d k p
  { s with
    flights := s.flights.map fun f => { f with pieces := f.pieces.map fun p => if lost p then p.lose else p }
    hbmq := s.hbmq.filter fun q => match q.load with
      | .piece n k => !lost ((s.flights.getD n default).pieces.getD k default)
      | _ => true
    reservedLines := s.reservedLines.filter fun p =>
      let c := s.cmds.getD p.2 default
      !(dieOfPa c.pa == d && s.homeOf c.pa == some k)
    cmds := s.cmds.map fun (c : Cmd) =>
      if c.kind = .drain ∧ c.stage = .reserved ∧ dieOfPa c.pa = d ∧ s.homeOf c.pa = some k then { c with stage := .started }
      else c }

/-- The watches on lines whose home was another before are lost (R139). -/
def State.rehashWatches (s old : State) : State :=
  s.endWatches fun _ w => w.line.isSome && s.homeOf w.pa != old.homeOf w.pa

/-- A launch has a resident team. -/
def State.launchResident (s : State) (l : Nat) : Bool :=
  s.teams.any fun t => t.launch == l && (t.status == .placed || t.status == .resident)

/-- Every launch that satisfies a condition ends with a status (R83, R84). -/
def State.endLaunches (s : State) (p : Nat → Bool) (code : BitVec 8) : State :=
  ((List.range s.launches.length).filter p).foldl (fun x l => x.endLaunch l code) s

/-- ROUTER_FAILURE: the slice's router goes into bypass, its dirty lines and the accesses in flight to it are lost, its
buckets move, SLICE_LOST is recorded and launches with resident teams end (R81 to R83). DESIGN CHOICE (log 59): a line that
a surviving slice holds stays there, hit and not lost, though its bucket moves again. -/
def execRouterFailure (die : BitVec 1) (router : BitVec 5) (s : State) : Host.Outcome State Fault Refusal :=
  .next (
    let d := die.toNat
    let k := router.toNat
    let bit : BitVec 32 := BitVec.ofNat 32 (2 ^ k)
    if (s.die d).bypass.getLsbD k then s
    else
      let live := (s.die d).live.getLsbD k
      let s1 := if live then (s.loseFlights d k).loseSlice d k else s
      let s2 := (s1.modDie d fun x => { x with live := x.live &&& ~~~bit, bypass := x.bypass ||| bit }).rehashWatches s
      if live then (s2.errorRecord d 0x10 1 0 0 (BitVec.ofNat 64 k)).endLaunches s.launchResident 0x22 else s2)

/-! ## Gallery failures (R84) -/

/-- A core lies in a gallery, numbered 0 to 15 over both dies (R411). -/
def inGallery (g core : Nat) : Bool := core / 16 == g

/-- A team has a half in a gallery. -/
def Team.inGallery (t : Team) (g : Nat) : Bool :=
  (t.status == .placed || t.status == .resident) && t.halves.any fun h => Machine.inGallery g h.core

/-- A team is lost: its threads end, and nothing that it has queued or buffered on its core goes further, but for the
entries of the groups in `out`, which are under way (R84). -/
def Team.lost (t : Team) (out : List Nat) : Team :=
  { t with
    status := .retired
    threads := t.threads.map fun u => { u with exited := true, wait := none, hint := none }
    groups := t.groups.zipIdx.map fun (p : Group × Nat) =>
      { p.1 with buf := [], draining := if out.contains p.2 then p.1.draining.take 1 else [], reports := [], open_ := false } }

/-- What a gallery holds of a piece is discarded. -/
def Piece.discard (p : Piece) : Piece := { p with stage := .done }

/-- A packet still inside a gallery: at its port to the rotunda. -/
def State.galleryPackets (s : State) (g : Nat) : List Packet :=
  (s.ports.filter fun x => x.id == portId (g / 8) 0 (g % 8)).flatMap (·.fifo)

/-- The accesses that a gallery's cores have queued and not sent into the rotunda are discarded (R84). -/
def State.dropGallery (s : State) (g : Nat) : State :=
  let inside := s.galleryPackets g
  { s with
    ports := s.ports.map fun x => if x.id = portId (g / 8) 0 (g % 8) then { x with fifo := [] } else x
    flights := s.flights.zipIdx.map fun (p : Flight × Nat) =>
      let (f, n) := p
      if !inGallery g f.core then f
      else
        let ps := f.pieces.zipIdx.map fun (q : Piece × Nat) =>
          if q.1.stage = .held ∨ inside.any (fun k => k.load == .piece n q.2) = true then q.1.discard else q.1
        let all := ps.all Piece.performed
        { f with pieces := ps, performed := f.performed || all, returned := f.returned || ps.all fun q => q.stage == .done } }

/-- Some of an access is on its way, past its core's gallery. -/
def Flight.under (f : Flight) : Bool := f.pieces.any fun p => p.stage == .net || p.stage == .slice || p.stage == .hbm

/-- The groups of a team whose oldest committed entry is under way (R84). -/
def State.entriesOut (s : State) (t : Nat) : List Nat :=
  s.flights.filterMap fun f => match f.job with
    | .entry u g => if u = t ∧ f.under = true then some g else none
    | _ => none

/-- A drained tile is under way (R84). -/
def State.drainUnder (s : State) (c : Nat) : Bool := s.flights.any fun f => f.job == .drain c && f.under

/-- GALLERY_FAILURE: the gallery is disabled, what it holds is discarded, its teams are lost and their launches end with
STATE_LOST (R84, R436). -/
def execGalleryFailure (gallery : BitVec 4) (s : State) : Host.Outcome State Fault Refusal :=
  .next (
    let g := gallery.toNat
    let gone (t : Nat) : Bool := (s.team t).inGallery g
    let inside := s.galleryPackets g
    let s1 := s.dropGallery g
    let s2 :=
      { s1 with
        ready := s1.ready &&& ~~~(BitVec.ofNat 64 (2 ^ (16 + g)))
        teams := s1.teams.zipIdx.map fun (p : Team × Nat) => if p.1.inGallery g then p.1.lost (s1.entriesOut p.2) else p.1
        engine := s1.engine.filter fun e => !inGallery g e.core
        cmds := s1.cmds.zipIdx.map fun (p : Cmd × Nat) =>
          if inGallery g p.1.core && !(p.1.kind == CmdKind.drain && s1.drainUnder p.2) then { p.1 with stage := .complete }
          else p.1
        slotReads := s1.slotReads.map fun (x : SlotRead) => if gone x.team then { x with live := false } else x
        messages := s1.messages.zipIdx.map fun (p : Message × Nat) =>
          if inside.any (fun k => k.load == Carried.message p.2) = true then { p.1 with done := true } else p.1
        rings := s1.rings.filter fun x => !inGallery g x.core
        monitors := s1.monitors.filter fun m => !gone m.team
        l1 := s1.l1.filter fun x => !inGallery g x.core
        icache := s1.icache.filter fun x => !inGallery g x.core
        tlb := s1.tlb.filter fun x => !inGallery g x.loc }
    let s3 := s2.errorRecord (g / 8) 0x18 1 0 0 (BitVec.ofNat 64 g)
    s3.endLaunches (fun l => s.teams.any fun t => t.launch == l && t.inGallery g) 0x27)

/-! ## Spire power (R88, R89) -/

/-- The live set with the spires of `off` gone: every slice that is not bypassed and whose spire has power. -/
def liveWith (bypass : BitVec 32) (off : BitVec 8) : BitVec 32 :=
  (List.range 32).foldl (fun m k =>
    if !bypass.getLsbD k && !off.getLsbD (k / 4) then m ||| BitVec.ofNat 32 (2 ^ k) else m) 0

/-- SPIREPWR of a die takes a value: a reserved bit, a change in progress or a die without a live slice refuses it; else
the spires that change are noted, and BUSY rises (R88, R89). BUSY and its value are read-only bits of the write. -/
def State.writeSpirePwr (s : State) (d : Nat) (v : BitVec 32) : Option State :=
  let x := s.die d
  let off : BitVec 8 := v.extractLsb' 0 8
  if v.extractLsb' 9 23 != 0 || x.busy || liveWith x.bypass off == 0 then none
  else
    let changed := (List.range 8).filter fun k => off.getLsbD k != x.off.getLsbD k
    if changed.isEmpty then some s
    else
      some ({ s with spireChange := s.spireChange ++ changed.map fun k => (d, k, !off.getLsbD k) }.modDie d fun y =>
        { y with off := off, busy := true })

/-- Lines of a die's L2 are written back to HBM and leave it. -/
def State.writeBack (s : State) (p : L2Line → Bool) : State := { s with l2 := s.l2.filter fun x => !p x }

/-- The slices of a spire. -/
def spireBits (k : Nat) : BitVec 32 := BitVec.ofNat 32 (15 * 2 ^ (4 * k))

/-- The change of spire `sel2` of die `sel` is in progress and of this direction. -/
def State.spireTurns (s : State) (up : Bool) : Bool := s.spireChange.any fun x => x.1 == s.sel && x.2.1 == s.sel2 && x.2.2 == up

/-- SPIRE_POWER_DOWN of spire `sel2` of die `sel`: its dirty lines are written back, then its buckets move (R81, R89). -/
def execSpirePowerDown (s : State) : Host.Outcome State Fault Refusal :=
  .next (
    if s.spireTurns false then
      let s1 := s.writeBack fun x => x.die == s.sel && x.slice / 4 == s.sel2
      (({ s1 with spireChange := s1.spireChange.map fun (x : Nat × Nat × Bool) => if x.1 = s.sel ∧ x.2.1 = s.sel2 then (x.1, 8, false) else x }.modDie
        s.sel fun x => { x with live := x.live &&& ~~~(spireBits s.sel2) }).rehashWatches s).count 0x510
    else s)

/-- SPIRE_POWER_UP of spire `sel2` of die `sel`: the survivors write back the returning buckets' lines, then the buckets
move back to its empty slices (R81, R89). -/
def execSpirePowerUp (s : State) : Host.Outcome State Fault Refusal :=
  .next (
    if s.spireTurns true then
      let back := s.modDie s.sel fun x => { x with live := x.live ||| (spireBits s.sel2 &&& ~~~x.bypass) }
      let s1 := s.writeBack fun x => x.die == s.sel && (back.homeOf x.pa).any fun k => k / 4 == s.sel2
      ({ s1 with spireChange := s1.spireChange.map fun (x : Nat × Nat × Bool) => if x.1 = s.sel ∧ x.2.1 = s.sel2 then (x.1, 8, true) else x }.modDie
        s.sel fun x => { x with live := x.live ||| (spireBits s.sel2 &&& ~~~x.bypass) }).rehashWatches s
    else s)

/-- SPIRE_POWER_DONE on die `sel`: every spire that was to change has, the held accesses go on and BUSY clears (R89). -/
def execSpirePowerDone (s : State) : Host.Outcome State Fault Refusal :=
  .next (
    if s.spireChange.all fun x => x.1 != s.sel || x.2.1 == 8 then
      { s with spireChange := s.spireChange.filter fun x => x.1 != s.sel }.modDie s.sel fun x => { x with busy := false }
    else s)

end Sys2Proof.Machine
end

