-- ==== Sys2Proof/Machine/Curator.lean ====
section
/-! DEFINITION. Module reset, boot and self-test, the archive, scrubbing, the curator's restarts and Function Level
Reset (R416 to R419, R425, R434, R437, R438, R441). -/

namespace Sys2Proof.Machine

open Sys2Proof

/-! ## Boot and measurement (R416, R419) -/

/-- A slot's image. -/
def Curator.slot (c : Curator) (n : Nat) : List Byte := if n = 0 then c.slotA else c.slotB

/-- An accepted image extends MEAS and adds a log entry, or sets LOGFULL (R419). -/
def Curator.measure (c : Curator) (img : List Byte) (slot : Nat) : Curator :=
  let d := imgDigest img
  let e : LogEntry := { digest := d, svn := imgSvn img, slot := slot, keyslot := imgKeySlot img, fuses := c.fuses }
  { c with
    meas := sha384 (beBytes 48 c.meas.toNat ++ beBytes 48 d.toNat)
    log := if c.log.length < 16 then c.log ++ [e] else c.log
    logFull := c.logFull || decide (16 ≤ c.log.length) }

/-- What the checks of R416 say of an image. -/
def Curator.check (c : Curator) (img : List Byte) : Nat := imgCheck c.keyHash c.revoked c.fuses img

/-- The boot ROM tries slot A and then slot B; BOOTA and BOOTB say why one was refused (R416, R419, R441). -/
def State.boot (s : State) : State :=
  let c := s.curator
  let a := c.check c.slotA
  let b := if a = 0 then 0 else c.check c.slotB
  let s1 := { s with ready := s.ready ||| BitVec.ofNat 64 (a * 2 ^ 32 + b * 2 ^ 35) }
  if a = 0 then { s1 with curator := { c.measure c.slotA 0 with running := some 0 } }
  else if b = 0 then { s1 with curator := { c.measure c.slotB 1 with running := some 1 } }
  else s1.errorRecord 0 0x0D 1 0 0 0

/-! ## Reset and power (R438, R441) -/

/-- What stays of a state when everything volatile in the module is lost: the boot store and fuses, the archive, what was
fixed at manufacture, memory of the host and of peers, and what the outside knows (log 24). -/
def State.cold (s : State) : State :=
  let c := s.curator
  { State.reset with
    curator := { Curator.reset with slotA := c.slotA, slotB := c.slotB, fuses := c.fuses, keyHash := c.keyHash,
                                    revoked := c.revoked }
    dies := s.dies.map fun d => { Die.reset with sPower := d.sPower }
    mem := s.mem.filter fun x => spaceOf x.1 != .hbm
    archive := s.archive
    archiveCommitted := s.archiveCommitted
    contributions := s.contributions
    vectors := s.vectors
    hostReply := s.hostReply
    agenda := s.agenda
    sel := s.sel
    sel2 := s.sel2
    drawn := s.drawn
    stamp := s.stamp }

/-- MODULE_RESET: everything takes its reset value and the boot ROM checks the image slots (R416, R419, R437, R441). -/
def execModuleReset (s : State) : Host.Outcome State Fault Refusal := .next ((s.cold.count 0x508).boot)

/-- The die whose records a READY bit's function writes. -/
def readyDie (bit : Nat) : Nat :=
  if bit = 2 then 1 else if 7 ≤ bit ∧ bit ≤ 10 then 1 else if 24 ≤ bit ∧ bit ≤ 31 then 1 else 0

/-- The router of slice `k` of a die fails its self-test at bring-up: it goes into bypass and its slice leaves the live set
(R82, R88, R441). -/
def State.routerFails (s : State) (d k : Nat) : State :=
  let bit : BitVec 32 := BitVec.ofNat 32 (2 ^ k)
  if (s.die d).bypass.getLsbD k then s
  else
    let s1 := if (s.die d).live.getLsbD k then (s.loseFlights d k).loseSlice d k else s
    (s1.modDie d fun x => { x with live := x.live &&& ~~~bit, bypass := x.bypass ||| bit }).errorRecord d 0x0B 1 0 0
      (BitVec.ofNat 64 k)

/-- SELF_TEST_COMPLETE: a function's READY bit sets, or its failure is recorded. CURATOR passes only with an accepted
image (R441). DESIGN CHOICE (log 86): `bit` from 32 on names no function of READY, but with `ok` false the router of slice
`bit` − 32 of die `sel`, whose test can fail until CURATOR is set (R82). -/
def execSelfTestComplete (bit : BitVec 6) (ok : Bool) (s : State) : Host.Outcome State Fault Refusal :=
  .next (
    let b := bit.toNat
    let one := BitVec.ofNat 64 (2 ^ b)
    if 31 < b ∧ ok = false ∧ s.ready.getLsbD 0 = false ∧ s.sel < 2 then s.routerFails s.sel (b - 32)
    else if 31 < b ∨ b = 14 ∨ b = 15 ∨ s.ready.getLsbD b = true ∨ s.failed.getLsbD b = true then s
    else if ok && (b != 0 || s.curator.running.isSome) then { s with ready := s.ready ||| one }
    else { s with failed := s.failed ||| one }.errorRecord (readyDie b) 0x0B 1 0 0 (BitVec.ofNat 64 b))

/-- ARCHIVE_COMMIT: the archive's counters are committed whole (R438). -/
def execArchiveCommit (s : State) : Host.Outcome State Fault Refusal := .next { s with archiveCommitted := s.archive }

/-- ORDERLY_POWER_DOWN: the archive is committed and the module loses its volatile state (R438). -/
def execOrderlyPowerDown (s : State) : Host.Outcome State Fault Refusal :=
  .next { s.cold with archiveCommitted := s.archive }

/-- POWER_LOSS: increments since the last commit are lost with everything volatile (R438). -/
def execPowerLoss (s : State) : Host.Outcome State Fault Refusal := .next { s.cold with archive := s.archiveCommitted }

/-- SCRUB_PASS of pseudo-channel `sel`: the errors in its capacity are found, corrected where they can be, and recorded
(R434). -/
def execScrubPass (s : State) : Host.Outcome State Fault Refusal := .next (s.findErrors fun a => channelOf a == s.sel)

/-! ## The curator's restarts (R417, R434) -/

/-- The curator restarts from a slot: policy freezes until it completes (R408, R417). -/
def State.restartCurator (s : State) (slot : Nat) : State :=
  { s with curator := { s.curator with running := some slot, restarting := true } }

/-- CURATOR_RESTART_COMPLETE: the restart ends and INTCAUSE.CURATOR rises (R417, R424; on both dies, log 25). -/
def execCuratorRestartComplete (s : State) : Host.Outcome State Fault Refusal :=
  .next (
    if s.curator.restarting then (({ s with curator := { s.curator with restarting := false } }.raise 0 5).raise 1 5)
    else s)

/-- CURATOR_MEMORY_ERROR: recorded, and the curator restarts from its running slot (R434). -/
def execCuratorMemoryError (s : State) : Host.Outcome State Fault Refusal :=
  .next (
    match s.curator.running with
    | some n => (s.errorRecord 0 0x0D 1 0 0 0).restartCurator n
    | none => s)

/-- FUNCTION_LEVEL_RESET: every launch ends with ENDED, every queue is disabled, INTCAUSE and INTMASK are zero; host
accesses are whole steps, so none is outstanding (R425). -/
def execFunctionLevelReset (s : State) : Host.Outcome State Fault Refusal :=
  .next (
    let s1 := (List.range s.launches.length).foldl (fun x l => x.endOne l 0x24) s
    { s1 with
      queues := s1.queues.map fun (q : Queue) => { q with en := false, held := false, destroying := false }
      dies := s1.dies.map fun (d : Die) => { d with intcause := 0, intmask := 0 } })

end Sys2Proof.Machine
end

