-- ==== Sys2Proof/Machine/Belfry.lean ====
section
/-! DEFINITION. The belfry: which launch governs a die, budgets, the search for a grant, evaluations and notices (R215 to
R220, R437, R439, R440). -/

namespace Sys2Proof.Machine

open Sys2Proof

/-! ## Governing launches (R216) -/

/-- A team is resident, from its placement until it leaves (R219). -/
def Team.onCore (t : Team) : Bool := t.status == .placed || t.status == .resident
/-- Die of a team that has a place. -/
def Team.die (t : Team) : Nat := match t.halves with | h :: _ => dieOfCore h.core | [] => 0

/-- A launch has a team resident on a die. -/
def State.launchOn (s : State) (l d : Nat) : Bool := s.teams.any fun t => t.launch == l && t.onCore && t.die == d

/-- Launch `a` governs ahead of launch `b`: class, then priority, then take (R216). -/
def State.governsAbove (s : State) (a b : Nat) : Bool :=
  let x := s.launches.getD a default
  let y := s.launches.getD b default
  if x.harvest != y.harvest then !x.harvest
  else if x.prio != y.prio then decide (y.prio < x.prio)
  else decide (x.order < y.order)

/-- The governing launch of a die (R216). -/
def State.governing (s : State) (d : Nat) : Option Nat :=
  ((List.range s.launches.length).filter fun l => s.launchOn l d).foldl (fun best l =>
    match best with
    | none => some l
    | some b => if s.governsAbove l b then some l else some b) none

/-! ## Power and budgets (R217, R439, R440) -/

/-- Four ratios in a word: matrix, vector, network, memory (R215). -/
def ratiosOf (w : BitVec 32) : List Nat := (List.range 4).map fun k => (w.extractLsb' (8 * k) 5).toNat
/-- The word of four ratios (R215). -/
def ratioWord (g : List Nat) : BitVec 32 :=
  (List.range 4).foldl (fun w k => w ||| BitVec.ofNat 32 (g.getD k 0 * 2 ^ (8 * k))) 0

/-- Power of a die under a grant, in watts (R217). -/
def Die.power (d : Die) (g : List Nat) : Nat :=
  d.sPower + ((List.range 4).map fun k => d.aPower.getD k 0 * g.getD k 0).foldl (· + ·) 0

/-- 4/16 in every domain. -/
def lowRatios : List Nat := [4, 4, 4, 4]

/-- The 13 ratios, highest first. -/
def ratioRange : List Nat := [16, 15, 14, 13, 12, 11, 10, 9, 8, 7, 6, 5, 4]

/-- Every grant, in the order that R218 prefers among those of equal sum: higher matrix, vector, network and memory
ratios first. -/
def allGrants : List (List Nat) :=
  ratioRange.flatMap fun a => ratioRange.flatMap fun b => ratioRange.flatMap fun c => ratioRange.map fun d => [a, b, c, d]

/-- Distance of a grant from a request with its critical domains (R218). -/
def grantCost (req : List Nat) (crit : BitVec 4) (g : List Nat) : Nat :=
  ((List.range 4).map fun k =>
    let q := req.getD k 0
    let x := g.getD k 0
    (if q = 0 then 0 else if crit.getLsbD k then 4 else 1) * (if q ≤ x then x - q else q - x)).foldl (· + ·) 0

/-- Sum of ratios. -/
def ratioSum (g : List Nat) : Nat := g.foldl (· + ·) 0

/-- The permitted set that R218 chooses within a budget in 256ths of a watt, if there is one. -/
def bestGrant (d : Die) (budget : Int) (req : List Nat) (crit : BitVec 4) : Option (List Nat) :=
  allGrants.foldl (fun best g =>
    if budget < 256 * (d.power g : Int) then best
    else match best with
      | none => some g
      | some b =>
        let x := grantCost req crit g
        let y := grantCost req crit b
        if x < y ∨ (x = y ∧ ratioSum b < ratioSum g) then some g else best) none

/-- The request that a die is governed by, with its critical domains: 4/16 everywhere without a launch (R216). -/
def State.requestOf (s : State) (d : Nat) : List Nat × BitVec 4 :=
  match s.governing d with
  | some l => (ratiosOf (s.launches.getD l default).clkwant, (s.launches.getD l default).crit)
  | none => (lowRatios, 0)

/-- What governs a die: nothing, guaranteed work or harvest work. -/
def State.governClass (s : State) (d : Nat) : Option Bool := (s.governing d).map fun l => (s.launches.getD l default).harvest

/-- A die's power at 4/16 in every domain, in 256ths of a watt. -/
def State.lowPower (s : State) (d : Nat) : Int := 256 * ((s.die d).power lowRatios : Int)

/-- The module cap, in 256ths of a watt (R439). -/
def State.cap (s : State) : Int := 256 * (s.capw.toNat : Int)

/-- A die's share of the cap when both are governed by one class (R217, R439). -/
def State.shareOf (s : State) (d : Nat) : Int :=
  (s.capw.toNat : Int) * (if d = 0 then (s.share0.toNat : Int) else 256 - (s.share0.toNat : Int))

/-- The grant of a die within a budget; 4/16 everywhere when no set is permitted (R218). -/
def State.grantFor (s : State) (d : Nat) (budget : Int) : List Nat :=
  (bestGrant (s.die d) budget (s.requestOf d).1 (s.requestOf d).2).getD lowRatios

/-- A die whose budget is its power at 4/16: hot, or idle (R217, R440). -/
def State.lowBudget (s : State) (d : Nat) : Bool := (s.die d).hot || (s.governing d).isNone

/-- The budget of a die (R217, R440). -/
def State.budget (s : State) (d : Nat) : Int :=
  let e := 1 - d
  if s.lowBudget d then s.lowPower d
  else if s.lowBudget e then s.cap - s.lowPower e
  else if s.governClass d = s.governClass e then s.shareOf d
  else if s.governClass d = some false then s.cap - s.lowPower e
  else s.cap - 256 * ((s.die e).power (s.grantFor e (s.cap - s.lowPower d)) : Int)

/-! ## Evaluations and notices (R218, R219, R437, R439) -/

/-- A budget as BELFRYSTAT shows it, in whole watts within 12 bits (R439). -/
def budgetField (b : Int) : BitVec 12 := BitVec.ofNat 12 (min 4095 (b / 256).toNat)

/-- A die with a governing launch has no permitted set other than 4/16 (R437). -/
def State.starved (s : State) (d : Nat) (b : Int) : Bool :=
  (s.governing d).isSome && !allGrants.any fun g => g != lowRatios && decide (256 * ((s.die d).power g : Int) ≤ b)

/-- A grant that differs from the one in effect is to take effect (R219). -/
def State.orderGrant (s : State) (d : Nat) (g : List Nat) : State :=
  s.modDie d fun x => { x with newGrant := if ratioWord g = x.grant then none else some (ratioWord g) }

/-- An evaluation of both dies (R218). -/
def State.evaluate (s : State) : State :=
  let b0 := s.budget 0
  let b1 := s.budget 1
  let s1 := { s with bud0 := budgetField b0, bud1 := budgetField b1 }
  let s2 := (s1.orderGrant 0 (s.grantFor 0 b0)).orderGrant 1 (s.grantFor 1 b1)
  if s.starved 0 b0 || s.starved 1 b1 then s2.count 0x518 else s2

/-- A notice: CLKCNT rises and CLKCHG is set (R219); the threads that wait for flags note it (R176, R310). -/
def Team.notice (t : Team) : Team :=
  let w := t.tflags ||| 0x80000000#32
  { t with clkcnt := t.clkcnt + 1, tflags := w, threads := t.threads.map fun u => u.seeFlags w }

/-- BELFRY_EVALUATION: the one of every 50 µs (R218). -/
def execBelfryEvaluation (s : State) : Host.Outcome State Fault Refusal := .next s.evaluate

/-- POWER_OVER_CAP: measured power has exceeded the cap for 100 µs (R218, R439). -/
def execPowerOverCap (s : State) : Host.Outcome State Fault Refusal :=
  .next (if s.capw.ult s.pnow then { s with overCap := true }.evaluate else s)

/-- GRANT_CHANGE on die `sel`: the new ratios are in effect, and every resident team of the die has its notices (R219). -/
def execGrantChange (s : State) : Host.Outcome State Fault Refusal :=
  .next (
    match (s.die s.sel).newGrant with
    | none => s
    | some g =>
      let s1 := s.modDie s.sel fun x => { x with grant := g, newGrant := none }
      { s1 with teams := s1.teams.map fun t => if t.onCore && t.die == s.sel then t.notice else t })

/-- POWER_MEASUREMENT: mean module power, and each die's fixed share and watts per sixteenth (R217, R439). -/
def execPowerMeasurement (pnow s0 s1 : Nat) (a0 a1 : List Nat) (s : State) : Host.Outcome State Fault Refusal :=
  .next (({ s with pnow := BitVec.ofNat 12 (min 4095 pnow) }.modDie 0 fun x => { x with sPower := s0, aPower := a0 }).modDie 1
    fun x => { x with sPower := s1, aPower := a1 })

/-- THERMAL_LIMIT: a die's hottest sensor reaches 100 °C, or falls below 95 °C (R440). -/
def execThermalLimit (die : BitVec 1) (hot : Bool) (s : State) : Host.Outcome State Fault Refusal :=
  .next (s.modDie die.toNat fun x => { x with hot := hot })

/-- A value that BELFRYCFG takes: reserved bits 0, SHARE0 and CAPW in range (R88, R439). -/
def belfryCfgOk (v : BitVec 32) : Bool :=
  let sh := (v.extractLsb' 0 8).toNat
  let cw := (v.extractLsb' 8 12).toNat
  v.extractLsb' 20 12 == 0 && decide (32 ≤ sh) && decide (sh ≤ 224) && decide (600 ≤ cw) && decide (cw ≤ 2400)

/-- BELFRYCFG is written by the curator; a change starts an evaluation (R88, R439). -/
def State.writeBelfryCfg (s : State) (v : BitVec 32) : State :=
  let sh : BitVec 8 := v.extractLsb' 0 8
  let cw : BitVec 12 := v.extractLsb' 8 12
  if !belfryCfgOk v || (sh == s.share0 && cw == s.capw) then s
  else { s with share0 := sh, capw := cw }.evaluate

/-- BELFRYCFG_WRITE (R439). -/
def execBelfrycfgWrite (value : BitVec 32) (s : State) : Host.Outcome State Fault Refusal := .next (s.writeBelfryCfg value)

end Sys2Proof.Machine
end

