-- ==== Sys2Proof/Machine/System.lean ====
section
/-! DEFINITION. Schedule selection, special and control registers, the clock words, TRAP, BRKPT, ERET, HALT, TLB
invalidation and the claim of held accumulator storage (R18, R39 to R41, R171, R214, R261 to R266, R356, R374 to R376,
R380 to R387). -/

namespace Sys2Proof.Machine

open Sys2Proof

/-! ## SCHSEL (R214, R261, R262) -/

/-- What SCHSEL delivers. -/
inductive Selected where
  | entry (k : Nat) (knob : BitVec 32) (target : BitVec 64)
  | nothing
  | poison
  deriving DecidableEq, Repr, Inhabited

/-- How far the search for an entry has come. -/
inductive SchStep where
  | found (x : Selected)
  /-- Entry `k`, which these parts hold, is to be read. -/
  | read (k : Nat) (l : List (BitVec 64 × Nat × Leaf × Nat))
  /-- It fails, or waits. -/
  | stop (v : Verdict)
  deriving DecidableEq, Repr, Inhabited

/-- What the 16 bytes of entry `k` select for size `n`, if they do (R214, R262). -/
def schEntry (n : BitVec 32) (k : Nat) (bs : List (Byte × Bool)) : Option Selected :=
  let limit : BitVec 32 := BitVec.ofNat 32 (ofLe ((bs.take 4).map (·.1)))
  let knob : BitVec 32 := BitVec.ofNat 32 (ofLe (((bs.drop 4).take 4).map (·.1)))
  let target := bytes64 (bs.drop 8)
  if bs.any (·.2) then some .poison
  else if target != 0 && n.ule limit then some (.entry k knob target) else none

/-- The access that reads one entry, as LDC reads the constant window (R45, R262). -/
def State.schRead (s : State) (r : Ref) (l : List (BitVec 64 × Nat × Leaf × Nat)) : Flight :=
  { s.flightOf r s.stamp .load ((l.head?.map (·.1)).getD 0) 16 [] l 0 0 with wcode := 2, const := true }

/-- The entries of a class from number `k` on, one after the other: what the L1 holds is read at once (R73, R214). -/
def State.schScan (s : State) (r : Ref) (base : BitVec 64) (n : BitVec 32) : Nat → Nat → SchStep
  | 0, _ => .found .nothing
  | fuel + 1, k =>
    match s.loadParts r (addNat base (16 * k)) 16 with
    | .error v => .stop v
    | .ok l =>
      match s.l1Hit (s.schRead r l) with
      | none => .read k l
      | some bs =>
        match schEntry n k bs with
        | some x => .found x
        | none => s.schScan r base n fuel (k + 1)

/-- The selection of a thread for class `c` and size `n`, or how far it is; no class at or above NCLASS has an entry
(R213, R214). -/
def State.schSelect (s : State) (r : Ref) (c n : BitVec 32) : SchStep :=
  let base := addNat (s.block r.team).catptr (64 + 128 * c.toNat)
  if (s.launchOf r.team).nclass ≤ c.toNat then .found .nothing
  else match (s.thr r).wait with
    | some (.catalog k f) =>
      let x := s.flights.getD f default
      if !x.returned then .stop (.wait (.catalog k f))
      else match schEntry n k x.loaded with
        | some e => .found e
        | none => s.schScan r base n (7 - k) (k + 1)
    | _ => s.schScan r base n 8 0

/-- The four words of a selection written (R261, R262). -/
def Thread.setSelected (t : Thread) (d : Nat) (x : Selected) : Thread :=
  let put (a b : BitVec 64) (tag : Tag) : Thread := (t.setPair d a tag).setPair (d + if t.ctl then 1 else 2) b tag
  match x with
  | .entry k knob target => put (knob ++ BitVec.ofNat 32 k) target tagI32
  | .nothing => put 8 0 tagI32
  | .poison => put 0 0 tagPOISON

/-- The selection of a lane of SCHSEL. -/
def State.schOf (s : State) (a b : BitVec 6) (r : Ref) : SchStep :=
  s.schSelect r ((s.thr r).val32 a.toNat) ((s.thr r).val32 b.toNat)

/-- The checks of SCHSEL (R244, R262). -/
def State.schselCheck (s : State) (a b : BitVec 6) (r : Ref) : Verdict :=
  if (s.thr r).poisoned [u1 a, u1 b] then .fail poisonFault
  else match s.schOf a b r with
    | .found _ => .run
    | .read k _ => .wait (.catalog k s.flights.length)
    | .stop v => v

/-- A lane that waits for an entry sends the access that reads it. -/
def State.schSend (s x : State) (a b : BitVec 6) (r : Ref) : State :=
  match s.schOf a b r with
  | .read k l => (x.launchFlight (x.schRead r l)).modThr r fun t => { t with wait := some (.catalog k x.flights.length) }
  | _ => x

/-- SCHSEL (R214, R261, R262): a lane selects once the entries it needs have been read. -/
def execSchsel (g : BitVec 3) (d a b : BitVec 6) (s : State) : Host.Outcome State Fault Refusal :=
  .next (
    let v := s.judge (.schsel g d a b) (s.schselCheck a b)
    let s2 := s.perform v fun s1 rs =>
      rs.foldl (fun x r =>
        match s.schOf a b r with
        | .found e => x.modThr r fun u => u.setSelected d.toNat e
        | _ => x) s1
    ((s.stalledLanes v).filter fun r => (v r).wait?.isSome && (s.active (.schsel g d a b)).contains r).foldl
      (fun x r => s.schSend x a b r) s2)

/-! ## SRD (R171, R263, R264) -/

/-- Core clock cycles of a core since module reset (R263). -/
def State.ccount (s : State) (core : Nat) : BitVec 64 := BitVec.ofNat 64 ((s.core core).ccount16 / 16)

/-- The value of a special register for a thread (R171, R263). -/
def State.srdVal (s : State) (r : Ref) (n : BitVec 6) : BitVec 64 :=
  let t := s.thr r
  let m := s.team r.team
  let b := s.block r.team
  let all1 : BitVec 64 := 0xFFFFFFFF
  match n.toNat with
  | 0x00 => t.tidx.setWidth 64
  | 0x01 => if t.ctl then all1 else BitVec.ofNat 64 t.group
  | 0x02 => BitVec.ofNat 64 b.width
  | 0x03 => BitVec.ofNat 64 (t.tidx.toNat % 64)
  | 0x04 => if t.ctl then 0 else BitVec.ofNat 64 t.frag
  | 0x05 => s.siblings r
  | 0x06 => BitVec.ofNat 64 m.index
  | 0x07 => BitVec.ofNat 64 b.nteam
  | 0x08 => BitVec.ofNat 64 b.tsize
  | 0x09 => match m.cohort with | some c => BitVec.ofNat 64 c | none => all1
  | 0x0A => BitVec.ofNat 64 m.csize
  | 0x0B => BitVec.ofNat 64 m.crank
  | 0x0C => BitVec.ofNat 64 (s.coreOf r)
  | 0x0D => BitVec.ofNat 64 (s.dieOf r)
  | 0x0E => if t.ctl then 3 else (s.group r.team t.group).role.setWidth 64
  | 0x0F => if s.harvest r.team then 1 else 0
  | 0x10 => (s.core (s.coreOf r)).partition.setWidth 64
  | 0x11 => m.tflags.setWidth 64
  | 0x12 => m.clkcnt.setWidth 64
  | 0x13 => m.cpstat.setWidth 64
  | 0x14 => b.stkbase
  | 0x15 => s.ccount (s.coreOf r)
  | 0x16 => BitVec.ofNat 64 s.gtime
  | _ => BitVec.ofNat 64 b.regs

/-- A value of 32 or 64 bits written as SRD and CSRR write it (R263, R385). -/
def Thread.setWord (t : Thread) (d : Nat) (wide : Bool) (v : BitVec 64) : Thread :=
  if wide then t.setPair d v tagI32 else t.set32 d (v.setWidth 32) tagI32

/-- One lane's SRD: CPSTAT is cleared as it is read (R263, R264). -/
def State.srdLane (s : State) (d n : BitVec 6) (r : Ref) : State :=
  let v := s.srdVal r n
  let s1 := s.modThr r fun u => u.setWord d.toNat (srdWide n) v
  if n = 0x13 then s1.modTeam r.team fun m => { m with cpstat := 0 } else s1

/-- SRD: lanes read in ascending slot order (R263, R264). -/
def execSrd (g : BitVec 3) (d n : BitVec 6) (s : State) : Host.Outcome State Fault Refusal :=
  .next (s.perform (s.judge (.srd g d n) fun _ => if srdExists n then .run else .fail (illegalFault rRange))
    fun s1 rs => rs.foldl (fun x r => x.srdLane d n r) s1)

/-! ## CLKQ, CLKREQ (R215, R265, R266) -/

/-- CLKQ (R265). -/
def execClkq (g : BitVec 3) (d : BitVec 6) (s : State) : Host.Outcome State Fault Refusal :=
  .next (s.perform (s.judge (.clkq g d) noCheck) fun s1 rs =>
    rs.foldl (fun x r => x.modThr r fun u => u.set32 d.toNat (s.die (s.dieOf r)).grant tagI32) s1)

/-- A field of a request: 0 or 4 to 16 (R215, R266). -/
def clkField (v : BitVec 32) (lo : Nat) : Bool :=
  let x := (v.extractLsb' lo 5).toNat
  x == 0 || (decide (4 ≤ x) && decide (x ≤ 16))
/-- A word in the request layout: four fields, reserved bits 0 (R215, R266). -/
def clkRequestOk (v : BitVec 32) : Bool :=
  clkField v 0 && clkField v 8 && clkField v 16 && clkField v 24 && v &&& 0xE0E0E0E0#32 == 0

/-- CLKREQ: lanes are recorded in ascending slot order, the last one standing (R220, R266). -/
def execClkreq (g : BitVec 3) (a b : BitVec 6) (s : State) : Host.Outcome State Fault Refusal :=
  .next (s.perform (s.judge (.clkreq g a b) fun r =>
      let t := s.thr r
      if t.poisoned [u1 a, u1 b] then .fail poisonFault
      else if clkRequestOk (t.val32 a.toNat) && (t.val32 b.toNat).extractLsb' 4 28 == 0 then .run
      else .fail (illegalFault rValue)) fun s1 rs =>
    rs.foldl (fun x r =>
      let t := s.thr r
      x.modLaunch (s.team r.team).launch fun l =>
        { l with clkwant := t.val32 a.toNat, crit := (t.val32 b.toNat).extractLsb' 0 4 }) s1)

/-! ## TRAP, BRKPT, ERET, HALT (R363, R380, R382, R384, R386) -/

/-- TRAP (R384). -/
def execTrap (g : BitVec 3) (c : BitVec 6) (s : State) : Host.Outcome State Fault Refusal :=
  .next (s.perform (s.judge (.trap g c) fun _ => .fail { cause := .software, info := c.setWidth 64 }) fun x _ => x)

/-- BRKPT: halts the team with the PC past it when HALTBP is set, else traps (R380, R382, R384). -/
def execBrkpt (g : BitVec 3) (c : BitVec 6) (s : State) : Host.Outcome State Fault Refusal :=
  .next (s.perform (s.judge (.brkpt g c) fun r =>
      if (s.team r.team).dbgctl.getLsbD 0 then .run else .fail { cause := .breakpoint, info := c.setWidth 64 }) fun s1 rs =>
    (rs.map (·.team)).eraseDups.foldl (fun x t =>
      (x.haltTeam t).modTeam t fun m =>
        { m with dbgctl := (m.dbgctl &&& 0xFFFFC0FF#32) ||| 4#32 ||| (c.setWidth 32 <<< 8) }) s1)

/-- ERET (R386). -/
def execEret (g : BitVec 3) (s : State) : Host.Outcome State Fault Refusal :=
  .next (s.lanewise (.eret g) noCheck fun t u => { u with pc := t.tr.epc, cm := false })

/-- HALT: each issuing thread stops after it (R380, R386). -/
def execHalt (g : BitVec 3) (s : State) : Host.Outcome State Fault Refusal :=
  .next (s.perform (s.judge (.halt g) noCheck) fun s1 rs =>
    (rs.map (·.team)).eraseDups.foldl (fun x t => x.haltTeam t) s1)

/-! ## CSRR, CSRW (R18, R356, R375, R382, R385) -/

/-- ACCINFO of a core: the owner's tiles, vitrine and knot-grid registers there (R375). -/
def State.accInfo (s : State) (core : Nat) : BitVec 64 :=
  match (s.core core).ownerTeam with
  | none => 0
  | some t =>
    match (s.team t).halves.find? fun h => h.core == core with
    | none => 0
    | some h =>
      (0#50 ++ BitVec.ofNat 6 h.knots.length ++ BitVec.ofBool h.vit.isSome ++ BitVec.ofNat 7 h.tiles.length : BitVec 64)

/-- ACCOWN of a core (R375). -/
def State.accOwn (s : State) (core : Nat) : BitVec 64 :=
  (0#47 ++ BitVec.ofBool (s.core core).held ++ (s.core core).owner : BitVec 64)

/-- The value of a control register for a thread (R18, R356). -/
def State.csrVal (s : State) (r : Ref) (n : BitVec 11) : BitVec 64 :=
  let m := s.team r.team
  let x := (s.thr r).tr
  match n.toNat with
  | 0x010 => m.estat.setWidth 64
  | 0x011 => m.ctxid.setWidth 64
  | 0x020 => m.tvec
  | 0x021 => x.epc
  | 0x022 => x.trsum.setWidth 64
  | 0x023 => x.trmask
  | 0x024 => x.trsib
  | 0x025 => x.traddr
  | 0x026 => x.trlane.setWidth 64
  | 0x027 => x.trva
  | 0x028 => x.trinfo
  | 0x029 => x.trinfo2
  | 0x02A => x.tscr0
  | 0x02B => x.tscr1
  | 0x030 => s.accOwn (s.coreOf r)
  | 0x031 => s.accInfo (s.coreOf r)
  | 0x038 => m.dbgctl.setWidth 64
  | 0x040 => m.xroot
  | _ => m.xasid

/-- The check of a control register's number (R356). -/
def csrCheck (n : BitVec 11) (v : Verdict) : Verdict := if csrExists n then v else .fail (illegalFault rRange)

/-- One lane's CSRR: ESTAT is cleared as it is read (R320, R356, R385). -/
def State.csrrLane (s : State) (d : BitVec 6) (n : BitVec 11) (r : Ref) : State :=
  let v := s.csrVal r n
  let s1 := s.modThr r fun u => u.setWord d.toNat (csrWide n) v
  if n = 0x010 then s1.modTeam r.team fun m => { m with estat := 0 } else s1

/-- CSRR: lanes read in ascending slot order (R264, R356, R385). -/
def execCsrr (g : BitVec 3) (d : BitVec 6) (n : BitVec 11) (s : State) : Host.Outcome State Fault Refusal :=
  .next (s.perform (s.judge (.csrr g d n) fun _ => csrCheck n .run) fun s1 rs =>
    rs.foldl (fun x r => x.csrrLane d n r) s1)

/-- The bits of XROOT that it holds: EN and ROOT (R18). -/
def xrootMask : BitVec 64 := 0x0000_FFFF_FFFF_8001

/-- A value that CSRW refuses for TVEC or EPC (R385). -/
def badCsrVal (n : BitVec 11) (v : BitVec 64) : Bool :=
  (n == 0x020 && (v.extractLsb' 0 7 != 0 || !canonical v)) || (n == 0x021 && (v.extractLsb' 0 2 != 0 || !canonical v))

/-- One lane's CSRW; writes to RO and RC registers are ignored (R18, R356, R382, R385). -/
def State.csrwLane (s : State) (n : BitVec 11) (v : BitVec 64) (r : Ref) : State :=
  let tr (f : TrapRegs → TrapRegs) : State := s.modThr r fun u => { u with tr := f u.tr }
  match n.toNat with
  | 0x020 => s.modTeam r.team fun m => { m with tvec := v }
  | 0x021 => tr fun x => { x with epc := v }
  | 0x02A => tr fun x => { x with tscr0 := v }
  | 0x02B => tr fun x => { x with tscr1 := v }
  | 0x038 => s.modTeam r.team fun m =>
      { m with dbgctl := (m.dbgctl &&& ~~~((v.setWidth 32 &&& 4#32) ||| 1#32)) ||| (v.setWidth 32 &&& 1#32) }
  | 0x040 => s.modTeam r.team fun m => { m with xroot := v &&& xrootMask }
  | 0x041 => s.modTeam r.team fun m => { m with xasid := (v.setWidth 16).setWidth 64 }
  | _ => s

/-- The value that CSRW writes. -/
def Thread.csrSource (t : Thread) (a : BitVec 6) (n : BitVec 11) : BitVec 64 :=
  if csrWide n then t.pairVal a.toNat else (t.val32 a.toNat).setWidth 64

/-- The checks of CSRW; a write of CLAIM waits until the claim is made (R376, R385). -/
def State.csrwCheck (s : State) (a : BitVec 6) (n : BitVec 11) (r : Ref) : Verdict :=
  let t := s.thr r
  csrCheck n (
    if t.poisoned [if csrWide n then u2 a else u1 a] then .fail poisonFault
    else if badCsrVal n (t.csrSource a n) then .fail (illegalFault rValue)
    else if n = 0x030 ∧ (t.csrSource a n).getLsbD 17 = true ∧ s.accOwned r = true then .wait .claim
    else .run)

/-- CSRW (R356, R376, R385). -/
def execCsrw (g : BitVec 3) (a : BitVec 6) (n : BitVec 11) (s : State) : Host.Outcome State Fault Refusal :=
  .next (s.perform (s.judge (.csrw g a n) (s.csrwCheck a n)) fun s1 rs =>
    rs.foldl (fun x r => x.csrwLane n ((s.thr r).csrSource a n) r) s1)

/-- A half has accumulator storage or knot-grid registers (R374). -/
def Half.hasAcc (h : Half) : Bool := !h.tiles.isEmpty || h.vit.isSome || !h.knots.isEmpty

/-- Accumulator positions of a core's held set (R374). -/
def State.heldPos (s : State) (core : Nat) : List Nat :=
  let c := s.core core
  match c.ownerTeam with
  | some o =>
    if c.held then ((s.team o).halves.filter fun h => h.core == core).flatMap fun h => h.accTiles ++ h.vitTiles else []
  | none => []

/-- The storage of a half that lay in a held set at these positions, zeroed with tag RAW: all of it where a claim has
displaced the half's own set (R376; log 54). -/
def Half.zeroHeld (h : Half) (pos : List Nat) : Half :=
  let lay (k : Nat) : Bool := h.displaced || pos.contains k
  let part (k : Nat) : Bool := (h.vitTiles[k]?).any lay || h.displaced
  { h with
    tiles := h.tiles.zipIdx.map fun p => if (h.accTiles[p.2]?).any lay || h.displaced then Tile.start else p.1
    vit := h.vit.map fun m => ((List.range 18).filter part).foldl (fun m k => clearBytes m (4096 * k) 4096) m
    vitBad := h.vitBad.filter fun c => !part (c / 2048)
    knots := h.knots.zipIdx.map fun p =>
      if h.displaced || decide (h.knots.length - h.heldKnots ≤ p.2) then Knot.start else p.1
    displaced := false }

/-- No team's storage on a core shares a held set any longer (R374, R376). -/
def State.noShares (s : State) (core : Nat) : State :=
  { s with teams := s.teams.map fun (t : Team) =>
    { t with halves := t.halves.map fun h => if h.core = core then { h with shares := false } else h } }

/-- ACCOWN_CLAIM of thread `sel2` of team `sel`, which waits for its claim: the core's set becomes its team's, and what of
the team's storage lay in the held set is zeroed; the context that held it is displaced (R376; log 54). -/
def execAccownClaim (s : State) : Host.Outcome State Fault Refusal :=
  .next (
    let r : Ref := ⟨s.sel, s.sel2⟩
    let c := s.coreOf r
    if (s.thr r).wait = some .claim ∧ s.accOwned r = true then
      let on (t : Nat) (f : Half → Half) (x : State) : State :=
        x.modTeam t fun m => { m with halves := m.halves.map fun h => if h.core = c then f h else h }
      let s1 := on r.team (fun h => h.zeroHeld (s.heldPos c)) s
      let s2 := match (s.core c).ownerTeam with
        | some o => if (s.core c).held && o != r.team then on o (fun h => { h with displaced := h.hasAcc }) s1 else s1
        | none => s1
      (s2.noShares c).modCore c fun x => { x with owner := (s.team r.team).ctxid, held := false, ownerTeam := some r.team }
    else s)

/-! ## TLBINV (R39 to R41, R387) -/

/-- A core is in the scope of an invalidation issued on core `own` (R39). -/
def inScope (scope : BitVec 2) (own core : Nat) : Bool :=
  match scope.toNat with
  | 0 => core == own
  | 1 => dieOfCore core == dieOfCore own
  | _ => true

/-- A TLB or walk cache of place `loc`, in the numbering of `TlbEntry.loc`, is in the scope (R39). -/
def locInScope (scope : BitVec 2) (own loc : Nat) : Bool :=
  if loc < 256 then inScope scope own loc
  else match scope.toNat with
    | 0 => false
    | 1 => loc == dieTlb (dieOfCore own)
    | _ => true

/-- A translation is one that a selector removes (R39, R41). -/
def selects (sel : BitVec 2) (va : BitVec 64) (asid : BitVec 16) (pva : BitVec 64) (level : Nat) (glob : Bool)
    (pasid : BitVec 16) : Bool :=
  match sel.toNat with
  | 0 => (glob || pasid == asid) && clearLow pva (pageBits level) == clearLow va (pageBits level)
  | 1 => !glob && pasid == asid
  | 2 => !glob
  | _ => true

/-- The invalidation removes this translation. -/
def TlbInv.hits (x : TlbInv) (pva : BitVec 64) (level : Nat) (glob : Bool) (asid : BitVec 16) : Bool :=
  selects x.sel x.va x.asid pva level glob asid

/-- A walk-cache pointer could lead to a leaf that the invalidation removes (R39). -/
def TlbInv.leads (x : TlbInv) (p : WalkPtr) : Bool :=
  match x.sel.toNat with
  | 0 => p.va == clearLow x.va (entryBits p.level)
  | 1 => p.asid == x.asid
  | _ => true

/-- An entry of a region's buffer was made through a translation that the invalidation removes (R41). -/
def TlbInv.hitsEntry (x : TlbInv) (e : BufEntry) : Bool := e.scratch.isNone && x.hits e.va e.level e.glob e.asid

/-- Core on which a group lies. -/
def State.groupCore (s : State) (t g : Nat) : Nat := s.coreOf ⟨t, g * s.width t⟩

/-- The groups of all teams that lie on cores in the scope. -/
def State.scopeGroups (s : State) (x : TlbInv) : List (Nat × Nat) :=
  (List.range s.teams.length).flatMap fun t =>
    ((List.range (s.groupCount t)).filter fun g => inScope x.scope x.core (s.groupCore t g)).map fun g => (t, g)

/-- An invalidation starts: entries leave the TLBs and walk caches, results of walks are discarded, matching open
regions are abandoned, and watches on lines that it covers are lost (R39 to R41, R139). -/
def State.invalidate (s : State) (x : TlbInv) : State :=
  let s1 :=
    { s with
      tlb := s.tlb.filter fun e => !(locInScope x.scope x.core e.loc && x.hits e.vpage e.leaf.level e.leaf.glob e.asid)
      walkCache := s.walkCache.filter fun p => !(locInScope x.scope x.core (dieTlb p.die) && x.leads p)
      teams := s.teams.map fun (t : Team) => { t with threads := t.threads.map fun (u : Thread) => { u with walked := [] } } }
  let s2 := s1.endWatches fun core w => w.line.isSome && inScope x.scope x.core core && x.hits w.va w.level w.glob w.asid
  (s.scopeGroups x).foldl (fun y p =>
    if (y.group p.1 p.2).open_ && (y.group p.1 p.2).buf.any x.hitsEntry then y.abandonRegion p.1 p.2 else y) s2

/-- Accesses in flight that an invalidation waits for: those of cores in its scope with a part still to be performed
through a translation that it removes (R40). -/
def State.invAfter (s : State) (x : TlbInv) : List Nat :=
  (List.range s.flights.length).filter fun n =>
    let f := s.flights.getD n default
    inScope x.scope x.core f.core && f.pieces.any fun p => !p.performed && x.hits p.va p.level p.glob f.asid

/-- Every earlier store and atomic of a thread is performed (R387). -/
def State.writesPerformed (s : State) (r : Ref) : Bool :=
  !s.drainsOwn r && s.flights.all fun e => !(e.own == r) || e.performed || !e.op.isWrite

/-- The invalidation that a lane's TLBINV asks for. -/
def State.tlbInvOf (s : State) (c e : BitVec 2) (y z : BitVec 6) (r : Ref) : TlbInv :=
  let t := s.thr r
  { own := r, core := s.coreOf r, sel := e, scope := c, va := if e = 0 then t.pairVal y.toNat else 0,
    asid := if e = 0 ∨ e = 1 then (t.reg z.toNat).val.setWidth 16 else 0, after := [], done := false }

/-- The checks of TLBINV before it begins (R387). -/
def State.tlbinvCheck (s : State) (e : BitVec 2) (y z : BitVec 6) (r : Ref) : Verdict :=
  let t := s.thr r
  if t.poisoned (infoOf (.tlbinv 0 0 e y z)).reads then .fail poisonFault
  else if e = 0 ∧ canonical (t.pairVal y.toNat) = false then .fail (transFault rNotCanonical 0 0 (t.pairVal y.toNat))
  else if s.writesPerformed r then .run else .wait .performed

/-- What a lane does in TLBINV: its checks; then it waits until invalidation `id` is complete. -/
def State.tlbinvVerdict (s : State) (e : BitVec 2) (y z : BitVec 6) (id : Nat) (r : Ref) : Verdict :=
  match (s.thr r).wait with
  | some (.tlbinv k) => if (s.tlbinvs.getD k default).done then .run else .wait (.tlbinv k)
  | _ =>
    match s.tlbinvCheck e y z r with
    | .run => .wait (.tlbinv id)
    | v => v

/-- TLBINV: each lane's invalidation begins once, and its fragment retires when all are complete (R40, R387). -/
def execTlbinv (g : BitVec 3) (c e : BitVec 2) (y z : BitVec 6) (s : State) : Host.Outcome State Fault Refusal :=
  .next (
    let i : Instr := .tlbinv g c e y z
    let base := s.tlbinvs.length
    let fresh := (s.active i).filter fun r =>
      match (s.thr r).wait with | some (.tlbinv _) => false | _ => s.tlbinvCheck e y z r == .run
    let v := s.judge i fun r => s.tlbinvVerdict e y z (base + fresh.idxOf r) r
    let s1 := s.perform v fun a _ => a
    let begun := fresh.filter fun r => (s.stalledLanes v).contains r
    fresh.foldl (fun a r =>
      let x := s.tlbInvOf c e y z r
      if begun.contains r then
        let b := { a with tlbinvs := a.tlbinvs ++ [{ x with after := a.invAfter x }] }
        b.invalidate x
      else { a with tlbinvs := a.tlbinvs ++ [{ x with done := true }] }) s1)

/-- The request of a pseudo-channel is for weights of an MMV of a core in the scope. -/
def State.weightsIn (s : State) (x : TlbInv) (q : HbmReq) : Bool :=
  match q.load with
  | .weights n => inScope x.scope x.core (s.cmds.getD n default).core
  | _ => false

/-- The conditions of R40 hold for an invalidation: the accesses it waits for are performed, and no committed entry,
and no engine access translated at issue, in its scope is left that goes through what it removes. -/
def State.invDone (s : State) (x : TlbInv) : Bool :=
  (x.after.all fun n => (s.flights.getD n default).performed) &&
  ((s.scopeGroups x).all fun p => (s.group p.1 p.2).draining.all fun e => !x.hitsEntry e) &&
  (s.engine.all fun e => e.parts.isEmpty || !inScope x.scope x.core e.core) && !s.hbmq.any (s.weightsIn x) &&
  s.cmds.all fun c => c.kind != .drain || c.stage == .complete || !inScope x.scope x.core c.core

/-- TLBINV_COMPLETE of invalidation `sel` (R40). -/
def execTlbinvComplete (s : State) : Host.Outcome State Fault Refusal :=
  .next (
    if s.invDone (s.tlbinvs.getD s.sel default) then
      { s with tlbinvs := s.tlbinvs.modify s.sel fun x => { x with done := true } }
    else s)

end Sys2Proof.Machine
end

