-- ==== Sys2Proof/Machine/Debug.lean ====
section
/-! DEFINITION. Each die's debug window onto one halted team (R381 to R383, R187). -/

namespace Sys2Proof.Machine

open Sys2Proof

/-! ## The selection (R383) -/

/-- The halted team of a die that DBGSEL names by its CTXID. -/
def State.dbgTeam (s : State) (d : Nat) : Option Nat :=
  let ctx : BitVec 16 := (s.die d).dbgsel.extractLsb' 0 16
  (List.range s.teams.length).find? fun t =>
    let m := s.team t
    m.onCore && m.isHalted && m.ctxid == ctx && ctx != 0 && dieOfCore (s.half t 0).core == d

/-- The thread that DBGSEL names: a lane thread by TIDX, or the control thread by 0x7FF. -/
def State.dbgThread (s : State) (d t : Nat) : Option Ref :=
  let k := slice (s.die d).dbgsel 16 11
  if k = 0x7FF then (if s.hasCtl t then some (s.ctlRef t) else none)
  else if k < s.lanes t then some ⟨t, k⟩ else none

/-- An item as the window shows it. -/
structure Item where
  val : BitVec 64
  tag : Tag := 0
  cm : Bool := false
  count : Nat := 0
  deriving DecidableEq, Repr, Inhabited

/-- A register that a thread has (R172, R173). -/
def State.hasReg (s : State) (r : Ref) (n : Nat) : Bool :=
  if (s.thr r).ctl then decide (n < 32) else laneExists (s.block r.team).regs n

/-- Words of a convergence register (R187). -/
def CvReg.word (c : CvReg) (w : Nat) : BitVec 64 :=
  if w = 0 then (c.target ++ 0#6 ++ c.group ++ BitVec.ofBool c.valid : BitVec 64) else c.mask

/-- Words of a barrier: its phase number, payload and operation, and the arrivals of a team's lane threads (R383). -/
def barrierRecord (b : Barrier) (t w : Nat) : BitVec 64 :=
  if w = 0 then b.ph.setWidth 64
  else if w = 1 then
    (0#29 ++ (match b.op with | none => 0#3 | some o => o.setWidth 3 + 1#3) ++ b.pay : BitVec 64)
  else maskOf ((List.range 64).filter fun j => b.arr.contains ⟨t, 64 * (w - 2) + j⟩)

/-- The item of a space for a thread, or none where there is none (R383). -/
def State.dbgItemOf (s : State) (r : Ref) (space idx : Nat) : Option Item :=
  let u := s.thr r
  let m := s.team r.team
  match space with
  | 0 => if s.hasReg r idx then some { val := if u.ctl then (u.reg idx).val else low32 (u.reg idx).val, tag := (u.reg idx).tag }
    else none
  | 1 => if idx = 0 then some { val := (u.preds ||| 1#8).setWidth 64 } else none
  | 2 => if idx = 0 then some { val := u.pc, cm := u.cm } else none
  | 3 => if idx < 2048 ∧ csrExists (BitVec.ofNat 11 idx) = true then some { val := s.csrVal r (BitVec.ofNat 11 idx) } else none
  | 4 =>
    match idx with
    | 0 => some { val := u.fpstat.setWidth 64 }
    | 1 => some { val := m.estat.setWidth 64 }
    | 2 => some { val := m.cpstat.setWidth 64 }
    | _ => none
  | 5 =>
    match idx with
    | 0 => some { val := if u.ctl then 0 else (0#56 ++ BitVec.ofBool u.parked ++ BitVec.ofNat 7 u.frag : BitVec 64) }
    | 1 => some { val := s.siblings r }
    | _ => none
  | 6 => ((s.halfOf r).cvs[idx / 2]?).map fun c => { val := c.word (idx % 2) }
  | 7 => ((s.halfOf r).slots[idx / 2]?).map fun x => { val := if idx % 2 = 0 then x.word0 else x.word1 }
  | 8 =>
    let level : BitVec 2 := BitVec.ofNat 2 (idx / 64 % 4)
    let w := idx / 256 % 64
    if level = 3 ∨ 33 < w ∨ 16384 ≤ idx then none
    else (s.barrierAt r level (idx % 64)).map fun b => { val := barrierRecord b r.team w }
  | 9 =>
    let q := if idx / 32 % 2 = 0 then m.up else m.down
    if 64 ≤ idx then none else (q[idx % 32]?).map fun e => { val := e.val, tag := e.tag, count := q.length }
  | 10 => if idx = 0 then some { val := m.tflags.setWidth 64 } else none
  | _ => none

/-- Space and index of a die's selection. -/
def Die.dbgSpace (x : Die) : Nat := slice x.dbgsel 27 5
/-- INDEX of a die's selection. -/
def Die.dbgIndex (x : Die) : Nat := slice x.dbgsel 32 16

/-- An item that the team or its core holds, for which THREAD is ignored: ESTAT and CPSTAT, the control registers that
R356 lists as held per team or per core, and the items of SPACE 6 to 10 (R383). -/
def dbgWide (space idx : Nat) : Bool :=
  decide (6 ≤ space) || (space == 4 && decide (idx ≠ 0)) ||
    (space == 3 && !(decide (0x021 ≤ idx) && decide (idx ≤ 0x02B)))

/-- The thread through which the selected item is reached: the one that DBGSEL names, or, for an item of the team, any. -/
def State.dbgRef (s : State) (d t : Nat) : Option Ref :=
  if dbgWide (s.die d).dbgSpace (s.die d).dbgIndex = true ∧ (s.dbgThread d t).isNone = true then some ⟨t, 0⟩
  else s.dbgThread d t

/-- The selected item of a die: VALID when there is one (R383). -/
def State.dbgItem (s : State) (d : Nat) : Option (Ref × Item) :=
  match s.dbgTeam d with
  | none => none
  | some t =>
    match s.dbgRef d t with
    | none => none
    | some r => (s.dbgItemOf r (s.die d).dbgSpace (s.die d).dbgIndex).map fun x => (r, x)

/-! ## Reads and writes (R383) -/

/-- DBGAUX as an item leaves it. -/
def Item.aux (x : Item) : BitVec 32 := (0#19 ++ BitVec.ofNat 5 x.count ++ 0#3 ++ BitVec.ofBool x.cm ++ x.tag : BitVec 32)

/-- A read of DBGDATA: the selected item's value, and DBGAUX loaded in the same step; 0 when VALID = 0. DESIGN CHOICE
(log 60): ESTAT read through SPACE 3 stays as it is, as R383 says of SPACE 4; R7's RC of ESTAT is that of CSRR. -/
def State.dbgRead (s : State) (d : Nat) : State × BitVec 64 :=
  match s.dbgItem d with
  | some (_, x) => (s.modDie d fun y => { y with dbgaux := x.aux }, x.val)
  | none => (s, 0)

/-- DBGSTAT (R383). -/
def State.dbgStat (s : State) (d : Nat) : BitVec 32 :=
  (0#30 ++ BitVec.ofBool (s.die d).wrej ++ BitVec.ofBool (s.dbgItem d).isSome : BitVec 32)

/-- A tag that a write may give a register of a thread (R101). -/
def tagFits (ctl : Bool) (t : Tag) : Bool :=
  if ctl then t == tagRAW || t == tagI32 || t == tagF32 || t == tagPOISON else decide (t.toNat < 0xE)

/-- A write of an item of a halted team, or none where the item is not writable or does not take the value (R383). -/
def State.dbgPut (s : State) (r : Ref) (space idx : Nat) (aux : BitVec 32) (v : BitVec 64) : Option State :=
  let u := s.thr r
  let tag : Tag := aux.extractLsb' 0 4
  match space with
  | 0 =>
    if tagFits u.ctl tag then some (s.modThr r fun t => t.setReg idx (taggedReg (if u.ctl then v else low32 v) tag))
    else none
  | 1 => some (s.modThr r fun t => { t with preds := v.setWidth 8 &&& 0xFE })
  | 2 =>
    let s1 := s.modThr r fun t => { t with pc := v, cm := !t.ctl && aux.getLsbD 4, parked := t.parked && t.pc == v }
    some (if (s.thr r).ctl || (s.thr r).pc == v then s1 else s1.regroup [r])
  | 3 =>
    let n : BitVec 11 := BitVec.ofNat 11 idx
    if n = 0x020 ∨ n = 0x021 ∨ n = 0x02A ∨ n = 0x02B then some (s.csrwLane n v r) else none
  | _ => none

/-- A write of DBGDATA: it writes the selected item, or is ignored and sets WREJ (R383). -/
def State.dbgWrite (s : State) (d : Nat) (v : BitVec 64) : State :=
  let done := match s.dbgItem d with
    | some (r, _) => s.dbgPut r (s.die d).dbgSpace (s.die d).dbgIndex (s.die d).dbgaux v
    | none => none
  done.getD (s.modDie d fun x => { x with wrej := true })

/-- DBGSEL takes its defined bits (R383). -/
def State.writeDbgSel (s : State) (d : Nat) (v : BitVec 64) : State :=
  s.modDie d fun x => { x with dbgsel := v &&& 0x0000_FFFF_FFFF_FFFF }
/-- DBGAUX: TAG and CM are written, COUNT stays (R383). -/
def State.writeDbgAux (s : State) (d : Nat) (v : BitVec 32) : State :=
  s.modDie d fun x => { x with dbgaux := (x.dbgaux &&& 0x1F00) ||| (v &&& 0x1F) }
/-- DBGSTAT: a written 1 clears WREJ (R383). -/
def State.writeDbgStat (s : State) (d : Nat) (v : BitVec 32) : State :=
  if v.getLsbD 1 then s.modDie d fun x => { x with wrej := false } else s

/-- DBGDATA_READ on die `sel`: the host receives the item (R383). -/
def execDbgdataRead (s : State) : Host.Outcome State Fault Refusal :=
  .next (
    let x := s.dbgRead s.sel
    { x.1 with hostReply := { ok := true, value := x.2.setWidth 128 } })

/-- DBGDATA_WRITE (R383). -/
def execDbgdataWrite (die : BitVec 1) (value : BitVec 64) (s : State) : Host.Outcome State Fault Refusal :=
  .next (s.dbgWrite die.toNat value)

end Sys2Proof.Machine
end

