-- ==== Sys2Proof/Machine/CopyEngine.lean ====
section
/-! DEFINITION. The copy engine: what one command moves, its conversions, faults and poison, the start and the end of
commands, completion counters and slot events (R65, R136 to R138, R149 to R158, R323). `State.sel` names the command,
by its place in `State.cmds`, the operand read or the team that an event concerns (log 3). -/

namespace Sys2Proof.Machine

open Sys2Proof

/-! ## The elements of a command (R323) -/

/-- The row that a command moves is the scale array with which a block-scaled CPT ends (R323). -/
def Cmd.scaleRow (c : Cmd) : Bool := decide (c.row = destRows (c.kind == .cpt) c.desc)

/-- Elements of the row that a command moves. -/
def Cmd.rowElems (c : Cmd) : Nat := if c.scaleRow then scaleBytes c.desc else destElems (c.kind == .cpt) c.desc

/-- Half bytes of a source element and of a destination element of the row: of the scale array, bytes. -/
def Cmd.srcSize (c : Cmd) : Nat := if c.scaleRow then 2 else halfBytes (descSfmt c.desc)
/-- See `srcSize`. -/
def Cmd.dstSize (c : Cmd) : Nat := if c.scaleRow then 2 else halfBytes (descDfmt c.desc)

/-- Half bytes from SRC to element `p` of the row (R113, R323). -/
def Cmd.srcHalf (c : Cmd) (p : Nat) : Nat :=
  let d := c.desc
  if c.scaleRow then 2 * (descRows d * descSstride d + p % (descRows d / 32) * (descLen d / 32) + p / (descRows d / 32))
  else if c.kind = .cpt then 2 * (p * descSstride d) + c.row * c.srcSize
  else 2 * (c.row * descSstride d) + p * c.srcSize
/-- Half bytes from DST to element `p` of the row (R113, R323). -/
def Cmd.dstHalf (c : Cmd) (p : Nat) : Nat := 2 * (c.row * descDstride c.desc) + p * c.dstSize

/-- Bytes that hold one source element. -/
def Cmd.srcBytes (c : Cmd) : Nat := max 1 (c.srcSize / 2)

/-- Address of the byte that element `p` starts in, at its source and at its destination. -/
def Cmd.srcVa (c : Cmd) (p : Nat) : BitVec 64 := addNat (descSrc c.desc) (c.srcHalf p / 2)
/-- See `srcVa`. -/
def Cmd.dstVa (c : Cmd) (p : Nat) : BitVec 64 := addNat (descDst c.desc) (c.dstHalf p / 2)

/-- Source elements of the row lie one after the other. -/
def Cmd.contiguous (c : Cmd) : Bool := !c.scaleRow && c.kind != .cpt

/-- The command has moved everything. -/
def Cmd.moved (c : Cmd) : Bool :=
  let cpt := c.kind == .cpt
  let rows := destRows cpt c.desc
  decide (rows < c.row) || (decide (c.row = rows) && (scaleBytes c.desc == 0 || !cpt))

/-- The last source element has been read (R148). -/
def Cmd.allRead (c : Cmd) : Bool :=
  c.moved || (decide (destRows (c.kind == .cpt) c.desc ≤ c.row + 1) && decide (c.rowElems ≤ c.pos))

/-- The element after the aligned word of the source in which element `p` lies: a word is read whole (R136, R160). -/
def Cmd.wordEnd (c : Cmd) (p : Nat) : Nat :=
  if c.contiguous then
    let at_ := 2 * (descSrc c.desc).toNat + c.srcHalf p
    min c.rowElems (p + max 1 ((8 - at_ % 8) / c.srcSize))
  else p + 1

/-- The 64 KiB page of an element's source. -/
def Cmd.pageOf (c : Cmd) (p : Nat) : Nat := (c.srcVa p).toNat / 65536

/-- Where a read of up to `k` words from element `p` ends: in its row and its page. -/
def Cmd.readEnd (c : Cmd) (page : Nat) : Nat → Nat → Nat
  | 0, p => p
  | k + 1, p => if p < c.rowElems ∧ (descSscr c.desc ∨ c.pageOf p = page) then c.readEnd page k (c.wordEnd p) else p

/-- The first element of what is read and still to be written. -/
def Cmd.carryPos (c : Cmd) : Nat := c.pos - c.carry.length

/-- Where the next write ends: all that is read up to the row's end, else up to the last aligned word of the destination
that is complete; in global memory no further than the page (R136, R157, R160). -/
def Cmd.writeEnd (c : Cmd) : Nat :=
  let whole := if c.rowElems ≤ c.pos then c.pos
    else c.pos - (2 * (descDst c.desc).toNat + c.dstHalf c.pos) % 8 / c.dstSize
  if descDscr c.desc then whole
  else min whole (c.carryPos + (65536 - (c.dstVa c.carryPos).toNat % 65536) * 2 / c.dstSize)

/-- Something that has been read can be written. -/
def Cmd.canWrite (c : Cmd) : Bool := decide (c.carryPos < c.writeEnd)

/-- The next access lies in a page that the last one did not (R157). -/
def Cmd.newPage (c : Cmd) : Bool :=
  if c.canWrite then !descDscr c.desc && c.dstPage != some ((c.dstVa c.carryPos).toNat / 65536)
  else !descSscr c.desc && c.srcPage != some (c.pageOf c.pos)

/-- The command has nothing more to move: it is done, has faulted, or is stopped at a page (R155, R157). -/
def Cmd.finished (c : Cmd) : Bool := c.moved || c.fault.isSome || (c.stop && c.newPage)

/-- A row whose elements are all written is done. -/
def Cmd.settleRow (c : Cmd) : Cmd :=
  if c.rowElems ≤ c.pos ∧ c.carry = [] then { c with row := c.row + 1, pos := 0 } else c

/-! ## Conversion (R153, R154) -/

/-- What a format code names as a float. -/
def codeFmt (c : Nat) : Option Fmt :=
  match c with
  | 1 => some .f32 | 2 => some .bf16 | 3 => some .f16 | 4 => some .e4m3 | 5 => some .e5m2
  | _ => none
/-- Width of an integer format code. -/
def codeInt (c : Nat) : Nat :=
  match c with
  | 6 => 32 | 7 => 8 | _ => 4

/-- One element converted (R107, R154): its code and conditions. Codes alike, or RAW, leave the bits (R100). -/
def convertElem (sf df : Nat) (m : Mode) (x : Nat) : Nat × Conds :=
  if sf = df then (x, 0)
  else
    let src : Num × Int := match codeFmt sf with
      | some f => (f.decode x, 0)
      | none => (.nan, (BitVec.ofNat (codeInt sf) x).toInt)
    match codeFmt df with
    | some g => round g m (if (codeFmt sf).isSome then src.1.exact else intExact src.2)
    | none =>
      let w := codeInt df
      let lo : Int := -(2 ^ (w - 1))
      let hi : Int := 2 ^ (w - 1) - 1
      if (codeFmt sf).isSome then
        let r := toInteger m lo hi src.1
        ((BitVec.ofInt w r.1).toNat, r.2)
      else ((BitVec.ofInt w (satInt src.2 lo hi)).toNat, 0)

/-! ## Moving -/

/-- The fault information word of a command: its kind (R365). -/
def CmdKind.code : CmdKind → BitVec 64
  | .cpb => 0 | .cps => 1 | .cpg => 2 | .cpt => 3 | .mmv => 4 | .drain => 5

/-- The unit of the error record for a place of the coherent image (R436). -/
def recordUnit (pa : Nat) : Nat :=
  match spaceOf pa with
  | .host => 0x14
  | .peer => 0x15
  | _ => 0x08

/-- An access of command `n` to memory is under way. -/
def State.copyOut (s : State) (n : Nat) : Bool :=
  s.jobOut fun j => match j with
    | .copyRead k _ => k == n
    | .copyWrite k => k == n
    | _ => false

/-- The elements from `pos` to `q` in the bytes read for them: their bits, each with whether it is uncorrectable. -/
def Cmd.elemsOf (c : Cmd) (q : Nat) (bs : List (Byte × Bool)) : List (Nat × Bool) :=
  (List.range (q - c.pos)).map fun k =>
    let p := c.pos + k
    let start := if c.contiguous then c.srcHalf p / 2 - c.srcHalf c.pos / 2 else k * c.srcBytes
    let b := (bs.drop start).take c.srcBytes
    let v := ofLe (b.map (·.1))
    (if c.srcSize = 1 then (if c.srcHalf p % 2 = 1 then v / 16 else v % 16) else v, b.any (·.2))

/-- Elements that have been read are converted, and carried until they are written (R107, R108, R154). The last scratch
read of a command ends its part as a consumer of its source slot (R148). -/
def State.copyTake (s : State) (n : Nat) (xs : List (Nat × Bool)) : State :=
  let c := s.cmds.getD n default
  let sf := if c.scaleRow then 0 else descSfmt c.desc
  let df := if c.scaleRow then 0 else descDfmt c.desc
  let out := xs.zipIdx.map fun p =>
    convertElem sf df { rm := c.rm, sat := c.sat, rnd := Config.srDraw (s.drawn + p.2) } p.1.1
  let conds := (out.zip xs).foldl (fun a x => if x.2.2 then a else a ||| x.1.2) 0
  let s1 := if sf = df then s else s.orCpstat c.own.team (conds &&& 0xF)
  let s2 := { s1.modCmd n fun x =>
    { x with pos := x.pos + xs.length, carry := x.carry ++ (out.zip xs).map fun p => (p.1.1, p.2.2) } with
    drawn := s.drawn + xs.length }
  if descSscr c.desc && (s2.cmds.getD n default).allRead then
    s2.modSlot c.own.team c.half c.slot Slot.readDone
  else s2

/-- Source elements up to `q` read from scratch at their banks; a poisoned word is recorded (R156). -/
def State.copyScratch (s : State) (n q : Nat) : State :=
  let c := s.cmds.getD n default
  let off := (descSrc c.desc).toNat + c.srcHalf c.pos / 2
  let bs := (s.half c.own.team c.half).scratchRead off (c.srcHalf (q - 1) / 2 + c.srcBytes - c.srcHalf c.pos / 2)
  let s1 := if bs.any (·.2) then
      s.errorRecord (dieOfCore c.core) 0x02 1 (s.team c.own.team).ctxid off (BitVec.ofNat 64 c.core) else s
  s1.copyTake n (c.elemsOf q bs)

/-- The lines of source elements up to `q` in the page of a leaf. -/
def Cmd.readPieces (c : Cmd) (l : Leaf) (q : Nat) : List Piece :=
  let one (p n : Nat) : List Piece := cutLines (c.srcVa p) l (n + 1) (l.pa (c.srcVa p)) n 0
  if c.contiguous then one c.pos (c.srcHalf (q - 1) / 2 + c.srcBytes - c.srcHalf c.pos / 2)
  else (List.range (q - c.pos)).flatMap fun k => one (c.pos + k) c.srcBytes

/-- An access of a command to memory sets out, in the command's class and address space (R78, R138, R230). -/
def State.copyFlight (s : State) (c : Cmd) (job : Job) (op : AccOp) (bs : List Byte) (marks : List Nat)
    (ps : List Piece) : State :=
  s.launchFlight { s.agentFlight c.own.team c.core job op bs ps with ccls := c.ccls, asid := c.asid, marks := marks }

/-- Up to `k` words more are read: from scratch at once, from global memory as an access; or the fault that stops the
command (R155). A walk that must wait leaves the command where it is. -/
def State.copyRead (s : State) (n k : Nat) : State :=
  let c := s.cmds.getD n default
  let q := c.readEnd (c.pageOf c.pos) k c.pos
  if q ≤ c.pos then s
  else if descSscr c.desc then s.copyScratch n q
  else
    match s.walkNow c.core c.asid c.root c.cm (c.srcVa c.pos) { rd := true } 5 with
    | (s1, .ok l _) =>
      (s1.modCmd n fun x => { x with srcPage := some (c.pageOf c.pos) }).copyFlight c (.copyRead n (q - c.pos)) .load [] []
        (c.readPieces l q)
    | (s1, .fault f) => s1.modCmd n fun x => { x with fault := some { f with info := c.kind.code } }
    | (s1, .walk) => s1

/-- What a read for a command has returned: uncorrectable bytes are recorded, and the elements are taken (R156). -/
def State.copyReadDone (s : State) (n k : Nat) (f : Flight) : State :=
  let c := s.cmds.getD n default
  let s1 := f.pieces.foldl (fun x p => if p.bad.contains true then
    x.errorRecord (dieOfCore c.core) (recordUnit p.pa) 1 (s.team c.own.team).ctxid p.pa
      (BitVec.ofNat 64 c.core) else x) s
  if c.stage = .started then s1.copyTake n (c.elemsOf (c.pos + k) f.loaded) else s1

/-- The bytes of converted elements (R153). -/
def copyElemBytes (half : Nat) (xs : List Nat) : List Byte := leBytes (xs.length * half / 2) (joinElems (4 * half) xs)

/-- The bytes of elements, of so many half bytes each, that are uncorrectable. -/
def badBytes (half : Nat) (xs : List Bool) : List Nat :=
  (List.range (xs.length * half / 2)).filter fun j =>
    (List.range 2).any fun h => xs.getD ((2 * j + h) / half) false

/-- What can be written is: to scratch at once, where a slot counts it, or to global memory as an access; or the fault that
stops the command. A bad element leaves its bytes so (R61, R65, R138, R148, R155, R156). -/
def State.copyWrite (s : State) (n : Nat) : State :=
  let c := s.cmds.getD n default
  let w := c.carryPos
  let xs := c.carry.take (c.writeEnd - w)
  let bs := copyElemBytes c.dstSize (xs.map (·.1))
  let marks := badBytes c.dstSize (xs.map (·.2))
  let drop (x : Cmd) : Cmd := { x with carry := x.carry.drop xs.length }
  if descDscr c.desc then
    let at_ := (descDst c.desc).toNat + c.dstHalf w / 2
    let s1 := s.modHalf c.own.team c.half fun h => marks.foldl (fun h j => h.scratchPoison (at_ + j) 1) (h.scratchWrite at_ bs)
    (s1.modSlot c.own.team c.half c.slot fun x => x.arrive bs.length).modCmd n fun x => (drop x).settleRow
  else
    match s.walkNow c.core c.asid c.root c.cm (c.dstVa w) { wr := true } 6 with
    | (s1, .ok l pa) =>
      let ps := cutLines (c.dstVa w) l (bs.length + 1) pa bs.length 0
      (s1.modCmd n fun x => { (drop x).settleRow with
          wrote := x.wrote ++ ps.map fun p => lineOf p.addr, dstPage := some ((c.dstVa w).toNat / 65536) }).copyFlight c
        (.copyWrite n) .store bs marks ps
    | (s1, .fault f) => s1.modCmd n fun x => { x with fault := some { f with info := c.kind.code } }
    | (s1, .walk) => s1

/-- The next access of a command that is not finished and waits for none: it writes what it has read, or reads up to `k`
words more (R154 to R156, R323). -/
def State.copyStep (s : State) (n k : Nat) : State :=
  let c := s.cmds.getD n default
  if c.finished || s.copyOut n then s
  else if c.canWrite then s.copyWrite n
  else s.copyRead n k

/-! ## Starting (R146, R149, R150) -/

/-- The place of a core's first command that waits to start, copies only (R146). -/
def State.firstQueued (s : State) (core : Nat) : Option Nat :=
  (List.range s.cmds.length).find? fun n =>
    let c := s.cmds.getD n default
    c.kind.isCopy && c.core == core && c.stage == .queued

/-- The slices of one bulk command, by place (R149, R324). -/
def State.slicesOf (s : State) (c : Cmd) : List Nat :=
  (List.range s.cmds.length).filter fun n =>
    let x := s.cmds.getD n default
    x.kind == .cpb && x.own.team == c.own.team && x.half == c.half && x.bulk == c.bulk

/-- COPY groups of a team's half that still have a thread (R149, R324). -/
def State.copyGroups (s : State) (t h : Nat) : List Nat :=
  (List.range (s.groupCount t)).filter fun g =>
    (s.group t g).role == 1 && (s.liveRefs t g).any fun r => (s.thr r).half == h

/-- Every COPY group's slice has arrived, and no earlier bulk command of the half waits (R149). -/
def State.bulkReady (s : State) (c : Cmd) : Bool :=
  let mine := (s.slicesOf c).map fun n => s.cmds.getD n default
  mine.all (fun x => x.stage == .slice) &&
    (s.copyGroups c.own.team c.half).all (fun g => mine.any fun x => (s.thr x.own).group == g) &&
    s.cmds.all fun x => !(x.kind == .cpb && x.own.team == c.own.team && x.half == c.half && x.stage == .slice &&
      decide (x.bulk < c.bulk))

/-- What all slices of a bulk command must share (R150). -/
def Cmd.bulkKey (c : Cmd) : Nat × Nat × Nat × Bool × BitVec 64 × BitVec 64 × BitVec 3 × Bool :=
  (c.slot, descSfmt c.desc, descDfmt c.desc, c.hasCtr, c.ctr, c.inc, c.rm, c.sat)

/-- The groups of a team have room for one more report each (R364). -/
def State.roomFor (s : State) (t : Nat) (gs : List Nat) : Bool :=
  gs.all fun g => decide ((s.group t g).reports.length < 8)

/-- A slice of a bulk command whose slices differ: nothing is written, its slot ends with ERR (R150). -/
def State.dropSlice (s : State) (n : Nat) : State :=
  let c := s.cmds.getD n default
  (s.modCmd n fun x => { x with stage := .complete }).modSlot c.own.team c.half c.slot fun x =>
    x.endProduce (s.thr c.own).group false

/-- Nothing that a core's copy engine accepted before place `n` still waits to start; a bulk command is accepted with its
last slice (R146, R149). -/
def State.startsNext (s : State) (core n : Nat) : Bool :=
  (List.range n).all fun k =>
    let x := s.cmds.getD k default
    !(x.kind.isCopy && x.core == core) || !(x.stage == .queued ||
      (x.stage == .slice && s.bulkReady x && (s.slicesOf x).all fun j => decide (j < n)))

/-- BULK_COMMAND_START of the bulk command of slice `sel` (R149, R150). Slices that differ end it, with a report to each
COPY group. The report waits for room in the groups' queues, as for an instruction (R364). -/
def execBulkCommandStart (s : State) : Host.Outcome State Fault Refusal :=
  .next (
    let c := s.cmds.getD s.sel default
    let last := (s.slicesOf c).foldl max 0
    if !(decide (s.sel < s.cmds.length) && c.kind == .cpb && c.stage == .slice && s.bulkReady c &&
        s.startsNext c.core last) then s
    else
      let ns := s.slicesOf c
      let keys := (ns.map fun n => (s.cmds.getD n default).bulkKey).eraseDups
      if keys.length ≤ 1 then ns.foldl (fun x n => x.modCmd n fun y => { y with stage := .started }) s
      else if !s.roomFor c.own.team (s.copyGroups c.own.team c.half) then s
      else
        let s1 := ns.foldl State.dropSlice s
        (ns.map fun n => s.cmds.getD n default).foldl (fun x y =>
          x.pushReport y.own.team (s.thr y.own).group (Report.of (illegalFault rMismatch) y.addr y.from_)) s1)

/-- COPY_COMMAND_START of command `sel`: the first accepted one of its core that has not started, no bulk command
accepted before it being left (R146). -/
def execCopyCommandStart (s : State) : Host.Outcome State Fault Refusal :=
  .next (
    let c := s.cmds.getD s.sel default
    if s.firstQueued c.core = some s.sel ∧ s.startsNext c.core s.sel = true then
      s.modCmd s.sel fun x => { x with stage := .started }
    else s)

/-! ## Arrival (R65) -/

/-- How many words the next read of the command of an event takes: `sel2`, or with 0 as many as its row has. -/
def State.wordsNow (s : State) : Nat :=
  if s.sel2 = 0 then (s.cmds.getD s.sel default).rowElems else s.sel2

/-- SLOT_BYTES_ARRIVE of the started command `sel`: the next access of its move to scratch. What it has read reaches the
slot, or it reads up to `sel2` words more (R65, R148, R323). -/
def execSlotBytesArrive (s : State) : Host.Outcome State Fault Refusal :=
  .next (
    let c := s.cmds.getD s.sel default
    if c.kind.isCopy ∧ c.stage = .started ∧ descDscr c.desc = true then s.copyStep s.sel s.wordsNow else s)

/-- SLOT_READ_COMPLETE of operand read `sel` (R65, R321). -/
def execSlotReadComplete (s : State) : Host.Outcome State Fault Refusal :=
  .next (
    let x := s.slotReads.getD s.sel default
    if decide (s.sel < s.slotReads.length) && x.live then
      { s with slotReads := s.slotReads.modify s.sel fun y => { y with live := false } }.modSlot x.team x.half x.slot
        Slot.readDone
    else s)

/-! ## The end of a command (R137, R151, R155, R157, R158) -/

/-- The lines that a command has written leave its core's L1 before it counts as complete (R138). -/
def State.dropWrote (s : State) (c : Cmd) : State := c.wrote.foldl (fun x l => x.l1Drop c.core l) s

/-- A command that has written all it will adds to its counter, as an access at the counter's home, with the fault mark when
it is not clean (R137, R158); or it takes the fault of the counter's translation. -/
def State.counterSend (s : State) (n : Nat) (clean : Bool) : State :=
  let c := s.cmds.getD n default
  match s.walkNow c.core c.asid c.root c.cm c.ctr { rd := true, wr := true } 6 with
  | (s1, .ok l pa) =>
    (s1.modCmd n fun x => { x with stage := .counting }).copyFlight c (.count n) (.count c.inc (!clean)) (List.replicate 8 0)
      [] (cutLines c.ctr { l with kind := 0 } 9 pa 8 0)
  | (s1, .fault f) => s1.modCmd n fun x => { x with stage := .counting, countFault := some { f with info := c.kind.code } }
  | (s1, .walk) => s1

/-- A command of each batch is complete, with its fault if it had one (R151, R155). -/
def State.batchesEnd (s : State) (c : Cmd) (fault : Option LaneFault) : State :=
  s.endJoins c.own.team c.joins fault

/-- CPSTAT.FAULT rises (R155). -/
def State.cpstatFault (s : State) (t : Nat) : State := s.modTeam t fun x => { x with cpstat := x.cpstat ||| 0x10 }

/-- The slot of a command takes the end of its part; that of a source, unless the last read has ended it (R65, R148). -/
def State.slotEnd (s : State) (c : Cmd) (clean : Bool) : State :=
  if descDscr c.desc then
    s.modSlot c.own.team c.half c.slot fun x => x.endProduce (s.thr c.own).group clean
  else if descSscr c.desc && !c.allRead then s.modSlot c.own.team c.half c.slot Slot.readDone
  else s

/-- A CPB slice that faults is reported to its group (R155, R365). -/
def State.sliceReport (s : State) (c : Cmd) (fault : Option LaneFault) : State :=
  match c.kind, fault with
  | .cpb, some f => s.pushReport c.own.team (s.thr c.own).group (Report.of f c.addr c.from_)
  | _, _ => s

/-- ESTAT.FAULT rises (R320, R333, R337). -/
def State.estatFault (s : State) (t : Nat) : State := s.modTeam t fun x => { x with estat := x.estat ||| 0x80 }

/-! ## Drained tiles (R333, R334) -/

/-- The place in the coherent image of byte `off` of a drain's block. -/
def drainPlace (pa : Nat) (plinth : Bool) (off : Nat) : Nat := imageAddr plinth (pa + off)

/-- Old elements of a drain's block, each with whether it is uncorrectable (R333). -/
def State.drainOld (s : State) (pa : Nat) (plinth : Bool) (ed : Nat) : List (Nat × Bool) :=
  (List.range 1024).map fun k =>
    let bs := s.imageRead (drainPlace pa plinth (ed * k)) ed
    (ofLe (bs.map (·.1)), bs.any (·.2))

/-- What a drain writes: the bytes of its 1,024 elements, its conditions, and the elements that are uncorrectable in the
tile or, of an add form, in the block (R333). -/
def State.drainResult (s : State) (d : Drain) (pa : Nat) (plinth : Bool) : List Byte × Conds × List Nat :=
  let ed := drainBytes d.fmt
  let old := if d.add then s.drainOld pa plinth ed else []
  let bad := d.bad ++ (old.zipIdx.filter fun p => p.1.2).map (·.2)
  let r := d.elems s.drawn (old.map (·.1)) bad
  (r.1.flatMap (leBytes ed), r.2, bad)

/-- An uncorrectable element that a drain meets is recorded (R434, R436). -/
def State.drainRecord (s : State) (d : Drain) (bad : List Nat) (pa team core : Nat) : State :=
  if bad.isEmpty then s
  else s.errorRecord (dieOfCore core) (if d.bad.isEmpty then recordUnit pa else 0x03) 1 (s.team team).ctxid pa
    (BitVec.ofNat 64 core)

/-- The lines of the coherent image that a drain writes. -/
def Drain.lines (d : Drain) (pa : Nat) (plinth : Bool) : List Nat :=
  (List.range (8 * drainBytes d.fmt)).map fun k => drainPlace pa plinth (128 * k)

/-- A drain performed at its home in one piece, as an add-on-store or as a region's one write, with its conditions (R87,
R135, R333, R334). -/
def State.drainPut (s : State) (d : Drain) (pa : Nat) (plinth : Bool) (team core : Nat) : State × Conds :=
  let ed := drainBytes d.fmt
  let (bs, conds, bad) := s.drainResult d pa plinth
  let s1 := (List.range (8 * ed)).foldl (fun x k =>
    x.homeWrite (pa + 128 * k) (drainPlace pa plinth (128 * k)) ((bs.drop (128 * k)).take 128) (s.harvest team) 0) s
  let s2 := bad.foldl (fun x k => x.homePoison (drainPlace pa plinth (ed * k)) ed) s1
  ({ (s2.drainRecord d bad pa team core).l1Age (drainPlace pa plinth 0) with drawn := s.drawn + 1024 }, conds)

/-- A drain command ends: its lines leave its core's L1, and its batches take it, with the fault if its access was lost
(R83, R138, R333). -/
def State.drainEnd (s : State) (n : Nat) (lost : Bool) : State :=
  let c := s.cmds.getD n default
  let s1 := (s.modCmd n fun x => { x with stage := .complete }).dropWrote c
  if lost then (s1.batchesEnd c (some { poisonFault with acc := 6, va := c.ctr, info := c.kind.code })).estatFault c.own.team
  else s1.batchesEnd c none

/-! ## Completion -/

/-- The slices of a copy command's bulk command, or the command itself. -/
def State.matesOf (s : State) (n : Nat) : List Nat :=
  let c := s.cmds.getD n default
  if c.kind = .cpb then s.slicesOf c else [n]

/-- The command, which is finished or discarded, has done all that it was to do. -/
def Cmd.clean (c : Cmd) : Bool := c.fault.isNone && c.moved

/-- A copy command ends: its lines leave the L1, its batch, slot and reports take it, with the fault of its counter if that
had one (R65, R138, R151, R155, R157, R158). -/
def State.copyFinish (s : State) (n : Nat) : State :=
  let c := s.cmds.getD n default
  let fault := c.fault.orElse fun _ => c.countFault
  let s1 := (s.modCmd n fun x => { x with stage := .complete }).dropWrote c
  let s2 := (s1.batchesEnd c fault).slotEnd c (c.clean && c.countFault.isNone)
  let s3 := if fault.isSome then s2.cpstatFault c.own.team else s2
  let s4 := s3.sliceReport c fault
  if c.kind = .cpb ∧ c.countFault.isSome then
    ((s.matesOf n).filter (· != n)).foldl (fun x k => x.sliceReport (s.cmds.getD k default) c.countFault) s4
  else s4

/-- Command `n`, which moves nothing more, ends; the last slice of a bulk command, or a command of its own, first adds to
its counter, once its lines have left the L1 (R138, R149, R158). -/
def State.copyEnd (s : State) (n : Nat) : State :=
  let c := s.cmds.getD n default
  let mates := s.matesOf n
  let last := mates.all fun k => k == n || (s.cmds.getD k default).stage == .complete
  if c.hasCtr && last then
    (s.dropWrote c).counterSend n (mates.all fun k => (s.cmds.getD k default).clean)
  else s.copyFinish n

/-- A command's add to its counter has been answered, or could not be made: the command ends. -/
def State.countDone (s : State) (n : Nat) : State :=
  if (s.cmds.getD n default).stage = .counting then s.copyFinish n else s

/-- COPY_COMMAND_COMPLETE of command `sel`. A started command with a global destination makes its next access, a read of up
to `sel2` words or of all that its row has there; one that has nothing more to move, with none of its accesses under
way, ends. A command with a scratch destination must have moved its bytes (SLOT_BYTES_ARRIVE), have faulted or been
stopped; one not started ends only when it is stopped (R155, R157). One whose counter could not be reached ends here. -/
def execCopyCommandComplete (s : State) : Host.Outcome State Fault Refusal :=
  .next (
    let c := s.cmds.getD s.sel default
    let waiting := (c.stage == .queued || c.stage == .slice) && c.stop
    if !(decide (s.sel < s.cmds.length) && c.kind.isCopy) then s
    else if c.kind == .cpb && !s.roomFor c.own.team (s.copyGroups c.own.team c.half) then s
    else if waiting then s.copyEnd s.sel
    else if c.stage == .counting && c.countFault.isSome then s.copyFinish s.sel
    else if c.stage != .started || s.copyOut s.sel then s
    else if c.finished then s.copyEnd s.sel
    else if descDscr c.desc then s
    else s.copyStep s.sel s.wordsNow)

/-- CPCTR_POLL of the throttled thread `sel2` of team `sel`: it reads its counter again, and goes on if that is at
least the target (R159, R167). -/
def execCpctrPoll (s : State) : Host.Outcome State Fault Refusal :=
  .next (
    let r : Ref := ⟨s.sel, s.sel2⟩
    match (s.thr r).wait with
    | some (.counter a tgt false _) =>
      s.atHomes (match s.counterAt a with
        | some v => if v.ult tgt then s else s.modThr r fun t => { t with wait := none }
        | none => s.modThr r fun t => { t with wait := none })
    | _ => s)

end Sys2Proof.Machine
end

