-- ==== Sys2Proof/Machine/Engine.lean ====
section
/-! DEFINITION. The matrix engine performing what it has accepted: MMA, MMAS, MMAQ, MZERO, MLDA, MDRN, the spline
instructions and the context instructions; add-on-stores at their home (R61, R65, R70, R71, R87, R320, R321, R330 to
R334, R342 to R354, R388). -/

namespace Sys2Proof.Machine

open Sys2Proof

/-! ## What the engine reads and writes -/

/-- The half that an entry works on. -/
def State.entryHalf (s : State) (e : MEntry) : Half := s.half e.team e.half
/-- The first `n` bytes of a slot (R330). -/
def Half.slotBytes (h : Half) (slot n : Nat) : List Byte := readSpan h.scratch (h.slots.getD slot default).off n
/-- Some word of the first `n` bytes of a slot is poisoned (R61). -/
def Half.slotBad (h : Half) (slot n : Nat) : Bool :=
  let o := (h.slots.getD slot default).off
  setHits h.scrPoison (o / 4 * 4) (o % 4 + n)
/-- A slot's FMT. -/
def Half.slotTag (h : Half) (slot : Nat) : Tag := (h.slots.getD slot default).fmt
/-- A tile. -/
def Half.tile (h : Half) (x : Nat) : Tile := h.tiles.getD x default

/-- A tile's contents from its elements (R70). -/
def tileOf (tag : Tag) (es : List Nat) : Tile := { tag := tag, bytes := memOf 0 (es.flatMap (leBytes 4)), bad := [] }
/-- One tile replaced. -/
def State.putTile (s : State) (e : MEntry) (x : Nat) (t : Tile) : State :=
  s.modHalf e.team e.half fun h => { h with tiles := h.tiles.set x t }
/-- An uncorrectable element that is read makes its tile POISON (R70), which is recorded (R434). -/
def State.poisonTile (s : State) (e : MEntry) (x : Nat) : State :=
  (s.modHalf e.team e.half fun h => { h with tiles := h.tiles.modify x fun t => { t with tag := tagPOISON } }).errorRecord
    (dieOfCore e.core) 0x03 1 (s.team e.team).ctxid x (BitVec.ofNat 64 e.core)

/-- What performing an entry gives: the state after it, and the report it queues, if any (R365). -/
abbrev Performed := State × Option Report

/-- A report of an entry (R365, R366). -/
def MEntry.report (e : MEntry) (f : LaneFault) : Report := Report.of f e.addr e.from_

/-! ## MMA, MMAS, MMAQ (R331) -/

/-- A matrix instruction on tile `x`: `ranges` are the slots it reads with their bytes, `product` the new elements and
their conditions from the old ones, `tag` the tile's. -/
def State.doMatrix (s : State) (e : MEntry) (x : Nat) (ranges : List (Nat × Nat)) (tag : Tag)
    (product : List Nat → List Nat × Conds) : Performed :=
  let h := s.entryHalf e
  let t := h.tile x
  if ranges.any fun p => h.slotBad p.1 p.2 then (s, some (e.report poisonFault))
  else if !t.bad.isEmpty then (s.poisonTile e x, none)
  else if t.tag = tagPOISON then (s, none)
  else
    let r := product (tileElems t.bytes)
    ((s.putTile e x (tileOf tag r.1)).orEstat e.team r.2, none)

/-- The rows or columns of an operand in slot `y` (R330). -/
def Half.operand (h : Half) (y depth : Nat) (transposing : Bool) : List (List Nat) :=
  operandRows (h.slotTag y) depth transposing (h.slotBytes y (32 * depth))

/-- MMA performed (R331). -/
def State.doMma (s : State) (e : MEntry) (x y z : Nat) (ta tb : Bool) (depth : Nat) : Performed :=
  let h := s.entryHalf e
  let fa := h.slotTag y
  let fb := h.slotTag z
  s.doMatrix e x [(y, 32 * depth), (z, 32 * depth)] ((mmaTag [fa, fb]).getD tagRAW) fun old =>
    if mmaTag [fa, fb] = some tagI32 then
      tileProduct (accumulateInt e.sat) old (intRows fa (h.operand y depth ta)) (intRows fb (h.operand z depth tb))
    else
      tileProduct (accumulate (accMode e.sat)) old (floatRows fa none (h.operand y depth ta))
        (floatRows fb none (h.operand z depth tb))

/-- MMAS performed (R111, R331). -/
def State.doMmas (s : State) (e : MEntry) (x y z : Nat) (ta tb : Bool) (k : BitVec 2) : Performed :=
  let h := s.entryHalf e
  let depth := depthBytes k
  let fa := h.slotTag y
  let fb := h.slotTag z
  let na := depthK fa k / 32
  let nb := depthK fb k / 32
  s.doMatrix e x [(y, 32 * depth), (y + 1, na), (z, 32 * depth), (z + 1, nb)] tagF32 fun old =>
    tileProduct (accumulate (accMode e.sat)) old
      (floatRows fa (some (h.slotBytes (y + 1) na)) (h.operand y depth ta))
      (floatRows fb (some (h.slotBytes (z + 1) nb)) (h.operand z depth tb))

/-- MMAQ performed (R114, R331). -/
def State.doMmaq (s : State) (e : MEntry) (x y z : Nat) (q k : BitVec 2) : Performed :=
  let h := s.entryHalf e
  let depth := depthBytes k
  let f := h.slotTag y
  let pg := paramGroups f q k
  s.doMatrix e x [(y, 32 * depth), (z, 32 * depth), (z + 1, 4 * paramWords f q k)] tagF32 fun old =>
    tileProduct (accumulate (accMode e.sat)) old (symRows f (h.operand y depth false))
      (asymRows f (groupSize q) pg (elemList 8 (h.slotBytes (z + 1) (4 * paramWords f q k))) (h.operand z depth false))

/-! ## MLDA, MDRN (R332, R333) -/

/-- MLDA performed (R332). -/
def State.doMlda (s : State) (e : MEntry) (x y : Nat) : Performed :=
  let h := s.entryHalf e
  let t := tileOf (h.slotTag y) (elemList 8 (h.slotBytes y 4096))
  (s.putTile e x (if h.slotBad y 4096 then { t with tag := tagPOISON } else t), none)

/-- The tile as a drain reads it; a tile with an uncorrectable element becomes POISON (R70, R333). -/
def State.readDrain (s : State) (e : MEntry) (x : Nat) (f : BitVec 4) (add : Bool) : State × Drain :=
  let h := s.entryHalf e
  (if (h.tile x).bad.isEmpty then s else s.poisonTile e x, h.drainOf x f add e.rm e.sat)

/-- MDRN.S or MDRN.SADD performed: written from the slot's base, counted into ARRIVED, and the producer's end. An
element of the tile, or an old one of .SADD, that is uncorrectable leaves its place in scratch poisoned (R61, R65,
R333). -/
def State.doDrainSlot (s : State) (e : MEntry) (x y : Nat) (f : BitVec 4) (add : Bool) : Performed :=
  let (s1, d) := s.readDrain e x f add
  let h := s.entryHalf e
  let ed := drainBytes f
  let base := (h.slots.getD y default).off
  let old := if add then (List.range 1024).map fun k => h.scratchRead (base + ed * k) ed else []
  let bad := d.bad ++ (old.zipIdx.filter fun p => p.1.any (·.2)).map (·.2)
  let r := d.elems s.drawn (old.map fun bs => ofLe (bs.map (·.1))) bad
  let s2 := s1.modHalf e.team e.half fun h =>
    bad.foldl (fun h k => h.scratchPoison (base + ed * k) ed) (h.scratchWrite base (r.1.flatMap (leBytes ed)))
  let s3 := s2.modSlot e.team e.half y fun sl => (sl.arrive (1024 * ed)).endProduce e.group true
  ({ s3.orEstat e.team r.2 with drawn := s.drawn + 1024 }, none)

/-- The leaf of a page of which an entry keeps only the layout: engine accesses keep no order that its kind makes. -/
def layoutLeaf (plinth : Bool) : Leaf := { identityLeaf 0 with plinth := plinth, kind := 0 }

/-- The piece of a whole 4 KiB block, as which an add-on-store arrives (R87). -/
def blockPiece (pa : Nat) (plinth : Bool) : Piece :=
  { (default : Piece) with pa := pa, addr := imageAddr plinth pa / 4096 * 4096, len := 4096, kind := .rc, stage := .held }

/-- MDRN.G or MDRN.GADD: the tile is read, and the drain goes to memory as a command: its bytes as a store, or as one
add-on-store (R87, R333). -/
def State.doDrainMem (s : State) (e : MEntry) (x : Nat) (f : BitVec 4) (add : Bool) : Performed :=
  let (s1, d) := s.readDrain e x f add
  let p := e.parts.headD (0, 0, false)
  let n := s1.cmds.length
  let c := { (default : Cmd) with
    kind := .drain, stage := .started, own := e.own, joins := e.joins, half := e.half, core := e.core, addr := e.addr,
    ctr := e.arg, rm := e.rm, sat := e.sat, drain := some d, from_ := e.from_, pa := p.2.1, plinth := p.2.2,
    wrote := (d.lines p.2.1 p.2.2).map lineOf }
  let s2 := { s1 with cmds := s1.cmds ++ [c] }
  if add then (s2.launchFlight (s2.agentFlight e.team e.core (.drain n) .store [] [blockPiece p.2.1 p.2.2]), none)
  else
    let (bs, conds, bad) := s2.drainResult d p.2.1 p.2.2
    let ed := drainBytes f
    let g := s2.agentFlight e.team e.core (.drain n) .store bs
      (cutLines e.arg (layoutLeaf p.2.2) (bs.length + 1) p.2.1 bs.length 0)
    ((({ s2 with drawn := s2.drawn + 1024 }.drainRecord d bad p.2.1 e.team e.core).orEstat e.team conds).launchFlight
      { g with marks := bad.flatMap fun k => (List.range ed).map fun j => ed * k + j }, none)

/-! ## Spline instructions (R346 to R354) -/

/-- The coefficients of the vitrine by row k and column n, planes 0 to `n` − 1 (R71). -/
def vitCells (v : Mem) (n : Nat) : List (List (List Num)) :=
  let planes := (chunks 1024 n (elemList 4 (readSpan v 0 (2048 * n)))).map fun p => p.map Fmt.bf16.decode
  chunks 32 32 (columns 1024 planes)

/-- A 32 × 32 array of a slot, by row (R348). -/
def Half.grid (h : Half) (y : Nat) : List (List Num) :=
  let f := (elemFmt (h.slotTag y)).getD .f32
  let es := (elemList (if h.slotTag y = tagF32 then 8 else 4) (h.slotBytes y ((gridBytes (h.slotTag y)).getD 0)))
  chunks 32 32 (es.map f.decode)

/-- The lowest of the vitrine's uncorrectable cells that satisfy `p` (plane, cell) (R347). -/
def Half.badCell (h : Half) (p : Nat → Nat → Bool) : Option Nat :=
  (h.vitBad.filter fun b => p (b / 1024) (b % 1024)).foldl (fun m b => some (match m with | none => b | some k => min k b)) none

/-- The report of an uncorrectable vitrine cell (R347, R365). -/
def cellFault (b : Nat) : LaneFault := { poisonFault with info := BitVec.ofNat 10 (b % 1024) ++ BitVec.ofNat 6 (b / 1024) |>.setWidth 64 }

/-- The knot-grid register that an entry names. -/
def Half.knot (h : Half) (k : Nat) : Knot := h.knots.getD k default
/-- One knot-grid register replaced. -/
def State.putKnot (s : State) (e : MEntry) (k : Nat) (v : Knot) : State :=
  s.modHalf e.team e.half fun h => { h with knots := h.knots.set k v }

/-- Some argument's cell reads this vitrine cell (R345, R347): `reads` says of a placed argument whether its cells read
coefficients. -/
def readsCell (reads : Placed → Bool) (d : Nat) (args : List (List Placed)) (plane cell : Nat) : Bool :=
  args.any fun row =>
    let p := row.getD (cell / 32) default
    reads p && decide (p.i ≤ plane) && decide (plane ≤ p.i + d)

/-- An evaluation on the slots given with register `k` (R347): it fails on an unloaded register, on `other`, on a
poisoned operand, or on a vitrine cell that it reads; else its arguments are counted and `go` performs it. -/
def State.doGrid (s : State) (e : MEntry) (k : Nat) (slots : List Nat) (reads : Knot → Placed → Bool)
    (other : Knot → Option LaneFault) (go : Knot → List (List Placed) → State → State) : Performed :=
  let h := s.entryHalf e
  let kn := h.knot k
  if kn.g = 0 then (s, some (e.report (illegalFault rValue)))
  else match other kn with
    | some f => (s, some (e.report f))
    | none =>
      if slots.any fun y => h.slotBad y ((gridBytes (h.slotTag y)).getD 0) then (s, some (e.report poisonFault))
      else
        let args := (h.grid (slots.headD 0)).map fun row => row.map kn.place
        match h.badCell (readsCell (reads kn) kn.d args) with
        | some b =>
          (s.errorRecord (dieOfCore e.core) 0x04 1 (s.team e.team).ctxid b (BitVec.ofNat 64 e.core),
           some (e.report (cellFault b)))
        | none => (go kn args (s.putKnot e k (kn.count args)), none)

/-- A tile that an evaluation adds to, with its new elements and conditions (R70, R348). -/
def State.addTile (s : State) (e : MEntry) (x : Nat) (f : List Nat → List Nat × Conds) : State :=
  let t := (s.entryHalf e).tile x
  if !t.bad.isEmpty then s.poisonTile e x
  else if t.tag = tagPOISON then s
  else
    let r := f (tileElems t.bytes)
    (s.putTile e x (tileOf tagF32 r.1)).orEstat e.team r.2

/-- SPLEV performed (R353). -/
def State.doSplev (s : State) (e : MEntry) (x y k : Nat) : Performed :=
  s.doGrid e k [y] (fun kn p => p.reads kn) (fun _ => none) fun kn args s1 =>
    s1.addTile e x fun old => kn.evalTile old args (vitCells ((s.entryHalf e).vit.getD []) (kn.g + kn.d))

/-- SPLDR performed (R353). -/
def State.doSpldr (s : State) (e : MEntry) (x y k : Nat) : Performed :=
  s.doGrid e k [y, y + 1] (fun kn p => p.readsSlope kn) (fun _ => none) fun kn args s1 =>
    s1.addTile e x fun old =>
      kn.slopeTile old args (vitCells ((s.entryHalf e).vit.getD []) (kn.g + kn.d)) ((s.entryHalf e).grid (y + 1))

/-- The failure of a tile of SPLGR beyond its first, FORMAT before POISON (R353, R365). -/
def Half.laterTiles (h : Half) (x n : Nat) : Option LaneFault :=
  let xs := (List.range n).drop 1 |>.map (x + ·)
  let named (c : Cause) (j : Nat) : LaneFault := { cause := c, info := BitVec.ofNat 64 j }
  ((xs.find? fun j => (h.tile j).tag == tagI32).map (named .format)).orElse fun _ =>
    (xs.find? fun j => (h.tile j).tag == tagPOISON).map (named .poison)

/-- SPLGR performed (R353). -/
def State.doSplgr (s : State) (e : MEntry) (x y k : Nat) : Performed :=
  let h := s.entryHalf e
  s.doGrid e k [y, y + 1] (fun _ _ => false)
    (fun kn => if h.tiles.length ≤ x + kn.g + kn.d - 1 then some (illegalFault rRange) else h.laterTiles x (kn.g + kn.d))
    fun kn args s1 =>
      (List.range (kn.g + kn.d)).foldl (fun z p => z.addTile e (x + p) fun old => kn.gradTile old args (h.grid (y + 1)) p) s1

/-- SPLKG performed (R350). -/
def State.doSplkg (s : State) (e : MEntry) (k : Nat) : Performed :=
  (s.putKnot e k { w0 := e.arg, w1 := e.arg2 &&& 0x3FF, w2 := 0 }, none)

/-- The threads that an entry's fragment waits with, and that its guard lets act (R351, R388). -/
def State.heldBy (s : State) (e : MEntry) : List Ref :=
  (s.allRefs e.team).filter fun r => (s.thr r).wait == some (.engine e.id) && (s.thr r).pred (infoOf e.instr).g

/-- SPLKQ performed: the counters go to every active thread (R351). -/
def State.doSplkq (s : State) (e : MEntry) (k : Nat) (y : BitVec 6) : Performed :=
  ((s.heldBy e).foldl (fun x r => x.modThr r fun t => t.setPair y.toNat ((s.entryHalf e).knot k).w2 tagI32) s, none)

/-- SPLLD performed (R347, R352). -/
def State.doSplld (s : State) (e : MEntry) (x y z : Nat) : Performed :=
  let h := s.entryHalf e
  if h.slotBad y (2048 * z) then (s, some (e.report poisonFault))
  else
    (s.modHalf e.team e.half fun g => { g with
      vit := g.vit.map fun v => writeBytes v (2048 * x) (h.slotBytes y (2048 * z))
      vitBad := setDelRange g.vitBad (1024 * x) (1024 * z) }, none)

/-- SPLST performed: an uncorrectable cell is poisoned in scratch and reported (R347, R352). -/
def State.doSplst (s : State) (e : MEntry) (x y z : Nat) : Performed :=
  let h := s.entryHalf e
  let base := (h.slots.getD y default).off
  let bad := h.vitBad.filter fun b => decide (1024 * x ≤ b) && decide (b < 1024 * (x + z))
  let s1 := s.modHalf e.team e.half fun g =>
    bad.foldl (fun g b => g.scratchPoison (base + 2 * (b - 1024 * x)) 2)
      (g.scratchWrite base (readSpan (h.vit.getD []) (2048 * x) (2048 * z)))
  let s2 := s1.modSlot e.team e.half y fun sl => (sl.arrive (2048 * z)).endProduce e.group true
  match h.badCell fun p _ => decide (x ≤ p) && decide (p < x + z) with
  | some b =>
    (s2.errorRecord (dieOfCore e.core) 0x04 1 (s.team e.team).ctxid b (BitVec.ofNat 64 e.core),
     some (e.report (cellFault b)))
  | none => (s2, none)

/-- SPLRF performed (R347, R354). -/
def State.doSplrf (s : State) (e : MEntry) (k : Nat) : Performed :=
  let h := s.entryHalf e
  let kn := h.knot k
  let old := kn.g + kn.d
  let new := 2 * kn.g + kn.d
  if kn.noRefine then (s, some (e.report (illegalFault rValue)))
  else match h.badCell fun p _ => decide (p < old) with
    | some b =>
      (s.errorRecord (dieOfCore e.core) 0x04 1 (s.team e.team).ctxid b (BitVec.ofNat 64 e.core),
       some (e.report (cellFault b)))
    | none =>
      let cells := (vitCells (h.vit.getD []) old).flatMap id
      let planes := (List.range new).map fun q => cells.map (refineCell kn.d q)
      let conds := (planes.flatMap id).foldl (fun w x => w ||| x.2) 0
      let s1 := s.modHalf e.team e.half fun g => { g with
        vit := g.vit.map fun v => writeBytes v 0 (planes.flatMap fun p => p.flatMap fun c => leBytes 2 c.1)
        vitBad := setDelRange g.vitBad 0 (1024 * new) }
      ((s1.putKnot e k kn.refined).orEstat e.team conds, none)

/-! ## Context instructions (R105, R388) -/

/-- The pieces of an entry's record, in order (R388). -/
def MEntry.pieces (e : MEntry) : List Piece :=
  (e.parts.foldl (fun (acc : List Piece × Nat) p =>
    (acc.1 ++ cutLines e.arg (layoutLeaf p.2.2) (p.1 + 1) p.2.1 p.1 acc.2, acc.2 + p.1)) ([], 0)).1

/-- The access that an entry makes for its record, a plain access of its thread: a store of these bytes, each with whether
it is uncorrectable, or a load (R105, R388). -/
def State.recordAccess (s : State) (e : MEntry) (out : Option (List (Byte × Bool))) : Flight :=
  let bs := out.getD []
  { s.agentFlight e.team e.core (.record e.id) (if out.isSome then .store else .load) (bs.map (·.1)) e.pieces with
    own := e.own, seq := (s.thr e.own).seq, marks := (bs.zipIdx.filter fun p => p.1.2).map (·.2) }

/-- What an entry's access has returned, each byte with whether it is uncorrectable. -/
def State.recordRead (s : State) (e : MEntry) : List (Byte × Bool) :=
  match e.sent with
  | some n => (s.flights.getD n default).loaded
  | none => []

/-- Bytes that are sound. -/
def sound (bs : List Byte) : List (Byte × Bool) := bs.map fun b => (b, false)
/-- Bytes of `w`-byte cells, those listed uncorrectable. -/
def cellBytes (w : Nat) (bad : List Nat) (bs : List Byte) : List (Byte × Bool) :=
  bs.zipIdx.map fun p => (p.1, bad.contains (p.2 / w))
/-- Cells of `w` bytes of which a byte is uncorrectable. -/
def badCells (w n : Nat) (bs : List (Byte × Bool)) : List Nat :=
  (chunks w n bs).zipIdx.filterMap fun p => if p.1.any (·.2) then some p.2 else none

/-- The record of a tile (R388). -/
def tileRecordOf (t : Tile) (ctx : BitVec 16) : List (Byte × Bool) :=
  cellBytes 4 t.bad (readSpan t.bytes 0 4096) ++
    sound (leBytes 8 t.tag.toNat ++ leBytes 2 ctx.toNat ++ List.replicate 118 0)

/-- The 24 bytes of a knot-grid register (R388). -/
def Knot.record (k : Knot) : List Byte := leBytes 8 k.w0.toNat ++ leBytes 8 k.w1.toNat ++ leBytes 8 k.w2.toNat

/-- The record of a half's vitrine and knot-grid registers (R388). -/
def vitRecordOf (h : Half) (ctx : BitVec 16) : List (Byte × Bool) :=
  let kn := h.knots.flatMap Knot.record
  cellBytes 2 h.vitBad (readSpan (h.vit.getD []) 0 73728) ++
    sound (kn ++ List.replicate (768 - kn.length) 0 ++ leBytes 1 (if h.vit.isSome then 1 else 0) ++
      leBytes 1 h.knots.length ++ List.replicate 6 0 ++ leBytes 2 ctx.toNat ++ List.replicate 118 0)

/-- The record that ACCSAVE or ACCSAVE.V writes (R388). -/
def State.savedRecord (s : State) (e : MEntry) (record : Half → BitVec 16 → List (Byte × Bool)) : List (Byte × Bool) :=
  let src := s.accSource e.team e.half
  record (s.half src.1 src.2) (s.team src.1).ctxid

/-- The access of a context instruction to its record (R388). -/
def State.recordFlight (s : State) (e : MEntry) : Option Flight :=
  match e.instr with
  | .accsave _ x _ => some (s.recordAccess e (some (s.savedRecord e fun h c => tileRecordOf (h.tile x.toNat) c)))
  | .accsaveV .. => some (s.recordAccess e (some (s.savedRecord e vitRecordOf)))
  | .accrest .. | .accrestV .. => some (s.recordAccess e none)
  | _ => none

/-- The number in `n` bytes of a record. -/
def recordNum (bs : List (Byte × Bool)) (off n : Nat) : Nat := ofLe (((bs.drop off).take n).map (·.1))

/-- ACCREST performed; a tag code that no tile has traps, precisely, the threads that wait (R388). An uncorrectable
word of the record makes its element so, an uncorrectable tag the tile POISON. -/
def State.doAccRest (s : State) (e : MEntry) (x : Nat) : Performed :=
  let bs := s.recordRead e
  let code := recordNum bs 0x1000 1
  if (bs.getD 0x1000 default).2 then (s.modHalf e.team e.half fun h =>
    { h with tiles := h.tiles.modify x fun t => { t with tag := tagPOISON } }, none)
  else if !(code == 0 || code == 1 || code == 2 || code == 13) then
    let rs := s.heldBy e
    let f (r : Ref) : Nat × LaneFault := (if (s.thr r).ctl then 0 else s.idx r, illegalFault rValue)
    match rs with
    | [] => (s, none)
    | r :: _ => (s.trapFrag (s.trapping r) (rs.map f) false (s.thr r).pc, none)
  else
    (s.putTile e x { tag := BitVec.ofNat 4 code, bytes := memOf 0 ((bs.take 4096).map (·.1)),
                     bad := badCells 4 1024 (bs.take 4096) }, none)

/-- ACCREST.V performed: the vitrine, if the target has one, and its knot-grid registers (R388). -/
def State.doAccRestV (s : State) (e : MEntry) : Performed :=
  let bs := s.recordRead e
  (s.modHalf e.team e.half fun h => { h with
    vit := h.vit.map fun _ => memOf 0 ((bs.take 73728).map (·.1))
    vitBad := if h.vit.isSome then badCells 2 36864 (bs.take 73728) else []
    knots := (List.range h.knots.length).map fun k =>
      let w (j : Nat) : BitVec 64 := BitVec.ofNat 64 (recordNum bs (0x12000 + 24 * k + 8 * j) 8)
      { w0 := w 0, w1 := w 1 &&& 0x3FF, w2 := w 2 } }, none)

/-! ## One step (R321) -/

/-- The slots whose operand reads an instruction counts (R65, R321). -/
def engineReads : Instr → List Nat
  | .mma _ _ y z _ _ _ => [y.toNat, z.toNat]
  | .mmas _ _ y z _ _ _ => [y.toNat, y.toNat + 1, z.toNat, z.toNat + 1]
  | .mmaq _ _ y z _ _ => [y.toNat, z.toNat, z.toNat + 1]
  | .mlda _ _ y | .splld _ _ y _ | .splev _ _ y _ => [y.toNat]
  | .spldr _ _ y _ | .splgr _ _ y _ => [y.toNat, y.toNat + 1]
  | _ => []

/-- An accepted instruction performed. -/
def State.doEntry (s : State) (e : MEntry) : Performed :=
  match e.instr with
  | .mma _ x y z t u k => s.doMma e x.toNat y.toNat z.toNat (u == 1) (t == 1) (depthBytes k)
  | .mmas _ x y z t u k => s.doMmas e x.toNat y.toNat z.toNat (u == 1) (t == 1) k
  | .mmaq _ x y z q k => s.doMmaq e x.toNat y.toNat z.toNat q k
  | .mzero _ x => (s.putTile e x.toNat (tileOf tagRAW []), none)
  | .mlda _ x y => s.doMlda e x.toNat y.toNat
  | .mdrnS _ x y f => s.doDrainSlot e x.toNat y.toNat f false
  | .mdrnSadd _ x y f => s.doDrainSlot e x.toNat y.toNat f true
  | .mdrnG _ x _ f => s.doDrainMem e x.toNat f false
  | .mdrnGadd _ x _ f => s.doDrainMem e x.toNat f true
  | .splkg _ k _ => s.doSplkg e k.toNat
  | .splkq _ k y => s.doSplkq e k.toNat y
  | .splld _ x y z => s.doSplld e x.toNat y.toNat z.toNat
  | .splst _ x y z => s.doSplst e x.toNat y.toNat z.toNat
  | .splev _ x y k => s.doSplev e x.toNat y.toNat k.toNat
  | .spldr _ x y k => s.doSpldr e x.toNat y.toNat k.toNat
  | .splgr _ x y k => s.doSplgr e x.toNat y.toNat k.toNat
  | .splrf _ k => s.doSplrf e k.toNat
  | .accrest _ x _ => s.doAccRest e x.toNat
  | .accrestV .. => s.doAccRestV e
  | _ => (s, none)

/-- What a core's engine performs next: its oldest guaranteed instruction, else its oldest (R321). -/
def State.engineNext (s : State) (core : Nat) : Option MEntry :=
  let q := s.engine.filter fun e => e.core == core
  (q.find? fun e => !e.harvest).orElse fun _ => q.head?

/-- An entry is performed and leaves the engine; its operand reads of slots then end in their own time (R321). It waits
while a report that it would queue finds its group's queue full (R364). -/
def State.entryEnd (s : State) (e : MEntry) : State :=
  let (s1, rep) := s.doEntry e
  let s2 := { s1 with
    engine := s1.engine.filter fun x => x.id != e.id
    slotReads := s1.slotReads ++ (engineReads e.instr).map fun n => { team := e.team, half := e.half, slot := n, live := true } }
  match rep with
  | none => s2
  | some q => if (s.team e.team).groups[e.group]?.any (fun g => decide (8 ≤ g.reports.length)) then s
    else s2.pushReport e.team e.group q

/-- MATRIX_ENGINE_STEP of core `sel`: one instruction is performed; a context instruction first sends its access, and is
performed once that has returned (R321, R388). -/
def execMatrixEngineStep (s : State) : Host.Outcome State Fault Refusal :=
  .next (
    match s.engineNext s.sel with
    | none => s
    | some e =>
      match s.recordFlight e, e.sent with
      | none, _ => s.entryEnd e
      | some f, none =>
        { s with engine := s.engine.map fun (x : MEntry) => if x.id = e.id then { x with sent := some s.flights.length } else x }.launchFlight f
      | some _, some n => if (s.flights.getD n default).returned then s.entryEnd e else s)

/-! ## Add-on-stores (R87, R135, R333) -/

/-- The lines of the 4 KiB block of a drain, in the coherent image (R87). -/
def Cmd.blockLines (c : Cmd) : List Nat :=
  (List.range 32).map fun k => lineOf (drainPlace (c.pa / 4096 * 4096) c.plinth (128 * k))

/-- The access that carries a drain. -/
def State.drainFlight (s : State) (n : Nat) : Nat :=
  ((List.range s.flights.length).find? fun k => (s.flights.getD k default).job == .drain n).getD s.flights.length

/-- ADD_ON_STORE of command `sel`: it has arrived at its home slice, and reserves its block's lines in its place of their
order (R87). -/
def execAddOnStore (s : State) : Host.Outcome State Fault Refusal :=
  .next (
    let c := s.cmds.getD s.sel default
    let n := s.drainFlight s.sel
    let f := s.flights.getD n default
    let p := f.pieces.getD 0 default
    if c.kind = .drain ∧ c.stage = .started ∧ (c.drain.getD default).add = true ∧ s.served n 0 = true ∧
        s.pieceLost f p = false then
      { s.noteAged f p with
        reservedLines := s.reservedLines ++ c.blockLines.map fun l => (l, s.sel) }.modCmd s.sel fun x => { x with stage := .reserved }
    else s)

/-- ADD_ON_STORE_RELEASE of command `sel`: all its element updates apply, its lines are released, and it answers (R87,
R135, R333). -/
def execAddOnStoreRelease (s : State) : Host.Outcome State Fault Refusal :=
  .next (
    let c := s.cmds.getD s.sel default
    if c.kind = .drain ∧ c.stage = .reserved then
      let s1 := { s with reservedLines := s.reservedLines.filter fun p => p.2 != s.sel }.modCmd s.sel fun x => { x with stage := .started }
      let (s2, conds) := s1.drainPut (c.drain.getD default) c.pa c.plinth c.own.team c.core
      (s2.orEstat c.own.team conds).donePiece (s.drainFlight s.sel) 0 []
    else s)

end Sys2Proof.Machine
end

