-- ==== Sys2Proof/Machine/Virtual.lean ====
section
/-! DEFINITION. Reads and writes of ranges of virtual memory by the front end, the spill engine and the reduction
engines (R138, R143, R197, R208, R404, R430). -/

namespace Sys2Proof.Machine

open Sys2Proof

/-- An address space: its ASID and its root in the layout of XROOT (R17, R18). -/
structure Space16 where
  asid : BitVec 16
  root : BitVec 64
  deriving DecidableEq, Repr, Inhabited

/-- The core whose TLBs a die's own agents translate through: the die's first (R33, R34; the last-level TLB is the
die's). -/
def agentCore (die : Nat) : Nat := 128 * die

/-- One translated access of a die's agent. -/
def State.agentAt (s : State) (die : Nat) (sp : Space16) (va : BitVec 64) (need : Need) (acc : BitVec 3) :
    State × Except LaneFault (Leaf × Nat) :=
  match s.walkNow (agentCore die) sp.asid (sp.root ||| 1#64) false va need acc with
  | (s1, .ok l pa) => (s1, .ok (l, pa))
  | (s1, .fault f) => (s1, .error f)
  | (s1, .walk) => (s1, .error { cause := .none })

/-- An access of a die's agent does not get through: it has no home, or no link carries it (R82, R427). -/
def State.unreached (s : State) (die pa : Nat) : Bool :=
  !s.reaches pa || (spaceOf pa == .peer && (s.linkOf die pa).isNone)

/-- The fault that a write which does not get through is reported with to the agent that made it (R82). -/
def lostFault : LaneFault := { cause := .poison, acc := 6 }

/-- `n` bytes read from a virtual address upwards, line by line; `fuel` bounds the lines. -/
def State.agentRead (s : State) (die : Nat) (sp : Space16) (need : Need) : Nat → BitVec 64 → Nat →
    State × Except LaneFault (List (Byte × Bool))
  | 0, _, _ => (s, .ok [])
  | fuel + 1, va, n =>
    if n = 0 then (s, .ok [])
    else
      let k := min n (128 - slice va 0 7)
      match s.agentAt die sp va need 5 with
      | (s1, .error f) => (s1, .error f)
      | (s1, .ok (l, pa)) =>
        let bs := if s1.unreached die pa then List.replicate k (0, true) else s1.imageRead (imageAddr l.plinth pa) k
        match (s1.l2Read pa (imageAddr l.plinth pa)).agentRead die sp need fuel (addNat va k) (n - k) with
        | (s2, .error f) => (s2, .error f)
        | (s2, .ok rest) => (s2, .ok (bs ++ rest))

/-- `n` bytes read from a virtual address, through leaves that permit reading. -/
def State.agentLoad (s : State) (die : Nat) (sp : Space16) (va : BitVec 64) (n : Nat) :
    State × Except LaneFault (List (Byte × Bool)) := s.agentRead die sp { rd := true } (n / 128 + 2) va n

/-- Bytes written from a virtual address upwards; the first fault ends them. -/
def State.agentWrite (s : State) (die : Nat) (sp : Space16) (harvest : Bool) : Nat → BitVec 64 → List Byte →
    State × Option LaneFault
  | 0, _, _ => (s, none)
  | fuel + 1, va, bs =>
    if bs.isEmpty then (s, none)
    else
      let k := min bs.length (128 - slice va 0 7)
      match s.agentAt die sp va { wr := true } 6 with
      | (s1, .error f) => (s1, some f)
      | (s1, .ok (l, pa)) =>
        if s1.unreached die pa then (s1, some lostFault)
        else (s1.homeWrite pa (imageAddr l.plinth pa) (bs.take k) harvest 0).agentWrite die sp harvest fuel (addNat va k)
          (bs.drop k)

/-- Bytes written at a virtual address, through leaves that permit writing. -/
def State.agentStore (s : State) (die : Nat) (sp : Space16) (harvest : Bool) (va : BitVec 64) (bs : List Byte) :
    State × Option LaneFault := s.agentWrite die sp harvest (bs.length / 128 + 2) va bs

/-- Every page of a range permits an access; a line is tried in each. -/
def State.agentCheck (s : State) (die : Nat) (sp : Space16) (need : Need) : Nat → BitVec 64 → Nat → State × Option LaneFault
  | 0, _, _ => (s, none)
  | fuel + 1, va, n =>
    if n = 0 then (s, none)
    else
      let k := min n (65536 - slice va 0 16)
      match s.agentAt die sp va need (if need.wr then 6 else 5) with
      | (s1, .error f) => (s1, some f)
      | (s1, .ok _) => s1.agentCheck die sp need fuel (addNat va k) (n - k)

/-- A 64-bit counter read, or none when it reads as uncorrectable. -/
def State.counter64 (s : State) (addr : Nat) : Option (BitVec 64) :=
  let bs := s.imageRead addr 8
  if bs.any (·.2) then none else some (BitVec.ofNat 64 (ofLe (bs.map (·.1))))

/-- One atomic at a counter's home: it grows by `inc` and takes bit 63 as the fault mark when `mark` (R158, R201, R433);
a location that reads as uncorrectable keeps its error. The fault is that of its translation or permission. -/
def State.agentAdd (s : State) (die : Nat) (sp : Space16) (harvest : Bool) (va : BitVec 64) (inc : BitVec 64) (mark : Bool) :
    State × Option LaneFault :=
  match s.agentAt die sp va { rd := true, wr := true } 6 with
  | (s1, .error f) => (s1, some f)
  | (s1, .ok (l, pa)) =>
    let a := imageAddr l.plinth pa
    if s1.unreached die pa then (s1, some lostFault)
    else match s1.counter64 a with
    | some old =>
      let new := (old + inc) ||| (if mark then BitVec.ofNat 64 (2 ^ 63) else 0)
      (s1.homeWrite pa a (leBytes 8 new.toNat) harvest 0, none)
    | none => (s1, none)

end Sys2Proof.Machine
end

