-- ==== Sys2Proof/Machine/Reduce.lean ====
section
/-! DEFINITION. In-network reduction: descriptors, the doorbell, the planes' sum and the end of a reduction (R117, R426,
R430 to R433). -/

namespace Sys2Proof.Machine

open Sys2Proof

/-! ## The sum (R117, R276) -/

/-- Format of a reduction's FMT (R430). -/
def redFmt (c : BitVec 8) : Option Fmt :=
  match c.toNat with
  | 1 => some .f32
  | 2 => some .bf16
  | 4 => some .e4m3
  | 5 => some .e5m2
  | _ => none

/-- One element of the result: the contributions in ascending port order, summed in FP32, rounded to the format (R117). -/
def redElem (f : Fmt) (xs : List Nat) : Nat :=
  let acc := xs.foldl (fun acc x => (round .f32 .rne (addNum .rne (Fmt.f32.decode acc) (f.decode x)).1).1) 0
  if f = .f32 then acc else (round f .rne (Fmt.f32.decode acc).exact).1

/-- Element `k` of a payload. -/
def payloadElem (f : Fmt) (bs : List Byte) (k : Nat) : Nat :=
  let n := f.width / 8
  ofLe ((bs.drop (n * k)).take n)

/-- The result of a reduction from the members' payloads in ascending port order (R117, R431). -/
def redSum (f : Fmt) (len : Nat) (payloads : List (List Byte)) : List Byte :=
  let n := f.width / 8
  (List.range (len / n)).flatMap fun k => leBytes n (redElem f (payloads.map fun p => payloadElem f p k))

/-! ## Descriptors (R430, R432) -/

/-- This module's fabric identifier (R426). -/
def State.fid (s : State) : Nat := (s.fabcfg.extractLsb' 0 4).toNat
/-- A fabric link is trained and fabric traffic enabled (R426). -/
def State.linkLive (s : State) (k : Nat) : Bool := s.fabcfg.getLsbD 4 && s.fabcfg.getLsbD (16 + k)

/-- Every plane that a payload of `len` bytes travels on has this module's link (R431, R432). -/
def State.planesLive (s : State) (len : Nat) : Bool :=
  (List.range (min 16 ((len + 4095) / 4096))).all s.linkLive

/-- The SEQ that a group's next descriptor must have (R430). -/
def State.nextSeq (s : State) (g : Nat) : BitVec 32 := ((s.redSeq.find? fun p => p.1 == g).map (·.2)).getD 0

/-- A field of a descriptor. -/
def descField (bs : List Byte) (o n : Nat) : Nat := ofLe ((bs.drop o).take n)

/-- The descriptor in 64 bytes. -/
def redDescOf (die : Nat) (sp : Space16) (launch : Option Nat) (time : Nat) (bs : List Byte) : RedDesc :=
  { die := die, src := BitVec.ofNat 64 (descField bs 0 8), dst := BitVec.ofNat 64 (descField bs 8 8),
    ctr := BitVec.ofNat 64 (descField bs 16 8), len := descField bs 24 4, fmt := BitVec.ofNat 8 (descField bs 28 1),
    group := descField bs 29 1, members := BitVec.ofNat 16 (descField bs 30 2), seq := BitVec.ofNat 32 (descField bs 32 4),
    timeout := descField bs 36 4, asid := sp.asid, root := sp.root, launch := launch, time := time, abort := false,
    live := true }

/-- The limits of R430, its SEQ apart. -/
def RedDesc.ok (x : RedDesc) (fid : Nat) (zeros : Bool) : Bool :=
  zeros && x.src.toNat % 256 == 0 && x.dst.toNat % 256 == 0 && x.ctr.toNat % 16 == 0 && decide (256 ≤ x.len) &&
    decide (x.len ≤ 67108864) && x.len % 256 == 0 && (redFmt x.fmt).isSome && decide (x.group < 64) &&
    x.members.getLsbD fid

/-- A die's engine has a free descriptor entry of its 16 (R430). -/
def State.redRoom (s : State) (die : Nat) : Bool :=
  decide ((s.redq.filter fun x => x.live && x.die == die).length < 16)

/-- A store of a descriptor's address to a die's REDDOOR, in the address space of that store (R430, R432). A descriptor
that cannot be read starts nothing and raises REDABORT. -/
def State.redStart (s : State) (die : Nat) (sp : Space16) (launch : Option Nat) (va : BitVec 64) : State :=
  match s.agentLoad die sp va 64 with
  | (s1, .error _) => s1.raise die 4
  | (s1, .ok bs) =>
    if bs.any (·.2) || va.extractLsb' 0 6 != 0 then s1.raise die 4
    else
      let b := bs.map (·.1)
      let x := redDescOf die sp launch s.gtime b
      let seqOk := x.seq == s1.nextSeq x.group
      let good := x.ok s.fid ((b.drop 40).all (· == 0)) && seqOk
      let s2 := { s1 with redq := s1.redq ++ [{ x with abort := !good }] }
      if seqOk then { s2 with redSeq := (x.group, x.seq + 1) :: s2.redSeq.filter fun p => p.1 != x.group } else s2

/-- REDUCTION_DOORBELL: a store of `value` to the REDDOOR of a die by a thread of team `sel`; it waits while the queue is
full (R430). -/
def execReductionDoorbell (die : BitVec 1) (value : BitVec 64) (s : State) : Host.Outcome State Fault Refusal :=
  .next (
    let m := s.team s.sel
    if s.sel < s.teams.length ∧ s.redRoom die.toNat = true ∧ s.homesOpen = true then
      s.redStart die.toNat { asid := m.xasid.setWidth 16, root := m.xroot } (some m.launch) value
    else s)

/-! ## The end of a reduction (R431 to R433) -/

/-- Contributions of the other members to a descriptor's reduction. -/
def State.redParts (s : State) (x : RedDesc) : List Contribution :=
  s.contributions.filter fun c => c.group == x.group && c.seq == x.seq

/-- No earlier reduction of the descriptor's group is pending (R432). -/
def State.redFirst (s : State) (n : Nat) : Bool :=
  let x := s.redq.getD n default
  !(s.redq.take n).any fun y => y.live && y.group == x.group

/-- A contribution aborts a reduction: it is an ABORT, or disagrees with it (R432). -/
def Contribution.aborts (c : Contribution) (x : RedDesc) : Bool :=
  c.abort || c.len != x.len || c.fmt != x.fmt || c.members != x.members

/-- The members that have contributed, this module among them. -/
def State.redAll (s : State) (x : RedDesc) : Bool :=
  (List.range 16).all fun p => !x.members.getLsbD p || p == s.fid || (s.redParts x).any fun c => c.member == p

/-- The payloads in ascending port order. -/
def State.redPayloads (s : State) (x : RedDesc) (own : List Byte) : List (List Byte) :=
  ((List.range 16).filter fun p => x.members.getLsbD p).map fun p =>
    if p = s.fid then own else (((s.redParts x).find? fun c => c.member == p).map (·.data)).getD []

/-- How a member's own side stands: its bytes, or nothing when it sends ABORT (R432). -/
def State.redOwn (s : State) (x : RedDesc) : State × Option (List Byte) :=
  let sp : Space16 := { asid := x.asid, root := x.root }
  if x.abort || !s.planesLive x.len then (s, none)
  else
    match s.agentLoad x.die sp x.src x.len with
    | (s1, .error _) => (s1, none)
    | (s1, .ok bs) =>
      match s1.agentCheck x.die sp { wr := true } (x.len / 65536 + 2) x.dst x.len with
      | (s2, some _) => (s2, none)
      | (s2, none) => if bs.any (·.2) then (s2, none) else (s2, some (bs.map (·.1)))

/-- Descriptor `n` ends with a status: the counter's status word and its add, and REDABORT unless OK (R433). -/
def State.redDone (s : State) (n : Nat) (code : Nat) : State :=
  let x := s.redq.getD n default
  let sp : Space16 := { asid := x.asid, root := x.root }
  let s1 :=
    { s with
      redq := s.redq.modify n fun y => { y with live := false }
      contributions := s.contributions.filter fun c => !(c.group == x.group && c.seq == x.seq) }
  let s2 := if code = 0 then s1 else s1.raise x.die 4
  if x.ctr = 0 then s2
  else
    match s2.agentStore x.die sp false (x.ctr + 8) (leBytes 8 code) with
    | (s3, some _) => s3.errorRecord x.die 0x0E 1 0 x.ctr.toNat 0
    | (s3, none) => (s3.agentAdd x.die sp false x.ctr 1 (code != 0)).1

/-- REDUCTION_END of descriptor `sel`: OK once every member has contributed, ABORT once any has aborted; DST is written
only for OK (R431, R432). -/
def execReductionEnd (s : State) : Host.Outcome State Fault Refusal :=
  .next (
    let x := s.redq.getD s.sel default
    if !x.live || !s.redFirst s.sel || !s.homesOpen then s
    else
      match s.redOwn x with
      | (s1, none) => s1.redDone s.sel 1
      | (s1, some own) =>
        if (s.redParts x).any fun c => c.aborts x then s1.redDone s.sel 1
        else if s.redAll x then
          match redFmt x.fmt with
          | none => s1.redDone s.sel 1
          | some f =>
            let sp : Space16 := { asid := x.asid, root := x.root }
            ((s1.agentStore x.die sp false x.dst (redSum f x.len (s.redPayloads x own))).1).redDone s.sel 0
        else s)

/-- GTIME at which the first contribution to a reduction reached a plane. -/
def State.redSince (s : State) (x : RedDesc) : Nat := (s.redParts x).foldl (fun t c => min t c.time) x.time

/-- REDUCTION_TIMEOUT of descriptor `sel`: its TIMEOUT has run from the first contribution, and it ends INCOMPLETE
(R431). -/
def execReductionTimeout (s : State) : Host.Outcome State Fault Refusal :=
  .next (
    let x := s.redq.getD s.sel default
    let us := if x.timeout = 0 then 2000 else x.timeout
    if x.live ∧ s.redFirst s.sel = true ∧ s.redSince x + 1000 * us ≤ s.gtime ∧ s.homesOpen = true then s.redDone s.sel 2 else s)

end Sys2Proof.Machine
end

