-- ==== Sys2Proof/Machine/Device.lean ====
section
/-! DEFINITION. The device-register space: what every register reads, who may write what, and the host's and peers'
accesses (R20, R88, R92, R166, R383, R401, R420 to R427, R436, R437, R439, R441). -/

namespace Sys2Proof.Machine

open Sys2Proof

/-! ## Register values -/

/-- First address of the device-register space (R20). -/
def deviceBase : Nat := 0x010000000000

/-- QATTR (R401). -/
def Queue.attr (q : Queue) : BitVec 32 :=
  (0#12 ++ q.logsz ++ BitVec.ofBool q.admin ++ q.tenant ++ q.part ++ q.homedie ++ q.prio ++ BitVec.ofBool q.harvest ++
    BitVec.ofBool q.en : BitVec 32)

/-- The 8-byte word at an offset of a queue's block (R401). -/
def Queue.word (q : Queue) (o : Nat) : BitVec 64 :=
  match o with
  | 0x00 => q.qbase.setWidth 64
  | 0x08 => q.attr.setWidth 64
  | 0x10 => (q.tail ++ q.head : BitVec 64)
  | 0x18 => q.qctx.setWidth 64
  | 0x20 => (0#48 ++ q.errcode ++ 0#7 ++ BitVec.ofBool q.stopped : BitVec 64)
  | _ => 0

/-- Eight bytes of a list, as a word. -/
def wordAt (bs : List Byte) (o : Nat) : BitVec 64 := BitVec.ofNat 64 (ofLe ((bs.drop o).take 8))

/-- The bytes of a log entry (R419). -/
def LogEntry.bytes (e : LogEntry) : List Byte :=
  (leBytes 48 e.digest.toNat).reverse ++ leBytes 1 e.svn ++ leBytes 1 e.slot ++ leBytes 1 e.keyslot ++ leBytes 1 e.fuses ++
    List.replicate 12 0

/-- The measurement window (R420): MEAS in the byte order of the digest, LOGCOUNT, the entries. -/
def Curator.word (c : Curator) (o : Nat) : BitVec 64 :=
  if o < 0x30 then wordAt (leBytes 48 c.meas.toNat).reverse o
  else if o = 0x30 then
    (0#32 ++ BitVec.ofBool c.logFull ++ 0#26 ++ BitVec.ofNat 5 c.log.length : BitVec 64)
  else if 0x100 ≤ o ∧ o < 0x500 then
    match c.log[(o - 0x100) / 64]? with
    | some e => wordAt e.bytes ((o - 0x100) % 64)
    | none => 0
  else 0

/-- SYNCQUOTA (R166). -/
def Quota.word (q : Quota) : BitVec 64 :=
  (0#15 ++ q.cwait ++ 0#1 ++ q.mon ++ 0#8 ++ q.ring ++ q.gbar ++ 0#3 ++ q.cbar ++ 0#1 ++ q.bar : BitVec 64)

/-- HBMHBKT (R92). -/
def Stack.word (x : Stack) : BitVec 64 :=
  (0#47 ++ BitVec.ofBool x.borrow ++ x.burst ++ 0#1 ++ x.rate : BitVec 64)

/-- The error record in slot `i` of a die's ring (R436). -/
def Die.errSlot (x : Die) (i : Nat) : BitVec 256 :=
  ((List.range x.errs.length).findSome? fun k =>
    if (x.errcnt.toNat + 2 ^ 32 - 1 - k) % 256 = i then x.errs[k]? else none).getD 0

/-- L2CLASS, SPIRESTAT and SPIREPWR (R88). -/
def Die.l2Word (x : Die) (o : Nat) : BitVec 64 :=
  match o with
  | 0x00 => x.gways.setWidth 64
  | 0x08 => (x.bypass ++ x.live : BitVec 64)
  | 0x10 => (0#55 ++ BitVec.ofBool x.busy ++ x.off : BitVec 64)
  | _ => 0

/-- The debug window, DBGDATA apart (R383). -/
def State.dbgWord (s : State) (d o : Nat) : BitVec 64 :=
  match o with
  | 0x00 => (s.die d).dbgsel
  | 0x08 => (s.dbgRead d).2
  | 0x10 => (s.die d).dbgaux.setWidth 64
  | 0x18 => (s.dbgStat d).setWidth 64
  | _ => 0

/-- The 8-byte word of the device-register space at an aligned offset; 0 where no register stands (log 15). -/
def State.devWord (s : State) (o : Nat) : BitVec 64 :=
  if o < 0x4000 then (s.queue (o / 0x40)).word (o % 0x40)
  else if 0x020000 ≤ o ∧ o < 0x020500 then s.curator.word (o - 0x020000)
  else if 0x100000 ≤ o ∧ o < 0x120000 then (s.die ((o - 0x100000) / 0x10000)).l2Word (o % 0x10000)
  else if 0x120000 ≤ o ∧ o < 0x120800 then
    (if o % 0x100 = 0 then (s.hbmStacks.getD ((o - 0x120000) / 0x100) default).word else 0)
  else if 0x140000 ≤ o ∧ o < 0x140100 then
    (if o % 0x10 = 0 then (s.quotas.getD ((o - 0x140000) / 0x10) default).word else 0)
  else if 0x160000 ≤ o ∧ o < 0x160200 then
    let x := s.die ((o - 0x160000) / 0x100)
    if o % 0x100 = 0 then x.intcause.setWidth 64 else if o % 0x100 = 8 then x.intmask.setWidth 64 else 0
  else if o = 0x180000 then s.fabcfg.setWidth 64
  else if 0x1A0000 ≤ o ∧ o < 0x1C0000 then
    let x := s.die ((o - 0x1A0000) / 0x10000)
    let k := o % 0x10000
    if k = 0 then x.errcnt.setWidth 64
    else if 0x100 ≤ k ∧ k < 0x2100 then (x.errSlot ((k - 0x100) / 32)).extractLsb' (8 * (k % 32)) 64
    else 0
  else if 0x1C0000 ≤ o ∧ o < 0x1C0800 then BitVec.ofNat 64 (archiveGet s.archive (o - 0x1C0000))
  else if o = 0x1E0000 then (0#44 ++ s.capw ++ s.share0 : BitVec 64)
  else if o = 0x1E0008 then (0#27 ++ BitVec.ofBool s.overCap ++ s.bud1 ++ s.bud0 ++ s.pnow : BitVec 64)
  else if o = 0x1F0000 then s.ready
  else if 0x200000 ≤ o ∧ o < 0x202000 then s.dbgWord ((o - 0x200000) / 0x1000) (o % 0x1000)
  else 0

/-- The die of a debug window whose DBGDATA stands at an offset. -/
def dbgDataAt (o : Nat) : Option Nat := if o = 0x200008 then some 0 else if o = 0x201008 then some 1 else none

/-- The offset of an address of the device-register space, which is aligned to its size (R20). -/
def deviceOff (a : Nat) : Nat := a % deviceBase

/-- The aligned words that `n` bytes at an address touch, as offsets in the space. -/
def wordsOf (a n : Nat) : List Nat :=
  let o := deviceOff a
  (List.range ((o + n + 7) / 8 - o / 8)).map fun k => (o / 8 + k) * 8

/-- `n` bytes of the device-register space read; a read of DBGDATA loads DBGAUX (R383). -/
def State.devRead (s : State) (a n : Nat) : State × List Byte :=
  let ws := wordsOf a n
  let bs := ws.flatMap fun o => leBytes 8 (s.devWord o).toNat
  let s1 := ws.foldl (fun x o => match dbgDataAt o with | some d => (x.dbgRead d).1 | none => x) s
  (s1, (bs.drop (deviceOff a % 8)).take n)

/-! ## The curator's registers (R88, R92, R166, R409, R426, R439) -/

/-- L2CLASS of a die takes a value, or is left as it is (R88). -/
def State.writeL2Class (s : State) (d : Nat) (v : BitVec 32) : Option State :=
  if v.extractLsb' 5 27 = 0 ∧ (v.extractLsb' 0 5).toNat ≤ 16 then
    some (s.modDie d fun x => { x with gways := v.extractLsb' 0 5 })
  else none

/-- HBMHBKT of a stack takes a value (R92). DESIGN CHOICE (log 2): tokens above a smaller BURST are lost. -/
def State.writeBucket (s : State) (k : Nat) (v : BitVec 32) : Option State :=
  let rate : BitVec 7 := v.extractLsb' 0 7
  let burst : BitVec 8 := v.extractLsb' 8 8
  if v.extractLsb' 17 15 = 0 ∧ v.getLsbD 7 = false ∧ rate.toNat ≤ 64 ∧ 1 ≤ burst.toNat then
    some { s with hbmStacks := s.hbmStacks.modify k fun x =>
      { rate := rate, burst := burst, borrow := v.getLsbD 16, tokens := min x.tokens (burst.toNat * 65536) } }
  else none

/-- The quotas that a value of SYNCQUOTA gives (R166). -/
def quotaOf (v : BitVec 64) : Quota :=
  { bar := v.extractLsb' 0 7, cbar := v.extractLsb' 8 5, gbar := v.extractLsb' 16 4, ring := v.extractLsb' 20 4,
    mon := v.extractLsb' 32 7, cwait := v.extractLsb' 40 9 }

/-- Fields within their ranges and reserved bits zero (R166). -/
def quotaOk (v : BitVec 64) : Bool :=
  let q := quotaOf v
  q.word == v && decide (q.bar.toNat ≤ 64) && decide (q.cbar.toNat ≤ 16) && decide (q.gbar.toNat ≤ 8) &&
    decide (q.ring.toNat ≤ 8) && decide (q.mon.toNat ≤ 64) && decide (q.cwait.toNat ≤ 256)

/-- The tenants' fields sum to no more than the tables hold (R166). -/
def quotasFit (qs : List Quota) : Bool :=
  let sum (f : Quota → Nat) : Nat := (qs.map f).foldl (· + ·) 0
  decide (sum (fun q => q.bar.toNat) ≤ 64) && decide (sum (fun q => q.cbar.toNat) ≤ 16) &&
    decide (sum (fun q => q.gbar.toNat) ≤ 8) && decide (sum (fun q => q.ring.toNat) ≤ 8) &&
    decide (sum (fun q => q.mon.toNat) ≤ 64) && decide (sum (fun q => q.cwait.toNat) ≤ 256)

/-- SYNCQUOTA of a tenant takes a value, or rejects it (R166). -/
def State.writeQuota (s : State) (t : Nat) (v : BitVec 64) : Option State :=
  let qs := s.quotas.set t (quotaOf v)
  if quotaOk v && quotasFit qs then some { s with quotas := qs } else none

/-- FABCFG takes FID and EN; LIVE is read-only (R426). -/
def State.writeFabCfg (s : State) (v : BitVec 32) : Option State :=
  if v.extractLsb' 5 11 = 0 then some { s with fabcfg := (s.fabcfg &&& 0xFFFF0000) ||| (v &&& 0x1F) } else none

/-- A value merged into a word under a bit mask. -/
def mergeMask (old v mask : BitVec 64) : BitVec 64 := (old &&& ~~~mask) ||| (v &&& mask)

/-- A masked write by the curator to an aligned offset: none where it leaves the register as it is by the register's own
rules, or no register that the curator writes stands there (R88, R89, R166, R409, R439). -/
def State.curatorWrite (s : State) (o : Nat) (v mask : BitVec 64) : Option State :=
  let new := mergeMask (s.devWord o) v mask
  let w : BitVec 32 := new.setWidth 32
  if o = 0x100000 then s.writeL2Class 0 w
  else if o = 0x110000 then s.writeL2Class 1 w
  else if o = 0x100010 then s.writeSpirePwr 0 w
  else if o = 0x110010 then s.writeSpirePwr 1 w
  else if 0x120000 ≤ o ∧ o < 0x120800 ∧ o % 0x100 = 0 then s.writeBucket ((o - 0x120000) / 0x100) w
  else if 0x140000 ≤ o ∧ o < 0x140100 ∧ o % 0x10 = 0 then s.writeQuota ((o - 0x140000) / 0x10) new
  else if o = 0x180000 then s.writeFabCfg w
  else if o = 0x1E0000 then (if belfryCfgOk w then some (s.writeBelfryCfg w) else none)
  else if o = 0x1E0008 then some { s with overCap := s.overCap && !(v &&& mask).getLsbD 36 }
  else none

/-- The register at an offset that the curator writes is one of 32 bits (R410). -/
def narrowReg (o : Nat) : Bool := !(decide (0x140000 ≤ o) && decide (o < 0x140100)) && o != 0x1E0008

/-! ## Writes by the host and by accesses of the part (R401, R422, R430) -/

/-- QTAIL of a queue (R401): ignored when the queue is not served, or when it would hold more than its ring. -/
def State.writeTail (s : State) (q : Nat) (tail : BitVec 32) : State :=
  let x := s.queue q
  if x.en && decide ((tail - x.head).toNat ≤ 2 ^ x.logsz.toNat) then s.modQueue q fun y => { y with tail := tail } else s

/-- A store to REDDOOR by an access that may reach it: the address space of the store, and its launch (R422, R430). -/
structure Door where
  space : Space16
  launch : Option Nat
  deriving DecidableEq, Repr, Inhabited

/-- A masked write to an aligned offset by an agent other than the curator; none while REDDOOR's queue is full (R422,
R424, R430). -/
def State.outsideWrite (s : State) (door : Option Door) (o : Nat) (v mask : BitVec 64) : Option State :=
  let new := mergeMask (s.devWord o) v mask
  let hi := mask.extractLsb' 32 32 != 0
  let lo := mask.extractLsb' 0 32 != 0
  if o < 0x4000 then
    some (if o % 0x40 = 0x10 ∧ hi = true then s.writeTail (o / 0x40) (new.extractLsb' 32 32) else s)
  else if o = 0x160000 ∨ o = 0x160100 then
    some (s.modDie ((o - 0x160000) / 0x100) fun x => { x with intcause := x.intcause &&& ~~~(v &&& mask).setWidth 32 })
  else if o = 0x160008 ∨ o = 0x160108 then
    some (s.modDie ((o - 0x160000) / 0x100) fun x => { x with intmask := new.setWidth 32 &&& 0x3F })
  else if o = 0x180100 ∨ o = 0x180110 then
    match door with
    | none => some s
    | some x =>
      let d := (o - 0x180100) / 0x10
      if mask ≠ BitVec.allOnes 64 then some s
      else if s.redRoom d && s.homesOpen then some (s.redStart d x.space x.launch v) else none
  else if 0x200000 ≤ o ∧ o < 0x202000 then
    let d := (o - 0x200000) / 0x1000
    match o % 0x1000 with
    | 0x00 => some (s.writeDbgSel d new)
    | 0x08 => some (s.dbgWrite d (v &&& mask))
    | 0x10 => some (if lo then s.writeDbgAux d (new.setWidth 32) else s)
    | 0x18 => some (s.writeDbgStat d ((v &&& mask).setWidth 32))
    | _ => some s
  else some s

/-- The value and the mask that some bytes at an address give an aligned word. -/
def wordWrite (a : Nat) (bs : List Byte) (o : Nat) : BitVec 64 × BitVec 64 :=
  (List.range 8).foldl (fun (p : BitVec 64 × BitVec 64) k =>
    let at_ := deviceBase + o + k
    if a ≤ at_ ∧ at_ < a + bs.length then
      (p.1 ||| BitVec.ofNat 64 ((bs.getD (at_ - a) 0).toNat * 2 ^ (8 * k)), p.2 ||| BitVec.ofNat 64 (255 * 2 ^ (8 * k)))
    else p) (0, 0)

/-- Bytes written to the device-register space by an agent other than the curator; none while the write must wait. -/
def State.devWrite (s : State) (door : Option Door) (a : Nat) (bs : List Byte) : Option State :=
  (wordsOf a bs.length).foldl (fun (x : Option State) o =>
    x.bind fun y => y.outsideWrite door o (wordWrite a bs o).1 (wordWrite a bs o).2) (some s)

/-! ## Accesses from outside (R401, R422, R423, R427) -/

/-- A reply of bytes. -/
def replyOf (bs : List (Byte × Bool)) : Reply :=
  { ok := bs.all fun b => !b.2, value := BitVec.ofNat 128 (ofLe (bs.map (·.1))) }

/-- An access from outside to HBM4E, performed at the home slice once nothing waits there (R143, R422, R427). -/
def State.outsideAccess (s : State) (write : Bool) (pa size : Nat) (value : BitVec 128) : State :=
  if s.lineHeld pa pa || s.lineHeld (pa + size - 1) (pa + size - 1) then s
  else s.atHomes (
    if write then s.storeLines (size / 128 + 2) pa (leBytes size value.toNat)
    else { (s.l2Read pa pa).l2Read (pa + size - 1) (pa + size - 1) with hostReply := replyOf (s.imageRead pa size) })

/-- QTAIL_WRITE (R401). -/
def execQtailWrite (q : BitVec 8) (tail : BitVec 32) (s : State) : Host.Outcome State Fault Refusal :=
  .next (s.writeTail q.toNat tail)

/-- REGISTER_WRITE: a write by the host to a device register (R88, R422). -/
def execRegisterWrite (addr : BitVec 48) (size : Nat) (value : BitVec 64) (s : State) : Host.Outcome State Fault Refusal :=
  .next (if spaceOf addr.toNat = .device then
    (s.devWrite none addr.toNat (leBytes (min size 8) value.toNat)).getD s else s)

/-- Unsupported Request (R422). -/
def Reply.unsupported : Reply := { ok := false, value := 0 }

/-- HOST_ACCESS through a BAR (R422, R424): device registers, HBM4E, or the MSI-X table. -/
def execHostAccess (bar : BitVec 3) (write : Bool) (off size : Nat) (value : BitVec 128) (s : State) :
    Host.Outcome State Fault Refusal :=
  .next (
    let bs := leBytes size value.toNat
    match bar.toNat with
    | 0 =>
      if 0x10000000000 < off + size then { s with hostReply := Reply.unsupported }
      else if write then (s.devWrite none (deviceBase + off) bs).getD s
      else
        let x := s.devRead (deviceBase + off) size
        { x.1 with hostReply := { ok := true, value := BitVec.ofNat 128 (ofLe x.2) } }
    | 2 =>
      if 0x6000000000 < off + size then { s with hostReply := Reply.unsupported }
      else s.outsideAccess write off size value
    | 4 =>
      if 0x10000 < off + size then { s with hostReply := Reply.unsupported }
      else if write then (if off + size ≤ 0x200 then { s with msix := writeBytes s.msix off bs } else s)
      else { s with hostReply := { ok := true, value := BitVec.ofNat 128 (readLe s.msix off size) } }
    | _ => { s with hostReply := Reply.unsupported })

/-- PEER_ACCESS: performed at the home slice; outside HBM4E it returns POISON or is discarded (R143, R427). -/
def execPeerAccess (peer : Nat) (write : Bool) (addr : BitVec 48) (size : Nat) (value : BitVec 128) (s : State) :
    Host.Outcome State Fault Refusal :=
  .next (
    if 16 ≤ peer ∨ 0x6000000000 < addr.toNat + size then
      (if write then s else { s with hostReply := Reply.unsupported }).errorRecord 0 0x15 1 0 addr.toNat 0
    else s.outsideAccess write addr.toNat size value)

/-- Accesses in flight on a link are lost (R429). -/
def State.loseLink (s : State) (k : Nat) : State :=
  let gone (f : Flight) (p : Piece) : Bool :=
    spaceOf p.pa == .peer && (p.stage == .net || p.stage == .slice) && s.linkOf (dieOfCore f.core) p.pa == some k
  { s with flights := s.flights.map fun f => { f with pieces := f.pieces.map fun p => if gone f p then p.lose else p } }

/-- FABRIC_LINK_CHANGE: LIVE and the die's LINK cause change, and accesses in flight on a link that fails are lost (R426,
R429). -/
def execFabricLinkChange (link : BitVec 4) (up : Bool) (s : State) : Host.Outcome State Fault Refusal :=
  .next (
    let bit : BitVec 32 := BitVec.ofNat 32 (2 ^ (16 + link.toNat))
    if s.fabcfg.getLsbD (16 + link.toNat) = up then s
    else
      let s1 := if up then s else s.loseLink link.toNat
      { s1 with fabcfg := if up then s.fabcfg ||| bit else s.fabcfg &&& ~~~bit }.raise (link.toNat / 8) 3)

/-- FLIT_REPLAY: a flit is sent again in its place, which only time shows (R428). -/
def execFlitReplay (s : State) : Host.Outcome State Fault Refusal := .next s

end Sys2Proof.Machine
end

