-- ==== Sys2Proof/Machine/Ring.lean ====
section
/-! DEFINITION. Message rings: MSEND, MRING and the append of an arriving message (R142, R161 to R164, R328, R329). -/

namespace Sys2Proof.Machine

open Sys2Proof

/-! ## Rings (R161, R162) -/

/-- A core's gallery is enabled (R84, R441). -/
def State.coreEnabled (s : State) (core : Nat) : Bool := decide (core < 256) && s.ready.getLsbD (16 + core / 16)

/-- A ring by its core and physical number (R161). -/
def State.ringAt (s : State) (core phys : Nat) : Option Ring := s.rings.find? fun x => x.core == core && x.phys == phys

/-- One ring changed. -/
def State.modRing (s : State) (core phys : Nat) (f : Ring → Ring) : State :=
  { s with rings := s.rings.map fun x => if x.core = core ∧ x.phys = phys then f x else x }

/-- The ring that a thread names by its team's index, on the thread's own core (R161). -/
def State.teamRing (s : State) (r : Ref) (n : BitVec 3) : Option Ring :=
  ((s.halfOf r).rings[n.toNat]?).bind fun p => s.ringAt (s.coreOf r) p

/-- Window offset of a ring (R161). -/
def Ring.off (x : Ring) : Nat := x.base.toNat * 256
/-- Messages appended and not released (R161). -/
def Ring.used (x : Ring) : Nat := (x.tail - x.head).toNat
/-- Entries of a ring (R161). -/
def Ring.entries (x : Ring) : Nat := 2 ^ x.logn.toNat

/-- The record of MRING.Q (R161). -/
def Ring.record (x : Ring) : BitVec 64 :=
  0#4 ++ BitVec.ofNat 8 x.core ++ BitVec.ofNat 3 x.phys ++ BitVec.ofBool x.en ++ x.logn ++ x.base ++ x.head ++ x.tail

/-- One message changed. -/
def State.modMessage (s : State) (n : Nat) (f : Message → Message) : State := { s with messages := s.messages.modify n f }

/-- One core's packet to another for message `n`, of its sender's class and priority (R78, R163). -/
def State.messagePacket (s : State) (n a b : Nat) (resp : Bool) : Packet :=
  let t := (s.messages.getD n default).own.team
  { load := .message n, resp := resp, harvest := s.harvest t, prio := s.trafficPrio t, input := a % 16, age := 0,
    route := messageRoute a b }

/-- The answer of a message that is at its ring's core starts back (R163). -/
def State.sendAnswer (s : State) (n : Nat) : State :=
  let m := s.messages.getD n default
  (s.modMessage n fun x => { x with here := false, met := false }).packetGo
    (s.messagePacket n m.core (s.coreOf m.own) true)

/-- A message has its status; one that is at its ring's core is answered (R163). -/
def State.answer (s : State) (n : Nat) (status : BitVec 32) : State :=
  let s1 := s.modMessage n fun x => { x with status := some status }
  if (s.messages.getD n default).here then s1.sendAnswer n else s1

/-- The messages that have no status yet and satisfy `p` receive NO_RING (R161, R163). -/
def State.noRing (s : State) (p : Message → Bool) : State :=
  (List.range s.messages.length).foldl (fun x n =>
    let m := x.messages.getD n default
    if !m.done && m.status.isNone && p m then x.answer n 2 else x) s

/-- A team's rings are disabled and released; every message not yet appended to one receives NO_RING (R161). -/
def State.releaseRings (s : State) (t : Nat) : State :=
  let mine (m : Message) : Bool := s.rings.any fun x => x.team == t && x.core == m.core && x.phys == m.ring
  { s.noRing mine with rings := s.rings.filter fun x => x.team != t }

/-! ## MRING (R161, R329) -/

/-- An MRING word: the ring exists, then the checks of its own on the ring. -/
def State.ringCheck (s : State) (n : BitVec 3) (own : Ring → Thread → Verdict) (r : Ref) : Verdict :=
  match s.teamRing r n with
  | none => .fail (illegalFault rRange)
  | some x => own x (s.thr r)

/-- An MRING word that changes the ring. -/
def State.ringWord (s : State) (i : Instr) (n : BitVec 3) (own : Ring → Thread → Verdict)
    (act : State → Ref → Ring → State) : State :=
  s.collective i (s.ringCheck n own) fun s1 rs =>
    match rs with
    | [] => s1
    | r :: _ =>
      match s.teamRing r n with
      | some x => act s1 r x
      | none => s1

/-- The checks of MRING.SET (R161, R329). -/
def State.ringSetCheck (s : State) (t : Nat) (a : BitVec 6) (x : Ring) (u : Thread) : Verdict :=
  let w := u.val32 a.toNat
  if u.poisoned [u1 a] then .fail poisonFault
  else if w.extractLsb' 16 16 ≠ 0 ∨ w.extractLsb' 13 3 = 0 ∨ x.en = true then .fail (illegalFault rValue)
  else if !s.inWindow t ((w.extractLsb' 0 13).toNat * 256) (64 + 64 * 2 ^ (w.extractLsb' 13 3).toNat) then
    .fail { cause := .scratchBounds }
  else if (s.half t x.half).scratchAway ((w.extractLsb' 0 13).toNat * 256) (64 + 64 * 2 ^ (w.extractLsb' 13 3).toNat) then
    .wait .handover
  else .run

/-- MRING.SET (R161, R329). -/
def execMringSet (g n : BitVec 3) (a : BitVec 6) (s : State) : Host.Outcome State Fault Refusal :=
  .next (s.ringWord (.mringSet g n a) n (s.ringSetCheck (s.lead (.mringSet g n a)).team a) fun s1 r x =>
    let w := (s.thr r).val32 a.toNat
    let y : Ring := { x with base := w.extractLsb' 0 13, logn := w.extractLsb' 13 3, head := 0, tail := 0, en := true }
    (s1.modHalf r.team (s.thr r).half fun h => h.scratchWrite y.off (List.replicate 64 0)).modRing x.core x.phys fun _ => y)

/-- MRING.OFF: every accepted message is written at its append, so nothing is waited for; the messages that wait for room
in the ring receive NO_RING (R161, R163, R329). One that is still on its way finds the ring off, or set anew. -/
def execMringOff (g n : BitVec 3) (s : State) : Host.Outcome State Fault Refusal :=
  .next (s.ringWord (.mringOff g n) n (fun _ _ => .run) fun s1 _ x =>
    (s1.noRing fun m => m.met && m.core == x.core && m.ring == x.phys).modRing x.core x.phys fun y => { y with en := false })

/-- MRING.POP: performed after every earlier scratch access of its threads (R161, R329). -/
def execMringPop (g n : BitVec 3) (a : BitVec 6) (s : State) : Host.Outcome State Fault Refusal :=
  .next (s.ringWord (.mringPop g n a) n (fun x u =>
      let k := (u.val32 a.toNat).toNat
      if u.poisoned [u1 a] then .fail poisonFault
      else if k = 0 ∨ x.used < k then .fail (illegalFault rValue)
      else if (s.active (.mringPop g n a)).any s.drainsScratch then .wait .performed else .run) fun s1 r x =>
    s1.modRing x.core x.phys fun y => { y with head := y.head + ((s.thr r).val32 a.toNat).setWidth 16 })

/-- MRING.WATCH: the watch of every active thread is on the ring, in place of what it was (R161, R329). -/
def execMringWatch (g n : BitVec 3) (s : State) : Host.Outcome State Fault Refusal :=
  .next (s.collective (.mringWatch g n) (s.ringCheck n fun _ _ => .run) fun s1 rs =>
    rs.foldl (fun x r =>
      match s.teamRing r n with
      | none => x
      | some y =>
        let w : Watch :=
          { line := none, pa := 0, va := 0, level := 0, glob := false, asid := 0, ring := some (y.core, y.phys), armed := y.tail, triggered := false, entry := false }
        (x.releaseWatch r).modThr r fun t => { t with watch := some w }) s1)

/-- MRING.Q (R161, R329). -/
def execMringQ (g n : BitVec 3) (d : BitVec 6) (s : State) : Host.Outcome State Fault Refusal :=
  .next (s.collective (.mringQ g n d) (s.ringCheck n fun _ _ => .run) fun s1 rs =>
    rs.foldl (fun x r =>
      match s.teamRing r n with
      | none => x
      | some y => x.modThr r fun t => t.setPair d.toNat y.record tagI32) s1)

/-! ## MSEND (R142, R163, R328) -/

/-- Payload bytes that a descriptor names (R328). -/
def sendLen (w : BitVec 32) : Nat := (w.extractLsb' 11 3).toNat * 8

/-- The checks of MSEND of one lane, before it sends (R163, R328); its release at V comes first (R142). -/
def State.sendCheck (s : State) (y z : BitVec 6) (r : Ref) : Verdict :=
  let t := s.thr r
  let w := t.val32 y.toNat
  let off := t.val32 z.toNat
  if t.poisoned [u1 y, u1 z] then .fail poisonFault
  else if sendLen w = 0 ∨ w.extractLsb' 14 2 ≠ 0 then .fail (illegalFault rValue)
  else if off.toNat % 8 ≠ 0 then .fail { cause := .misaligned }
  else match s.scratchAt r off (sendLen w) with
    | none => .fail { cause := .scratchBounds }
    | some (h, o) =>
      if (s.half r.team h).scratchAway o (sendLen w) then .wait .handover
      else if s.allPerformed r false then .run else .wait .performed

/-- The message that a lane sends (R163). -/
def State.messageOf (s : State) (x y z : BitVec 6) (wait : Bool) (r : Ref) : Message :=
  let t := s.thr r
  let w := t.val32 y.toNat
  let bs := match s.scratchAt r (t.val32 z.toNat) (sendLen w) with
    | some (h, off) => (s.half r.team h).scratchRead off (sendLen w)
    | none => []
  { own := r, core := (w.extractLsb' 0 8).toNat, ring := (w.extractLsb' 8 3).toNat, utag := w.extractLsb' 16 16,
    payload := bs.map (·.1), poison := bs.any (·.2), wait := wait, dst := x, done := false }

/-- What a lane does in MSEND: its checks; then it has sent message number `id` and waits until that is answered. -/
def State.sendVerdict (s : State) (y z : BitVec 6) (id : Nat) (r : Ref) : Verdict :=
  match (s.thr r).wait with
  | some (.message k) => if (s.messages.getD k default).done then .run else .wait (.message k)
  | _ =>
    match s.sendCheck y z r with
    | .run => .wait (.message id)
    | v => v

/-- A message goes out to its ring's core (R78, R163). -/
def State.sendMessage (s : State) (n : Nat) : State :=
  let m := s.messages.getD n default
  if m.done then s else s.packetGo (s.messagePacket n (s.coreOf m.own) m.core false)

/-- MSEND and MSEND.NB: each lane's message goes out once, and retires when it is answered (R163). The status is written
when the answer comes. -/
def State.sendWord (s : State) (i : Instr) (x y z : BitVec 6) (wait : Bool) : State :=
  let base := s.messages.length
  let fresh := (s.active i).filter fun r => match (s.thr r).wait with | some (.message _) => false | _ => s.sendCheck y z r == .run
  let v := s.judge i fun r => s.sendVerdict y z (base + fresh.idxOf r) r
  let s1 := s.perform v fun a _ => a
  let sent := fresh.filter fun r => (s.stalledLanes v).contains r
  let s2 := { s1 with messages := s1.messages ++ fresh.map fun r =>
      { s.messageOf x y z wait r with done := !sent.contains r } }
  (List.range fresh.length).foldl (fun u k => u.sendMessage (base + k)) s2

/-- MSEND (R163, R328). -/
def execMsend (g : BitVec 3) (x y z : BitVec 6) (s : State) : Host.Outcome State Fault Refusal :=
  .next (s.sendWord (.msend g x y z) x y z true)
/-- MSEND.NB (R163, R328). -/
def execMsendNb (g : BitVec 3) (x y z : BitVec 6) (s : State) : Host.Outcome State Fault Refusal :=
  .next (s.sendWord (.msendNb g x y z) x y z false)

/-! ## The append (R162 to R164) -/

/-- The header of a message (R162). -/
def Message.header (m : Message) (s : State) (tail : BitVec 16) : BitVec 64 :=
  m.utag ++ tail ++ 0#7 ++ BitVec.ofBool (s.harvest m.own.team) ++ 0#3 ++ BitVec.ofNat 5 (s.halfOf m.own).resIdx ++
    BitVec.ofNat 8 (s.coreOf m.own) ++ BitVec.ofNat 8 m.payload.length

/-- A message is written into its ring: the entry, the tail mirror, then TAIL (R162, R164). Payload words that were
poisoned stay so. -/
def State.appendMessage (s : State) (n : Nat) (x : Ring) : State :=
  let m := s.messages.getD n default
  let at_ := x.off + 64 + 64 * (x.tail.toNat % x.entries)
  let s1 := s.modHalf x.team x.half fun h =>
    let h1 := h.scratchWrite at_ (leBytes 8 (m.header s x.tail).toNat ++ m.payload ++ List.replicate (56 - m.payload.length) 0)
    let h2 := if m.poison then h1.scratchPoison (at_ + 8) m.payload.length else h1
    h2.scratchWrite x.off (leBytes 4 (x.tail + 1).toNat)
  s1.modRing x.core x.phys fun y => { y with tail := y.tail + 1 }

/-- MESSAGE_APPEND of message `sel`, which has arrived: it is appended and answered DELIVERED, or answered FULL, NO_RING,
DENIED or NO_CORE; a blocking one that finds no room waits on (R163, R164). -/
def execMessageAppend (s : State) : Host.Outcome State Fault Refusal :=
  .next (
    let m := s.messages.getD s.sel default
    if s.messages.length ≤ s.sel ∨ m.done = true ∨ m.here = false then s
    else if m.status.isSome then s.sendAnswer s.sel
    else if !s.coreEnabled m.core then s.answer s.sel 4
    else match s.ringAt m.core m.ring with
      | none => s.answer s.sel 2
      | some x =>
        if !x.en || (s.team x.team).status == .retired then s.answer s.sel 2
        else if ((s.team x.team).xasid.setWidth 16 : BitVec 16) ≠ (s.team m.own.team).xasid.setWidth 16 then
          s.answer s.sel 3
        else if x.entries ≤ x.used ∨ (s.team x.team).status ≠ .resident then
          (if m.wait then s.modMessage s.sel fun y => { y with met := true } else s.answer s.sel 1)
        else (s.appendMessage s.sel x).answer s.sel 0)

end Sys2Proof.Machine
end

