-- ==== Sys2Proof/Machine/Capacity.lean ====
section
/-! DEFINITION. What a team claims, what a core has free, and whether and where a team fits (R44, R47 to R52, R62, R70,
R71, R165 to R167, R202, R204 to R206). -/

namespace Sys2Proof.Machine

open Sys2Proof

/-! ## Claims (R204) -/

/-- Lane threads that a team has on each of its cores (R170). -/
def Block.halfThreads (b : Block) : Nat := if b.twoCore then b.tsize / 2 else b.tsize
/-- Rows on each core (R51). -/
def Block.rowClaim (b : Block) : Nat := (b.halfThreads + 63) / 64
/-- Register granules on each core (R52). -/
def Block.regClaim (b : Block) : Nat := (b.rowClaim * b.regs + 15) / 16
/-- The launch asks for a vitrine (R71, R198). -/
def Block.vitrine (b : Block) : Bool := b.kflags.getLsbD 7
/-- Accumulator tiles of a vitrine (R71). -/
def vitTileCount : Nat := 18
/-- Accumulator tiles on each core, the vitrine's among them (R70, R71). -/
def Block.accClaim (b : Block) : Nat := b.tiles + (if b.vitrine then vitTileCount else 0)
/-- A launch is partition-flexible, as every harvest launch is (R49). -/
def Launch.flexible (l : Launch) : Bool := l.harvest || l.block.kflags.getLsbD 5

/-! ## The pool (R47, R48, R70) -/

/-- Register granules of a partition (R47, R52). -/
def regTotal (p : BitVec 32) : Nat := 16 * (p.extractLsb' 0 4).toNat
/-- Accumulator tiles of a partition (R47, R70). -/
def accTotal (p : BitVec 32) : Nat := 16 * (p.extractLsb' 4 4).toNat
/-- Scratch granules of a partition (R47). -/
def scrTotal (p : BitVec 32) : Nat := 16 * (32 - (p.extractLsb' 0 4).toNat - (p.extractLsb' 4 4).toNat)

/-- A valid partition word (R48). -/
def partitionOk (p : BitVec 32) : Bool :=
  let r := (p.extractLsb' 0 4).toNat
  let a := (p.extractLsb' 4 4).toNat
  decide (2 ≤ r) && decide (r ≤ 8) && decide (1 ≤ a) && decide (a ≤ 8) && decide (8 ≤ r + a) && p.extractLsb' 8 24 == 0

/-- Claim, and what an empty core has of it, per resource (R204). -/
def Block.ratios (b : Block) (p : BitVec 32) : List (Nat × Nat) :=
  [(b.regClaim, regTotal p), (b.scrg, scrTotal p), (b.rowClaim, 24), (b.slots, 128), (b.accClaim, accTotal p),
   (b.tbar, 64), (b.cvreg, 32), (b.kgreg, 32), (b.rings, 8), (1, 24)]

/-- One team fits an empty core (R199). -/
def Block.fitsEmpty (b : Block) : Bool := (b.ratios b.partword).all fun x => decide (x.1 ≤ x.2)
/-- How many teams fit an empty core (R199). -/
def Block.perEmpty (b : Block) : Nat :=
  ((b.ratios b.partword).filter fun x => x.1 != 0).foldl (fun m x => min m (x.2 / x.1)) 24

/-! ## Partitions of the module (R84, R411) -/

/-- Galleries of a partition (R411). -/
def State.partGalleries (s : State) (p : Nat) : List Nat :=
  let n := 16 / max 1 s.npart
  (List.range n).map fun k => n * p + k
/-- Cores of a partition that are enabled, ascending (R84, R411). -/
def State.partCores (s : State) (p : Nat) : List Nat :=
  ((s.partGalleries p).flatMap fun g => (List.range 16).map fun k => 16 * g + k).filter s.coreEnabled
/-- Dies of a partition. -/
def State.partDies (s : State) (p : Nat) : List Nat := ((s.partGalleries p).map fun g => g / 8).eraseDups

/-- The grid of a block can be resident at once in an empty partition, and one team fits (R194, R199). -/
def State.fitsPartition (s : State) (b : Block) (p : Nat) : Bool :=
  let n := (s.partCores p).length
  b.fitsEmpty && decide (0 < n) &&
    (b.gbar == 0 || decide (b.nteam ≤ b.perEmpty * (if b.twoCore then n / 2 else n)))

/-! ## What a core holds -/

/-- Teams with a half on a core that satisfy `p`, each with that half. -/
def State.halvesOn (s : State) (core : Nat) (p : Nat → Team → Bool) : List (Nat × Team × Half) :=
  (s.teams.zipIdx).flatMap fun x =>
    if p x.2 x.1 then (x.1.halves.filter fun h => h.core == core).map fun h => (x.2, x.1, h) else []

/-- The teams that occupy a core, those of `gone` left out. -/
def State.occupants (s : State) (core : Nat) (gone : List Nat) : List (Nat × Team × Half) :=
  s.halvesOn core fun n t => t.onCore && !gone.contains n

/-- The teams that hold barriers and rings of a core: pre-empted and evicted ones too, until they retire or are placed
elsewhere (R165, R371; log 83). -/
def State.keepers (s : State) (core : Nat) : List (Nat × Team × Half) :=
  s.halvesOn core fun _ t => t.onCore || t.status == .preempted || t.status == .runnable || t.status == .evicted

/-- Positions of a store that are being zeroed on a core (R44). -/
def State.zeroPos (s : State) (core : Nat) (st : Store) : List Nat :=
  (s.zeroing.filter fun z => z.core == core && z.store == st).flatMap (·.pos)

/-- Harvest teams on a core in ascending order of the lowest row that each holds (R206). -/
def State.evictOrder (s : State) (core : Nat) : List Nat :=
  let hs := (s.occupants core []).filter fun x => s.harvest x.1
  (List.range 24).filterMap fun row =>
    (hs.find? fun x => x.2.2.rows.foldl min 24 == row).map (·.1)

/-- `n` positions of a store that satisfy `p`: the lowest for guaranteed work, for harvest work the highest, from the
top down (R50). -/
def takePos (harvest : Bool) (total n : Nat) (p : Nat → Bool) : Option (List Nat) :=
  let all := (List.range total).filter p
  let xs := (if harvest then all.reverse else all).take n
  if xs.length = n then some xs else none

/-- The first position from which 18 consecutive tiles satisfy `p` (R71). -/
def takeVitrine (harvest : Bool) (total : Nat) (p : Nat → Bool) : Option (List Nat) :=
  let run (k : Nat) : List Nat := (List.range vitTileCount).map fun j => k + j
  let starts := (List.range (total + 1 - vitTileCount)).filter fun k => decide (vitTileCount ≤ total) && (run k).all p
  (if harvest then starts.getLast? else starts.head?).map run

/-- The partition that a launch's team would have on a core, and whether every harvest team must first leave (R49). -/
def State.partFor (s : State) (l : Launch) (core : Nat) : Option (BitVec 32 × Bool) :=
  let on := s.occupants core []
  let now := (s.core core).partition
  let own := l.block.partword
  if on.isEmpty then some (own, false)
  else if own.extractLsb' 0 8 = now.extractLsb' 0 8 ∨ l.flexible = true then some (now, false)
  else if on.all fun x => s.harvest x.1 then some (own, true)
  else none

/-! ## Fitting one core -/

/-- The places that a team gets on one core. -/
structure Seat where
  core : Nat
  part : BitVec 32
  rows : List Nat
  reg : List Nat
  acc : List Nat
  vit : List Nat
  scr : List Nat
  rings : List Nat
  deriving DecidableEq, Repr, Inhabited

/-- A sum over the teams of a core. -/
def sumOf (xs : List (Nat × Team × Half)) (f : Nat × Team × Half → Nat) : Nat := xs.foldl (fun n x => n + f x) 0

/-- The tables of a core have room for a team: slots, convergence and knot-grid registers, residents, and barriers and
rings under the tenant's quota; a team that returns holds its barriers and rings already (R165 to R167, R204). -/
def State.tablesFit (s : State) (l : Launch) (core : Nat) (gone : List Nat) (back : Bool) : Bool :=
  let b := l.block
  let on := s.occupants core gone
  let kept := s.keepers core
  let q := s.quotas.getD l.tenant default
  let mine := kept.filter fun x => (s.launchOf x.1).tenant == l.tenant
  let count (f : Block → Nat) (xs : List (Nat × Team × Half)) : Nat := sumOf xs fun x => f (s.block x.1)
  decide (on.length < 24) && decide (count Block.slots on + b.slots ≤ 128) &&
    decide (count Block.cvreg on + b.cvreg ≤ 32) && decide (count Block.kgreg on + b.kgreg ≤ 32) &&
    (back || (decide (count Block.tbar kept + b.tbar ≤ 64) && decide (count Block.tbar mine + b.tbar ≤ q.bar.toNat) &&
      decide (count Block.rings kept + b.rings ≤ 8) && decide (count Block.rings mine + b.rings ≤ q.ring.toNat)))

/-- The places of a team on a core once the teams of `gone` have left, under a partition. `keep` are the accumulator
positions that a returning owner takes again (R374), `back` says that the team returns. -/
def State.seat (s : State) (l : Launch) (core : Nat) (part : BitVec 32) (gone : List Nat) (back : Bool)
    (keep : Option (List Nat × List Nat)) : Option Seat :=
  let b := l.block
  let on := s.occupants core gone
  let freeRow (k : Nat) : Bool := !on.any fun x => x.2.2.rows.contains k
  let freeReg (k : Nat) : Bool := !(s.zeroPos core .regs).contains k && !on.any fun x => x.2.2.regGran.contains k
  let freeScr (k : Nat) : Bool := !(s.zeroPos core .scratch).contains k && !on.any fun x => x.2.2.scrGran.contains k
  let freeAcc (k : Nat) : Bool := !(s.zeroPos core .acc).contains k &&
    !on.any fun x => x.2.2.accTiles.contains k || x.2.2.vitTiles.contains k
  let usedRings := (s.keepers core).flatMap fun x => x.2.2.rings
  if !s.tablesFit l core gone back then none
  else
    let accs : Option (List Nat × List Nat) := match keep with
      | some (xs, vs) => if (xs ++ vs).all fun k => decide (k < accTotal part) && freeAcc k then some (xs, vs) else none
      | none =>
        match if b.vitrine then takeVitrine l.harvest (accTotal part) freeAcc else some [] with
        | none => none
        | some vs => (takePos l.harvest (accTotal part) b.tiles fun k => freeAcc k && !vs.contains k).map fun xs => (xs, vs)
    match takePos l.harvest 24 b.rowClaim freeRow, takePos l.harvest (regTotal part) b.regClaim freeReg,
        takePos l.harvest (scrTotal part) b.scrg freeScr, accs with
    | some rows, some reg, some scr, some (xs, vs) =>
      some { core := core, part := part, rows := rows, reg := reg, acc := xs, vit := vs, scr := scr
             rings := ((List.range 8).filter fun k => !usedRings.contains k).take b.rings }
    | _, _, _, _ => none

/-- The shortest beginning of a list of harvest teams whose eviction lets a team fit (R206). -/
def State.seatEvict (s : State) (l : Launch) (core : Nat) (part : BitVec 32) (back : Bool)
    (keep : Option (List Nat × List Nat)) (gone : List Nat) : List Nat → Option (Seat × List Nat)
  | [] => (s.seat l core part gone back keep).map fun x => (x, gone)
  | t :: ts =>
    match s.seat l core part gone back keep with
    | some x => some (x, gone)
    | none => s.seatEvict l core part back keep (if gone.contains t then gone else gone ++ [t]) ts

/-- A team's places on one core, with the harvest teams that leave for it (R49, R204, R206). -/
def State.seatOn (s : State) (l : Launch) (back : Bool) (keep : Option (List Nat × List Nat)) (gone : List Nat)
    (core : Nat) : Option (Seat × List Nat) :=
  if !s.coreEnabled core then none
  else match s.partFor l core with
    | none => none
    | some (part, clear) =>
      let order := s.evictOrder core
      if l.harvest then (s.seat l core part gone back keep).map fun x => (x, gone)
      else if clear then s.seatEvict l core part back keep ((gone ++ order).eraseDups) []
      else s.seatEvict l core part back keep gone order

/-- A team's places on the cores given, in order. -/
def State.seatsOn (s : State) (l : Launch) (back : Bool) : List (Nat × Option (List Nat × List Nat)) → List Nat →
    Option (List Seat × List Nat)
  | [], gone => some ([], gone)
  | (c, keep) :: cs, gone =>
    match s.seatOn l back keep gone c with
    | none => none
    | some (x, g) => (s.seatsOn l back cs g).map fun r => (x :: r.1, r.2)

/-! ## Choosing the core (R205) -/

/-- The cores that a team placed at a core takes (R170). -/
def Block.coresAt (b : Block) (core : Nat) : List Nat := if b.twoCore then [core, core + 1] else [core]

/-- A team's places at a core or at the cluster that begins there. -/
def State.seatsAt (s : State) (l : Launch) (core : Nat) : Option (List Seat × List Nat) :=
  s.seatsOn l false ((l.block.coresAt core).map fun c => (c, none)) []

/-- The time of the most recent gain of capacity of the cores that a team would take (R205). -/
def State.gainAt (s : State) (b : Block) (core : Nat) : Nat :=
  (b.coresAt core).foldl (fun m c => max m (s.core c).gained) 0

/-- The places of a launch's next team among some cores: where capacity was gained earliest, then the lower number
(R205). -/
def State.bestSeats (s : State) (l : Launch) (cores : List Nat) : Option (List Seat × List Nat) :=
  let firsts := if l.block.twoCore then cores.filter fun c => c % 2 == 0 && cores.contains (c + 1) else cores
  let good := firsts.filterMap fun c => (s.seatsAt l c).map fun x => (s.gainAt l.block c, x)
  (good.foldl (fun best x =>
    match best with
    | none => some x
    | some y => if x.1 < y.1 then some x else some y) (none : Option (Nat × List Seat × List Nat))).map (·.2)

/-- A launch's grid barriers are its own already, or there is room for them in its home die's table (R165, R167). -/
def State.gridRoom (s : State) (n : Nat) : Bool :=
  let l := s.launches.getD n default
  let others := s.launches.zipIdx.filter fun x =>
    x.2 != n && x.1.home == l.home && decide (0 < x.1.counter) && x.1.status != .retired
  let sum (xs : List (Launch × Nat)) : Nat := xs.foldl (fun m x => m + x.1.block.gbar) 0
  l.block.gbar == 0 || decide (0 < l.counter) ||
    (decide (sum others + l.block.gbar ≤ 8) &&
      decide (sum (others.filter fun x => x.1.tenant == l.tenant) + l.block.gbar ≤ (s.quotas.getD l.tenant default).gbar.toNat))

/-- Cohort barriers claimed in a cluster, given by its even core (R165). -/
def State.cohortClaims (s : State) (cluster : Nat) (p : Launch → Bool) : Nat :=
  s.launches.foldl (fun n l =>
    if l.status != .retired && p l then
      l.cohorts.foldl (fun n c =>
        if c.cluster == cluster && c.teams.any (fun t => (s.team t).status != .retired) then n + l.block.cbar else n) n
    else n) 0

/-- A cohort's barriers fit the table of its lowest cluster (R165, R167, R191). -/
def State.cohortRoom (s : State) (l : Launch) (cluster : Nat) : Bool :=
  decide (s.cohortClaims cluster (fun _ => true) + l.block.cbar ≤ 16) &&
    decide (s.cohortClaims cluster (fun x => x.tenant == l.tenant) + l.block.cbar ≤
      (s.quotas.getD l.tenant default).cbar.toNat)

end Sys2Proof.Machine
end

