-- ==== Sys2Proof/Machine/LaunchBlock.lean ====
section
/-! DEFINITION. The launch block and its checks, schedule catalogues, and the entry lines (R169, R178, R194, R197 to R200,
R213). -/

namespace Sys2Proof.Machine

open Sys2Proof

/-- The `n` bytes of a record at an offset, as a number (R5). -/
def recNum (bs : List Byte) (off n : Nat) : Nat := ofLe ((bs.drop off).take n)
/-- Bytes of a record from `off` up to `stop` are zero. -/
def recZero (bs : List Byte) (off stop : Nat) : Bool := ((bs.drop off).take (stop - off)).all (· == 0)

/-- A launch block from its 256 bytes (R198). -/
def blockOf (bs : List Byte) : Block :=
  let w (off : Nat) : BitVec 32 := BitVec.ofNat 32 (recNum bs off 4)
  let d (off : Nat) : BitVec 64 := BitVec.ofNat 64 (recNum bs off 8)
  let n (off len : Nat) : Nat := recNum bs off len
  { version := n 0 4, kflags := w 4, lanepc := d 8, ctlpc := d 0x10, tsize := n 0x18 4, nteam := n 0x1C 4,
    partword := w 0x20, regs := n 0x24 2, scrg := n 0x26 2, slots := n 0x28 1, tiles := n 0x29 1, cvreg := n 0x2A 1,
    kgreg := n 0x2B 1, tbar := n 0x2C 1, rings := n 0x2D 1, cbar := n 0x2E 1, gbar := n 0x2F 1, cohp := n 0x30 1,
    cohf := n 0x31 1, clkwant := w 0x34, crit := BitVec.ofNat 8 (n 0x38 1), argptr := d 0x40, catptr := d 0x48,
    ctrptr := d 0x50, ctrinc := n 0x58 4, stkbase := d 0x60, stksize := n 0x68 4, spillptr := d 0x70,
    roles := (List.range 128).map fun g => BitVec.ofNat 2 (recNum bs (0x80 + g / 4) 1 / 4 ^ (g % 4)) }

/-- Groups of a team (R170). -/
def Block.groupCount (b : Block) : Nat := b.tsize / b.width

/-- A reserved bit of a clock word is set (R215). -/
def clockReserved (w : BitVec 32) : Bool := w &&& 0xE0E0_E0E0 != 0
/-- A field of a clock word is neither 0 nor 4 to 16 (R215). -/
def clockBad (w : BitVec 32) : Bool :=
  (List.range 4).any fun k =>
    let x := (w.extractLsb' (8 * k) 5).toNat
    x != 0 && (decide (x < 4) || decide (16 < x))

/-- LB_RESERVED: a reserved byte, bit or role pair is non-zero (R198, R199). -/
def blockReserved (bs : List Byte) : Bool :=
  let b := blockOf bs
  !(recZero bs 0x32 0x34 && recZero bs 0x39 0x40 && recZero bs 0x5C 0x60 && recZero bs 0x6C 0x70 && recZero bs 0x78 0x80 &&
    recZero bs 0xA0 0x100) || b.kflags.extractLsb' 10 22 != 0 || b.crit.extractLsb' 4 4 != 0 || clockReserved b.clkwant ||
    (b.roles.drop b.groupCount).any (· != 0)

/-- LB_SHAPE (R169, R198, R199). -/
def Block.badShape (b : Block) : Bool :=
  b.kflags.extractLsb' 8 2 == 3 || b.nteam == 0 || b.tsize % b.width != 0 ||
    (if b.twoCore then decide (b.tsize < 128) || decide (2048 < b.tsize) || b.tsize % 128 != 0
     else decide (b.tsize < 1) || decide (1024 < b.tsize)) ||
    decide (b.regs < 8) || decide (64 < b.regs) || b.regs % 8 != 0 || decide (384 < b.scrg) || decide (64 < b.slots) ||
    decide (64 < b.tiles) || decide (32 < b.cvreg) || decide (32 < b.kgreg) || decide (64 < b.tbar) ||
    decide (8 < b.rings) || decide (16 < b.cbar) || decide (8 < b.gbar)

/-- An entry point of LB_ENTRY (R198). -/
def entryBad (pc : BitVec 64) : Bool := !canonical pc || pc.toNat % 128 != 0

/-- LB_COHORT (R191, R198). -/
def Block.badCohort (b : Block) : Bool :=
  if b.cohp = 0 then b.cohf != 0 else !([2, 4, 8, 16].contains b.cohp && [2, 4, 8, 16].contains b.cohf && decide (b.cohf ≤ b.cohp))

/-- LB_STACK (R198, R199). -/
def Block.badStack (b : Block) : Bool :=
  b.stkbase.toNat % 16 != 0 || b.stksize % 16 != 0 || decide (2 ^ 32 < b.stksize * b.tsize * b.nteam)

/-- LB_SPILL (R198, R199). -/
def Block.badSpill (b : Block) (harvest : Bool) : Bool :=
  if harvest then b.spillptr == 0 || b.spillptr.toNat % 128 != 0 else b.spillptr != 0

/-- LB_QUOTA: a claim of one team, or the launch's of grid barriers, exceeds its tenant's quota (R165 to R167). -/
def Block.overQuota (b : Block) (q : Quota) : Bool :=
  decide (q.bar.toNat < b.tbar) || decide (q.cbar.toNat < b.cbar) || decide (q.ring.toNat < b.rings) ||
    decide (q.gbar.toNat < b.gbar)

/-- One class of a catalogue: non-empty entries first, their limits ascending, their targets good (R213). `seen` says that
an empty entry has passed, `last` is the last limit. -/
def classOk (seen : Bool) (last : Option Nat) : List (List Byte) → Bool
  | [] => true
  | e :: es =>
    let target : BitVec 64 := BitVec.ofNat 64 (recNum e 8 8)
    let limit := recNum e 0 4
    if target = 0 then classOk true last es
    else !seen && canonical target && target.toNat % 4 == 0 && (match last with | some x => decide (x < limit) | none => true) &&
      classOk false (some limit) es

/-- The catalogue of a launch: its class count, or none when it breaks R213 or cannot be read. -/
def State.catalogue (s : State) (die : Nat) (sp : Space16) (ptr : BitVec 64) : State × Option Nat :=
  if ptr = 0 then (s, some 0)
  else if ptr.toNat % 64 ≠ 0 then (s, none)
  else match s.agentLoad die sp ptr 64 with
    | (s1, .error _) => (s1, none)
    | (s1, .ok hd) =>
      let h := hd.map (·.1)
      let n := recNum h 0 4
      if hd.any (·.2) || n = 0 || 8 < n || !recZero h 4 64 then (s1, none)
      else match s1.agentLoad die sp (addNat ptr 64) (128 * n) with
        | (s2, .error _) => (s2, none)
        | (s2, .ok bd) =>
          let b := bd.map (·.1)
          let ok := (List.range n).all fun c =>
            classOk false none ((List.range 8).map fun k => (b.drop (128 * c + 16 * k)).take 16)
          (s2, if bd.any (·.2) || !ok then none else some n)

/-- A completion counter's address and increment pass LB_COUNTER (R199). -/
def State.counterOk (s : State) (die : Nat) (sp : Space16) (ptr : BitVec 64) (inc : Nat) : State × Bool :=
  if ptr = 0 then (s, inc == 0)
  else if ptr.toNat % 8 ≠ 0 ∨ inc < 1 ∨ 65535 < inc then (s, false)
  else match s.agentCheck die sp { rd := true, wr := true } 2 ptr 8 with
    | (s1, none) => (s1, true)
    | (s1, some _) => (s1, false)

/-- An entry line fetched with EX permission: its place in the coherent image and its bytes (R199, R200). -/
def State.entryLine (s : State) (die : Nat) (sp : Space16) (pc : BitVec 64) : State × Option (Nat × List Byte) :=
  match s.agentAt die sp pc { ex := true } 4 with
  | (s1, .error _) => (s1, none)
  | (s1, .ok (l, pa)) =>
    let a := imageAddr l.plinth pa
    let bs := s1.imageRead a 128
    (s1.l2Read pa a, if bs.any (·.2) then none else some (a, bs.map (·.1)))

/-- What the checks of a block give: the status code of R407, the classes of its catalogue and its entry lines. -/
structure BlockCheck where
  code : Nat
  block : Block
  nclass : Nat
  laneLine : Nat × List Byte
  ctlLine : Nat × List Byte
  deriving DecidableEq, Repr, Inhabited

/-- A check that ends with a code. -/
def BlockCheck.failed (b : Block) (code : Nat) : BlockCheck :=
  { code := code, block := b, nclass := 0, laneLine := (0, []), ctlLine := (0, []) }

/-- The failures of the table of R199 that need no memory, in its order: rows to the last before LB_CATALOGUE. -/
def State.blockEarly (s : State) (q : Queue) (part : Nat) (bs : List Byte) : Nat :=
  let b := blockOf bs
  if b.version ≠ 1 then 1
  else if blockReserved bs then 2
  else if b.kflags.getLsbD 0 ≠ q.harvest then 3
  else if b.badShape then 4
  else if (b.roles.take b.groupCount).any (· == 3) then 5
  else if entryBad b.lanepc || (b.ctlpc != 0 && (entryBad b.ctlpc || q.harvest)) then 6
  else if !partitionOk b.partword then 7
  else if !s.fitsPartition b part then 8
  else if b.overQuota (s.quotas.getD q.tenant.toNat default) then 9
  else if b.badCohort then 10
  else if clockBad b.clkwant then 11
  else 0

/-- The entry lines, fetched once every check has passed (R199). -/
def State.blockLines (s : State) (die : Nat) (sp : Space16) (b : Block) (nclass : Nat) : State × BlockCheck :=
  match s.entryLine die sp b.lanepc with
  | (s1, none) => (s1, BlockCheck.failed b 0x28)
  | (s1, some lane) =>
    if b.ctlpc = 0 then (s1, { code := 0, block := b, nclass := nclass, laneLine := lane, ctlLine := (0, []) })
    else match s1.entryLine die sp b.ctlpc with
      | (s2, none) => (s2, BlockCheck.failed b 0x28)
      | (s2, some ctl) => (s2, { code := 0, block := b, nclass := nclass, laneLine := lane, ctlLine := ctl })

/-- A block checked whole, in the order of R199. -/
def State.blockChecks (s : State) (q : Queue) (sp : Space16) (part : Nat) (bs : List Byte) : State × BlockCheck :=
  let die := q.homedie.toNat
  let b := blockOf bs
  let early := s.blockEarly q part bs
  if early ≠ 0 then (s, BlockCheck.failed b early)
  else match s.catalogue die sp b.catptr with
    | (s1, none) => (s1, BlockCheck.failed b 12)
    | (s1, some n) =>
      match s1.counterOk die sp b.ctrptr b.ctrinc with
      | (s2, false) => (s2, BlockCheck.failed b 13)
      | (s2, true) =>
        if b.badStack then (s2, BlockCheck.failed b 14)
        else if b.badSpill q.harvest then (s2, BlockCheck.failed b 15)
        else s2.blockLines die sp b n

/-- A block read at its address and checked; LB_FETCH when it cannot be read (R199). -/
def State.takeBlock (s : State) (q : Queue) (sp : Space16) (part : Nat) (va : BitVec 64) : State × BlockCheck :=
  if va.toNat % 64 ≠ 0 then (s, BlockCheck.failed (blockOf []) 0x28)
  else match s.agentLoad q.homedie.toNat sp va 256 with
    | (s1, .error _) => (s1, BlockCheck.failed (blockOf []) 0x28)
    | (s1, .ok bs) =>
      if bs.any (·.2) then (s1, BlockCheck.failed (blockOf []) 0x28)
      else s1.blockChecks q sp part (bs.map (·.1))

end Sys2Proof.Machine
end

