-- ==== Sys2Proof/Machine/Evict.lean ====
section
/-! DEFINITION. Storage that a team leaves, the eviction of harvest teams and their spill records (R44, R72, R161, R206
to R208, R373, R374). -/

namespace Sys2Proof.Machine

open Sys2Proof

/-! ## Freeing storage (R44, R374) -/

/-- A number joins an ascending list. -/
def insertNat (n : Nat) : List Nat → List Nat
  | [] => [n]
  | k :: ks => if n ≤ k then n :: k :: ks else k :: insertNat n ks
/-- A list of numbers in ascending order. -/
def sortNat (xs : List Nat) : List Nat := xs.foldr insertNat []

/-- Storage starts being zeroed; `team` is a pre-empted team whose accepted work comes first (R44, R371). -/
def State.freeStore (s : State) (core : Nat) (st : Store) (pos : List Nat) (team : Option Nat) : State :=
  if pos.isEmpty then s
  else { s with zeroing := s.zeroing ++ [{ core := core, store := st, pos := sortNat pos, team := team }] }

/-- A half's accumulator positions, those of the core's held set left out: held storage is neither freed nor zeroed
(R44). -/
def State.ownAcc (s : State) (h : Half) : List Nat :=
  (h.accTiles ++ h.vitTiles).filter fun k => !(s.heldPos h.core).contains k

/-- A core gains capacity now; gains of one time tie (R205). -/
def State.gain (s : State) (core : Nat) : State := s.modCore core fun c => { c with gained := s.gtime }

/-- A core that no team occupies any longer has no partition (R49). -/
def State.vacate (s : State) (core : Nat) : State :=
  if (s.occupants core []).isEmpty then s.modCore core fun c => { c with partition := 0 } else s

/-- The storage of some halves is freed, registers first, then accumulator storage, then scratch, and their table entries
are released (R44, R205, R209). -/
def State.freeHalves (s : State) (hs : List Half) (team : Option Nat) : State :=
  let s1 := hs.foldl (fun x h => x.freeStore h.core .regs h.regGran team) s
  let s2 := hs.foldl (fun x h => x.freeStore h.core .acc (s.ownAcc h) team) s1
  let s3 := hs.foldl (fun x h => x.freeStore h.core .scratch h.scrGran team) s2
  hs.foldl (fun x h => (x.vacate h.core).gain h.core) s3

/-- ACCOWN of a core names nothing when the set it named is freed (R374). -/
def State.dropOwner (s : State) (core t : Nat) : State :=
  if (s.core core).ownerTeam = some t then
    (s.noShares core).modCore core fun c => { c with owner := 0, held := false, ownerTeam := none }
  else s

/-- A team's monitor entries are released (R165). -/
def State.dropMonitors (s : State) (t : Nat) : State := { s with monitors := s.monitors.filter fun m => m.team != t }
/-- A team's rings are released, and its monitor entries too (R161, R165). -/
def State.releaseTables (s : State) (t : Nat) : State := (s.releaseRings t).dropMonitors t

/-! ## Spill records (R207, R373) -/

/-- `n` words of a list, the missing ones zero. -/
def padWords (n : Nat) (xs : List Nat) : List Nat := (List.range n).map fun k => xs.getD k 0

/-- A spill record of the fields given (R373). -/
def spillBytes (live : List Reg) (mask restart : BitVec 64) (prologue exited between : Bool) : List Byte :=
  let tags := ((padWords 16 (live.map fun r => r.tag.toNat)).zipIdx).foldl (fun n p => n + p.1 * 16 ^ p.2) 0
  let bit (b : Bool) (k : Nat) : Nat := if b then 2 ^ k else 0
  (padWords 16 (live.map fun r => (r.val.setWidth 32).toNat)).flatMap (leBytes 4) ++ leBytes 8 tags ++
    leBytes 8 mask.toNat ++ leBytes 8 restart.toNat ++
    leBytes 4 (1 + bit prologue 1 + bit exited 2 + bit between 3) ++ List.replicate 36 0

/-- The spill record of a thread as its eviction finds it (R207, R373). -/
def State.spillRecord (s : State) (r : Ref) : List Byte :=
  let t := s.thr r
  let g := s.group r.team t.group
  let live (m : BitVec 64) : List Reg := (setBits m).map fun k => (t.regs[k]?).getD rawReg
  match g.phase with
  | .prologue => spillBytes [] 0 (s.block r.team).lanepc true t.exited false
  | .region => spillBytes (live g.mask) g.mask g.label false t.exited false
  | .between => spillBytes (live g.lastMask) g.lastMask (if t.cm then t.tr.epc else t.stopPc) false t.exited true

/-- Address of a thread's spill record (R207). -/
def State.spillAddr (s : State) (r : Ref) : BitVec 64 :=
  let b := s.block r.team
  addNat b.spillptr (128 * ((s.team r.team).index * b.tsize + r.thr))

/-- The address space of a launch (R17, R197). -/
def Launch.space (l : Launch) : Space16 := { asid := l.asid, root := l.root }

/-- The pieces of a spill write of `n` bytes from `va`, translated on a die; `fuel` bounds the lines. -/
def State.spillPieces (s : State) (die : Nat) (sp : Space16) : Nat → BitVec 64 → Nat → Nat →
    State × Except LaneFault (List Piece)
  | 0, _, _, _ => (s, .ok [])
  | fuel + 1, va, n, off =>
    if n = 0 then (s, .ok [])
    else
      let k := min n (128 - slice va 0 7)
      match s.agentAt die sp va { wr := true } 6 with
      | (s1, .error f) => (s1, .error f)
      | (s1, .ok (l, pa)) =>
        match s1.spillPieces die sp fuel (addNat va k) (n - k) (off + k) with
        | (s2, .error f) => (s2, .error f)
        | (s2, .ok ps) => (s2, .ok (cutLines va l (k + 1) pa k off ++ ps))

/-- The spill engine sends a thread's record to its homes, as guaranteed traffic of priority 15 (R78, R207, R208). -/
def State.spillThread (s : State) (r : Ref) : State × Bool :=
  let l := s.launchOf r.team
  let bs := s.spillRecord r
  match s.spillPieces (s.dieOf r) l.space 3 (s.spillAddr r) bs.length 0 with
  | (s1, .error _) => (s1, true)
  | (s1, .ok ps) =>
    (s1.launchFlight { s1.agentFlight r.team (s1.coreOf r) (.spill r.team) .store bs ps with
      harvest := false, prio := 15, asid := l.asid }, false)

/-- The spill engine writes a team's records; a record that faults ends its launch with SPILL_FAULT (R207, R208). -/
def State.spillTeam (s : State) (t : Nat) : State :=
  let out := (s.laneRefs t).foldl (fun (x : State × Bool) r =>
    let w := x.1.spillThread r
    (w.1, x.2 || w.2)) (s, false)
  if out.2 then out.1.endLaunch (s.team t).launch 0x23 else out.1

/-! ## Eviction (R206, R207) -/

/-- A team stops where it is: its open regions and deferred drains are discarded; committed entries for global memory
drain on, those for its scratch are lost with it (R207, R316). -/
def Team.stop (t : Team) (grant : BitVec 32) : Team :=
  { t with
    status := if t.status = .retired then .retired else .evicted
    leftGrant := grant
    groups := t.groups.map fun g => { g with buf := [], draining := g.draining.filter fun e => e.scratch.isNone }
    threads := t.threads.map fun u => { u with wait := none, hint := none, watch := none } }

/-- A harvest team leaves its cores: spilled, its loads and engine work discarded; it keeps its barriers and rings, which
count as full (R163, R165, R207). -/
def State.evictTeam (s : State) (t : Nat) : State :=
  let s0 := (List.range (s.groupCount t)).foldl (fun x g => x.discardRegion t g) (s.spillTeam t)
  let s1 := (s.laneRefs t).foldl State.discardLoads s0
  let s2 := s1.modTeam t fun x =>
    let y := x.stop (s1.die (dieOfCore (s.half t 0).core)).grant
    if (s1.launchOf t).status = .ending then { y with status := .retired } else y
  { s2 with
    engine := s2.engine.filter fun e => e.team != t
    slotReads := s2.slotReads.map fun (x : SlotRead) => if x.team = t then { x with live := false } else x
    messages := s2.messages.map fun (m : Message) => if m.own.team = t then { m with done := true } else m }.dropMonitors t

/-- Harvest teams are evicted together: their records first, then their storage is handed over in the order of R209. -/
def State.evictTeams (s : State) (ts : List Nat) : State :=
  let hs := ts.flatMap fun t => (s.team t).halves
  let s1 := (ts.foldl State.evictTeam s).freeHalves hs none
  hs.foldl (fun x h => ts.foldl (fun y t => y.dropOwner h.core t) x) s1

end Sys2Proof.Machine
end

