-- ==== Sys2Proof/Machine/Place.lean ====
section
/-! DEFINITION. Dispatch and placement: draws, cohorts, the distributor's choice, starts, hand-over and retirement (R44, R177,
R191, R194, R200 to R210, R374, R412). -/

namespace Sys2Proof.Machine

open Sys2Proof

/-! ## Seating a team (R50, R200, R206, R209, R374) -/

/-- What of a seat an eviction has not yet passed: claims that lie in storage being zeroed (R209). -/
def State.awaits (s : State) (x : Seat) : List Nat :=
  let on (st : Store) (k : Nat) : Bool := (s.zeroPos x.core st).contains k
  let idx (st : Store) (base : Nat) (xs : List Nat) : List Nat := (xs.zipIdx.filter fun p => on st p.1).map fun p => base + p.2
  idx .regs 0 x.reg ++ idx .scratch 1024 x.scr ++ idx .acc 2048 x.acc ++ (if x.vit.any (on .acc) then [4096] else [])

/-- How many knot-grid registers of a team would lie in the core's held set of another context: as many as the others
leave too few (R374). -/
def State.seatKnots (s : State) (t : Nat) (x : Seat) : Nat :=
  let c := s.core x.core
  match c.ownerTeam with
  | some o =>
    let others := sumOf (s.occupants x.core [t]) fun y => (s.block y.1).kgreg
    if c.held && o != t then min (s.block t).kgreg (others + (s.block t).kgreg + (s.block o).kgreg - 32) else 0
  | none => 0

/-- A seat lies on part of the core's held set of another context: on its tiles, or on its knot-grid registers (R374). -/
def State.seatShares (s : State) (t : Nat) (x : Seat) : Bool :=
  let c := s.core x.core
  c.held && c.ownerTeam != some t &&
    ((x.acc ++ x.vit).any (fun k => (s.heldPos x.core).contains k) || decide (0 < s.seatKnots t x))

/-- The lowest resident index free on a core (R162). -/
def State.freeResIdx (s : State) (core t : Nat) : Nat :=
  let used := (s.occupants core [t]).map fun x => x.2.2.resIdx
  ((List.range 24).find? fun k => !used.contains k).getD 0

/-- The half of a team that has never been on its cores, or whose storage was lost. -/
def State.freshHalf (s : State) (t : Nat) (x : Seat) : Half :=
  { Half.start (s.block t) x.core x.rows x.reg x.acc x.vit x.scr x.rings (s.awaits x) with
    shares := s.seatShares t x, heldKnots := s.seatKnots t x, resIdx := s.freeResIdx x.core t }

/-- The half of a pre-empted team that returns, its saved contents in it (R372). -/
def State.savedHalf (s : State) (t : Nat) (h : Half) (x : Seat) : Half :=
  { h with rows := x.rows, regGran := x.reg, accTiles := x.acc, vitTiles := x.vit, scrGran := x.scr, awaiting := s.awaits x,
           shares := s.seatShares t x, heldKnots := s.seatKnots t x, resIdx := s.freeResIdx x.core t }

/-- The slot of a lane thread on its rows (R51). -/
def slotOn (b : Block) (seats : List Seat) (k : Nat) : Nat :=
  let j := idxInHalf b k
  64 * ((seats.getD (halfIdx b k) default).rows).getD (j / 64) 0 + j % 64

/-- The entry lines of a launch are delivered to a core, as its take read them; a line that the core has filled since is
newer and stays, and after an IFENCE there since the take a line is delivered as its home holds it (R140, R200). -/
def State.entryLines (s : State) (l : Launch) (core : Nat) : State :=
  let put (s : State) (x : Nat × List Byte) : State :=
    if x.2.isEmpty || s.icache.any (fun y => y.core == core && y.line == x.1 && decide (l.order < y.filled)) then s
    else if l.order < (s.core core).ifence then
      let bs := s.imageRead x.1 128
      s.ilinePut { core := core, line := x.1, data := bs.map (·.1),
                   bad := (bs.zipIdx.filter fun p => p.1.2).map fun p => x.1 + p.2, filled := s.stamp }
    else s.ilinePut { core := core, line := x.1, data := x.2, bad := [], filled := l.order }
  put (put s l.laneLine) l.ctlLine

/-- Ring records of a half (R161). -/
def ringsOf (t h : Nat) (x : Seat) : List Ring :=
  x.rings.map fun k => { core := x.core, phys := k, team := t, half := h, tail := 0, head := 0, base := 0, logn := 0, en := false }

/-- A team's ring records come into the places that it was given, free since they were its own or a retired team's
(R161). -/
def State.putRings (s : State) (t : Nat) (seats : List Seat) : State :=
  let new := seats.zipIdx.flatMap fun (p : Seat × Nat) => ringsOf t p.2 p.1
  let left := (s.rings.filter fun x => new.any fun y => y.core == x.core && y.phys == x.phys).map (·.team)
  let s1 := left.eraseDups.foldl State.releaseRings (s.releaseRings t)
  { s1 with rings := s1.rings ++ new }

/-- Cores of a placement take the partition its launch finds or sets, and a team starts after the take's acquire: its
cores' L1 copies go, those of constant windows too (R49, R197). -/
def State.seatCores (s : State) (seats : List Seat) : State :=
  seats.foldl (fun y x => 
    let z := y.modCore x.core fun c => { c with partition := x.part }
    { z with l1 := z.l1.filter fun k => k.core != x.core }) s

/-- A team's first placement on the seats given (R200, R204). -/
def State.putFresh (s : State) (t : Nat) (seats : List Seat) (ctx : BitVec 16) : State :=
  let l := s.launchOf t
  let s1 := s.modTeam t fun x =>
    { x with
      status := .placed
      ctxid := ctx
      halves := seats.map (s.freshHalf t)
      threads := startThreads l.block x.index fun h => (seats.getD h default).rows }
  let s2 := s1.putRings t seats
  let s3 := (s2.seatCores seats).modLaunch (s.team t).launch fun x => { x with placed := x.placed + 1 }
  seats.foldl (fun y x => y.entryLines l x.core) s3

/-! ## Restart from spill records (R207, R208, R317, R373) -/

/-- A number of a record. -/
def recordField (bs : List Byte) (off n : Nat) : Nat := ofLe ((bs.drop off).take n)

/-- The tag that a code of a record gives a register: a reserved code, which none ever holds, gives one of the others,
which the manual does not name (R101, R373; log 8). -/
def heldTag (c : Tag) : Tag := if c.toNat < 0xE then c else BitVec.ofNat 4 (Config.recordTag c).val
/-- The registers that a record restores (R373). -/
def recordRegs (bs : List Byte) : RegFile :=
  let mask := BitVec.ofNat 64 (recordField bs 0x48 8)
  let tags := recordField bs 0x40 8
  (setBits mask).zipIdx.foldl (fun rs p =>
    if p.2 < 16 then
      rs.setIfInBounds p.1 (taggedReg (BitVec.ofNat 64 (recordField bs (4 * p.2) 4)) (heldTag (BitVec.ofNat 4 (tags / 16 ^ p.2))))
    else rs) (Vector.replicate 64 rawReg)

/-- A thread as its record restarts it: exited, at its start, or with its live-ins at RESTART (R373). -/
def Thread.fromRecord (t : Thread) (b : Block) (index : Nat) (seats : List Seat) (bs : List Byte) : Thread :=
  let st := recordField bs 0x58 4
  let slot := slotOn b seats t.tidx.toNat
  if st / 4 % 2 = 1 then { t with exited := true, slot := slot }
  else if st / 2 % 2 = 1 then laneThread b index (fun h => (seats.getD h default).rows) t.tidx.toNat
  else
    { (t.restart (BitVec.ofNat 64 (recordField bs 0x50 8)) (recordRegs bs) 0) with slot := slot, exited := false, age := 0 }

/-- A group as the record of its lowest thread that goes on restarts it (R317, R373). -/
def Group.fromRecord (g : Group) (bs : List Byte) : Group :=
  let st := recordField bs 0x58 4
  let mask := BitVec.ofNat 64 (recordField bs 0x48 8)
  if st / 2 % 2 = 1 then { g with phase := .prologue, open_ := false }
  else if st / 8 % 2 = 1 then { g with phase := .between, open_ := false, lastMask := mask }
  else g.openRegion mask (BitVec.ofNat 64 (recordField bs 0x50 8))

/-- The records of a team, read before any thread starts; the first failure is that of its launch (R208). -/
def State.readRecords (s : State) (t die : Nat) : State × Except (BitVec 8) (List (List Byte)) :=
  let l := s.launchOf t
  (s.laneRefs t).foldl (fun acc r =>
    match acc.2 with
    | .error _ => acc
    | .ok rs =>
      match acc.1.agentLoad die l.space (s.spillAddr r) 128 with
      | (x, .error _) => (x, .error 0x23)
      | (x, .ok bs) => if bs.any (·.2) then (x, .error 0x27) else (x, .ok (rs ++ [bs.map (·.1)]))) (s, .ok [])

/-- Groups form one fragment each of their threads that go on (R373). -/
def State.reform (s : State) (t : Nat) : State :=
  (List.range (s.team t).groups.length).foldl (fun x g =>
    let rs := x.liveRefs t g
    let frag := x.leastIdx rs (fun _ => true) (x.width t)
    rs.foldl (fun y r => y.modThr r fun u => { u with frag := frag }) x) s

/-- A team that comes back to a die whose grant is another gets one notice (R219). -/
def State.noticeBack (s : State) (t die : Nat) : State :=
  if (s.die die).grant = (s.team t).leftGrant then s else s.modTeam t Team.notice

/-- An evicted team's placement: its records are read, then its threads restart; a record that cannot be read ends the
launch and releases the placement (R207, R208, R373). -/
def State.putEvicted (s : State) (t : Nat) (seats : List Seat) : State :=
  let l := s.launchOf t
  let die := dieOfCore (seats.headD default).core
  match s.readRecords t die with
  | (s1, .error code) => s1.endLaunch (s.team t).launch code
  | (s1, .ok recs) =>
    let b := l.block
    let s2 := s1.modTeam t fun x =>
      { x with
        status := .placed
        halves := seats.map (s.freshHalf t)
        bars := List.replicate b.tbar Barrier.start
        xroot := l.root ||| 1#64
        xasid := l.asid.setWidth 64
        threads := x.threads.zipIdx.map fun (p : Thread × Nat) => p.1.fromRecord b x.index seats (recs.getD p.2 [])
        groups := x.groups.zipIdx.map fun (p : Group × Nat) =>
          match (List.range b.width).find? fun k =>
              recordField (recs.getD (p.2 * b.width + k) []) 0x58 4 / 4 % 2 = 0 with
          | some k => p.1.fromRecord (recs.getD (p.2 * b.width + k) [])
          | none => p.1 }
    let s3 := s2.putRings t seats
    let s4 := seats.foldl (fun y x => y.entryLines l x.core) (s3.seatCores seats)
    (s4.reform t).noticeBack t die

/-- A drawn or evicted team takes its seats, once the harvest teams in its way have left (R206). -/
def State.putTeam (s : State) (t : Nat) (seats : List Seat) (gone : List Nat) (ctx : BitVec 16) : State :=
  let s1 := s.evictTeams gone
  if (s.team t).status = .evicted then s1.putEvicted t seats else s1.putFresh t seats ctx

/-! ## Starting (R194, R200, R209) -/

/-- Every register granule of a team has passed (R209). -/
def Team.regsPassed (t : Team) : Bool := t.halves.all fun h => h.awaiting.all fun k => decide (1024 ≤ k)
/-- A placed team can start (R209). -/
def Team.canStart (t : Team) : Bool := t.status == .placed && t.regsPassed

/-- Teams of a launch. -/
def State.teamsOf (s : State) (l : Nat) : List Nat := (List.range s.teams.length).filter fun t => (s.team t).launch == l

/-- Every team of a launch's grid is placed and can start (R194, R412). -/
def State.gridWhole (s : State) (l : Nat) : Bool :=
  let ts := s.teamsOf l
  decide (ts.length = (s.launches.getD l default).block.nteam) && ts.all fun t => (s.team t).canStart

/-- Placed teams of a list start. -/
def State.startTeams (s : State) (ts : List Nat) : State :=
  ts.foldl (fun x t => x.modTeam t fun y => if y.canStart then { y with status := .resident } else y) s

/-- A placed team starts; a team of a grid with grid barriers when every team can, and a gang's part at its commit (R194,
R412). -/
def State.tryStart (s : State) (t : Nat) : State :=
  let n := (s.team t).launch
  let l := s.launches.getD n default
  if l.status ≠ .running then s
  else if l.block.gbar ≠ 0 ∧ l.started = false then
    (if s.gridWhole n then (s.startTeams (s.teamsOf n)).modLaunch n fun x => { x with started := true } else s)
  else s.startTeams [t]

/-- GUARANTEED_TEAM_RELEASE of team `sel` (R209). -/
def execGuaranteedTeamRelease (s : State) : Host.Outcome State Fault Refusal := .next (s.tryStart s.sel)

/-! ## Gangs' reservations (R412) -/

/-- A gang's part may reserve: the parts with lower partitions are whole, and no other gang's reservation is on its
partition (R412). -/
def State.mayReserve (s : State) (l : Nat) : Bool :=
  let x := s.launches.getD l default
  match x.gang with
  | none => true
  | some g =>
    let y := s.gangs.getD g default
    y.committed || (
      (y.parts.all fun p => p == l || decide (x.part < (s.launches.getD p default).part) || s.gridWhole p) &&
        !s.gangs.zipIdx.any fun z => z.2 != g && !z.1.committed && !z.1.done && z.1.reserved.contains x.part)

/-- A gang's part has begun to reserve its partition. -/
def State.noteReserve (s : State) (l : Nat) : State :=
  let x := s.launches.getD l default
  match x.gang with
  | none => s
  | some g => { s with gangs := s.gangs.modify g fun y =>
      if y.reserved.contains x.part then y else { y with reserved := insertNat x.part y.reserved } }

/-! ## The dispatchers (R191, R202, R203) -/

/-- A launch is being placed: it runs, or it is a gang's part that reserves. -/
def State.placing (s : State) (l : Nat) : Bool :=
  let x := s.launches.getD l default
  (x.status == .running || x.status == .reserving) && s.mayReserve l && s.gridRoom l

/-- Launch `l` has a team that die `d`'s dispatcher has still to place, drawn or not yet drawn (R203). -/
def State.unplaced (s : State) (d l : Nat) : Bool :=
  let x := s.launches.getD l default
  (x.status == .running || (x.status == .reserving && s.mayReserve l)) && (s.partDies x.part).contains d &&
    (decide (x.counter < x.block.nteam) ||
      s.teams.any fun t => t.launch == l && t.disp == d && (t.status == .drawn || t.status == .evicted))

/-- The least of some teams by index. -/
def State.leastTeam (s : State) (ts : List Nat) : Option Nat :=
  ts.foldl (fun best t =>
    match best with
    | none => some t
    | some b => if (s.team t).index < (s.team b).index then some t else some b) none

/-- The next team of a launch that a die's dispatcher places: an evicted one first, then the lowest (R194, R207). -/
def State.nextTeam (s : State) (d l : Nat) : Option Nat :=
  let mine (st : TeamStatus) : List Nat := (s.teamsOf l).filter fun t => (s.team t).disp == d && (s.team t).status == st
  (s.leastTeam (mine .evicted)).orElse fun _ => s.leastTeam (mine .drawn)

/-- Cores of a launch's partition on one die. -/
def State.dieCores (s : State) (l : Launch) (d : Nat) : List Nat := (s.partCores l.part).filter fun c => dieOfCore c == d

/-- A team is placed among some cores, with the context identifier given if it needs one (R204 to R206). -/
def State.placeOne (s : State) (t : Nat) (ctx : BitVec 16) (cores : List Nat) : Option State :=
  let s0 := if (s.team t).status = .evicted then s.modTeam t fun x => { x with halves := [] } else s
  (s0.bestSeats (s.launchOf t) cores).map fun x => s.putTeam t x.1 x.2 ctx

/-- Context identifiers in use: a team keeps its own until it retires (R374). -/
def State.ctxUsed (s : State) (c : BitVec 16) : Bool :=
  s.teams.any fun t => t.ctxid == c && t.status != .retired && t.status != .drawn
/-- The first context identifier that is free, from `c` upwards (R374). -/
def State.freeCtx (s : State) (c : BitVec 16) : Nat → BitVec 16
  | 0 => c
  | fuel + 1 => if c = 0 ∨ s.ctxUsed c = true then s.freeCtx (c + 1) fuel else c

/-- Several teams placed in one step, or none of them (R191). -/
def State.placeAll (ctx : BitVec 16) (cores : List Nat) : List Nat → State → Option State
  | [], s => some s
  | t :: ts, s =>
    match s.placeOne t (s.freeCtx ctx 65536) cores with
    | some x => State.placeAll ctx cores ts x
    | none => none

/-- The lower core of the lowest cluster that holds one of some teams (R191). -/
def State.lowestCluster (s : State) (ts : List Nat) : Nat :=
  ts.foldl (fun m t => ((s.team t).halves.map fun h => h.core / 2 * 2).foldl min m) 1000

/-- Teams become a cohort of their launch (R191). -/
def State.joinCohort (s : State) (l : Nat) (ts : List Nat) (cluster : Nat) : State :=
  let x := s.launches.getD l default
  let k := x.cohorts.length
  let s1 := ts.zipIdx.foldl (fun y p =>
    y.modTeam p.1 fun t => { t with cohort := some k, crank := p.2, csize := ts.length }) s
  s1.modLaunch l fun y =>
    { y with cohorts := y.cohorts ++ [{ teams := ts, bars := List.replicate x.block.cbar Barrier.start, cluster := cluster }] }

/-- A cohort of the teams given, in one of the galleries given (R191). -/
def State.formIn (s : State) (l : Nat) (ctx : BitVec 16) (ts : List Nat) (gs : List Nat) : Option State :=
  gs.findSome? fun g =>
    match State.placeAll ctx ((s.partCores (s.launches.getD l default).part).filter fun c => c / 16 == g) ts s with
    | none => none
    | some x =>
      let k := x.lowestCluster ts
      if s.cohortRoom (s.launches.getD l default) k then some (x.joinCohort l ts k) else none

/-- Sizes that the next cohort may have, `left` teams having no cohort yet (R191). -/
def cohortSizes (b : Block) (left : Nat) : List Nat :=
  [b.cohp, b.cohf].filter (fun n => decide (n ≤ left)) ++ (if left < b.cohf then [left] else [])

/-- The next cohort of a launch from the teams that a die's dispatcher holds, in team order (R191). -/
def State.formCohort (s : State) (d l : Nat) (ctx : BitVec 16) : Option State :=
  let x := s.launches.getD l default
  let done := x.cohorts.foldl (fun n c => n + c.teams.length) 0
  let held := ((List.range 16).map fun k => done + k).filterMap fun i =>
    (s.teamsOf l).find? fun t => (s.team t).index == i && (s.team t).status == .drawn && (s.team t).disp == d
  (cohortSizes x.block (x.block.nteam - done)).findSome? fun n =>
    let ts := held.take n
    if ts.length = n ∧ ts.map (fun t => (s.team t).index) = (List.range n).map (fun k => done + k) then
      s.formIn l ctx ts ((s.partGalleries x.part).filter fun g => g / 8 == d)
    else none

/-- The next team or cohort of a launch, placed by a die's dispatcher, if it fits (R191, R204, R205). -/
def State.placeNext (s : State) (d l : Nat) (ctx : BitVec 16) : Option (State × List Nat) :=
  let x := s.launches.getD l default
  match s.nextTeam d l with
  | none => none
  | some t =>
    if x.block.cohp ≠ 0 ∧ (s.team t).status = .drawn then
      (s.formCohort d l ctx).map fun y => (y, ((y.launches.getD l default).cohorts.getLast?.map (·.teams)).getD [])
    else (s.placeOne t (if (s.team t).status = .evicted then (s.team t).ctxid else s.freeCtx ctx 65536) (s.dieCores x d)).map
      fun y => (y, [t])

/-! ## Draws (R202) -/

/-- One more team drawn by a die's dispatcher. -/
def State.drawOne (s : State) (l d : Nat) : State :=
  let x := s.launches.getD l default
  { s.modLaunch l fun y => { y with counter := y.counter + 1 } with teams := s.teams ++ [Team.start x l x.counter d] }

/-- `n` more teams drawn. -/
def State.drawMany (s : State) (l d : Nat) : Nat → State
  | 0 => s
  | n + 1 => (s.drawOne l d).drawMany l d n

/-- How many more teams of a launch, up to `max`, fit what a die has free now; cohorts come whole, and what harvest teams
hold counts as free, so that a try's evictions keep nothing from the next (R191, R202, R204). `fuel` bounds the tries. -/
def State.fitCount (l d : Nat) (max : Nat) : Nat → State → Nat
  | 0, _ => 0
  | fuel + 1, s =>
    let x := s.launches.getD l default
    let left := min max (x.block.nteam - x.counter)
    if left = 0 then 0
    else if x.block.cohp = 0 then
      match (s.drawOne l d).placeNext d l 1 with
      | some (y, _) => 1 + State.fitCount l d (max - 1) fuel { y with zeroing := s.zeroing }
      | none => 0
    else
      match (cohortSizes x.block (x.block.nteam - x.counter)).findSome? fun n =>
          if n ≤ left then ((s.drawMany l d n).formCohort d l 1).map fun y => (n, y) else none with
      | some (n, y) => n + State.fitCount l d (max - n) fuel { y with zeroing := s.zeroing }
      | none => 0

/-! ## Grids placed whole (R194, R412) -/

/-- A launch of which every team is placed, or none: one with grid barriers, until it starts, and a gang's part until it
is committed. -/
def Launch.openGrid (x : Launch) : Bool := x.status == .reserving || (x.status == .running && x.block.gbar != 0 && !x.started)

/-- Every team of a launch is drawn and placed. -/
def State.allPlaced (s : State) (l : Nat) : Bool :=
  let x := s.launches.getD l default
  decide (x.counter = x.block.nteam) && (s.teamsOf l).all fun t => (s.team t).status != .drawn && (s.team t).status != .evicted

/-- One more team or cohort of a launch placed by a die's dispatcher, drawn first if none is held. -/
def State.placeMore (s : State) (l d : Nat) : Option State :=
  let x := s.launches.getD l default
  match s.nextTeam d l with
  | some _ => (s.placeNext d l 1).map (·.1)
  | none =>
    if x.counter = x.block.nteam then none
    else if x.block.cohp = 0 then ((s.drawOne l d).placeNext d l 1).map (·.1)
    else (cohortSizes x.block (x.block.nteam - x.counter)).findSome? fun n => (s.drawMany l d n).formCohort d l 1

/-- The rest of a launch's grid fits what its partition has free now. `fuel` bounds the tries. -/
def State.restFits (l : Nat) : Nat → State → Bool
  | 0, s => s.allPlaced l
  | fuel + 1, s =>
    s.allPlaced l ||
      match (s.partDies (s.launches.getD l default).part).findSome? fun d => s.placeMore l d with
      | some x => State.restFits l fuel { x with zeroing := s.zeroing }
      | none => false

/-- The rest of a launch's grid fits. -/
def State.gridFits (s : State) (l : Nat) : Bool := State.restFits l (s.launches.getD l default).block.nteam s

/-- Some team of a launch is placed. -/
def State.gridBegun (s : State) (l : Nat) : Bool := (s.teamsOf l).any fun t => (s.team t).status == .placed

/-- What is reserved for the grids that are being placed is there still: each still fits (R194, R412). -/
def State.gridsKept (s : State) : Bool :=
  (List.range s.launches.length).all fun l =>
    !(s.launches.getD l default).openGrid || !s.gridBegun l || s.gridFits l

/-- The spill records of a launch's evicted teams are all written, so that they can be read (R208). -/
def State.spillsDone (s : State) (l : Nat) : Bool :=
  !s.jobOut fun j => match j with
    | .spill t => (s.team t).launch == l
    | _ => false

/-- A die's dispatcher may place from a launch: a grid that must be placed whole begins only when all of it fits (R194,
R412), and an evicted team returns only when its records are written. -/
def State.mayPlace (s : State) (l : Nat) : Bool :=
  s.placing l && s.spillsDone l && (!(s.launches.getD l default).openGrid || s.gridBegun l || s.gridFits l)

/-- DISPATCH_DRAW of launch `sel` by the dispatcher of die `sel2`: 16 teams at most, as many as fit (R202). -/
def execDispatchDraw (s : State) : Host.Outcome State Fault Refusal :=
  .next (
    let l := s.sel
    let d := s.sel2
    let x := s.launches.getD l default
    let holds := s.teams.any fun t => t.launch == l && t.disp == d && (t.status == .drawn || t.status == .evicted)
    if s.placing l && (s.partDies x.part).contains d && !holds && decide (x.counter < x.block.nteam) then
      let n := State.fitCount l d 16 16 s
      (s.drawMany l d n).noteReserve l
    else s)

/-! ## TEAM_PLACEMENT (R203 to R206, R372) -/

/-- A launch joins a list ranked by class, priority and take (R203). -/
def State.insertLaunch (s : State) (l : Nat) : List Nat → List Nat
  | [] => [l]
  | k :: ks => if s.governsAbove l k then l :: k :: ks else k :: s.insertLaunch l ks

/-- Launches that a die's dispatcher may place from, in rank order: of the guaranteed ones the first that has an unplaced
team, and every harvest one (R203). -/
def State.placeOrder (s : State) (d : Nat) : List Nat :=
  let all := (List.range s.launches.length).filter fun l => s.unplaced d l
  let ranked := all.foldr s.insertLaunch []
  (ranked.filter fun l => !(s.launches.getD l default).harvest).take 1 ++
    ranked.filter fun l => (s.launches.getD l default).harvest

/-- A pre-empted team returns to its own cores: its seats there, and the harvest teams that leave for it (R372, R374). -/
def State.returnSeats (s : State) (t : Nat) : Option (List Seat × List Nat) :=
  let m := s.team t
  let wants (h : Half) : Option (List Nat × List Nat) :=
    if (s.core h.core).ownerTeam = some t ∧ (s.core h.core).held = true then some (h.accTiles, h.vitTiles) else none
  match s.seatsOn (s.launchOf t) true (m.halves.map fun h => (h.core, wants h)) [] with
  | some x =>
    if m.halves.any fun h => (wants h).isSome && (s.occupants h.core x.2).any fun y => y.2.2.shares then none else some x
  | none => none

/-- A runnable pre-empted team of a die comes first: it fits, and the launch is of equal or lower rank (R372). -/
def State.returnFirst (s : State) (d l : Nat) : Bool :=
  (List.range s.teams.length).any fun t =>
    let m := s.team t
    m.status == .runnable && m.die == d && !s.governsAbove l m.launch && (s.returnSeats t).isSome

/-- The quotas of a tenant set to its tables' sizes, monitor and counter-wait entries apart (R165, R166). -/
def State.lift (s : State) (tenant : Nat) : State :=
  { s with quotas := s.quotas.modify tenant fun q => { q with bar := 64, cbar := 16, gbar := 8, ring := 8 } }

/-- The next team of a launch finds a place on a die. -/
def State.placeable (s : State) (d l : Nat) (ctx : BitVec 16) : Bool := s.mayPlace l && (s.placeNext d l ctx).isSome

/-- Each launch whose next team only its tenant's quotas keep from its place counts one throttled request (R167, R168;
log 84). -/
def State.countThrottled (s : State) (d : Nat) (ctx : BitVec 16) : State :=
  ((s.placeOrder d).filter fun l => !s.placeable d l ctx && (s.lift (s.launches.getD l default).tenant).placeable d l ctx).foldl
    (fun x l => x.count (0x400 + 8 * (s.launches.getD l default).tenant)) s

/-- TEAM_PLACEMENT on a die, with the context identifier that the team gets if it needs one (R203 to R206, R374). -/
def execTeamPlacement (die : BitVec 1) (ctx : BitVec 16) (s : State) : Host.Outcome State Fault Refusal :=
  .next (
    let d := die.toNat
    if ctx = 0 ∨ s.ctxUsed ctx = true ∨ s.homesOpen = false then s
    else
      match (s.placeOrder d).findSome? fun l =>
          if s.mayPlace l && !s.returnFirst d l then (s.placeNext d l ctx).filter fun x => x.1.gridsKept else none with
      | some (x, ts) => ts.foldl (fun y t => y.tryStart t) x
      | none => s.countThrottled d ctx)

/-! ## Zeroing and hand-over (R44, R205, R209) -/

/-- What the zeroing of position `p` of a store passes to the half that has claimed it (R209). -/
def Half.pass (h : Half) (st : Store) (p : Nat) (vitLeft : Bool) : Half :=
  let drop (base : Nat) (xs : List Nat) : List Nat := h.awaiting.filter fun k => !(xs.zipIdx.any fun y => y.1 == p && base + y.2 == k)
  match st with
  | .regs => { h with awaiting := drop 0 h.regGran }
  | .scratch => { h with awaiting := drop 1024 h.scrGran }
  | .acc =>
    { h with awaiting := (drop 2048 h.accTiles).filter fun k => k != 4096 || vitLeft || !h.vitTiles.contains p }

/-- Stores in the order of R209. -/
def Store.rank : Store → Nat
  | .regs => 0
  | .acc => 1
  | .scratch => 2

/-- Accepted work of a pre-empted team that must complete before its storage is zeroed: fills before its scratch, matrix and
spline instructions before its accumulator storage (R371). -/
def State.zeroMay (s : State) (z : Zeroing) : Bool :=
  match z.team with
  | none => true
  | some t =>
    match z.store with
    | .regs => true
    | .acc => !s.engine.any fun e => e.team == t
    | .scratch => !(s.cmds.any fun c => c.own.team == t && c.stage != .complete) && !s.engine.any fun e => e.team == t

/-- GRANULE_ZEROED of zeroing `sel`, the one of its core and store with the lowest position: its lowest granule is zeroed, and passes to the team that has claimed it or counts
as free capacity (R44, R205, R209). -/
def execGranuleZeroed (s : State) : Host.Outcome State Fault Refusal :=
  .next (
    match s.zeroing[s.sel]? with
    | none => s
    | some z =>
      let before (y : Zeroing) : Bool := y.core == z.core && (decide (y.store.rank < z.store.rank) ||
        (y.store == z.store && s.zeroMay y && decide (y.pos.headD 0 < z.pos.headD 0)))
      if s.zeroing.any before || !s.zeroMay z then s
      else
        match z.pos with
        | [] => { s with zeroing := s.zeroing.eraseIdx s.sel }
        | p :: ps =>
          let s1 :=
            if ps.isEmpty then { s with zeroing := s.zeroing.eraseIdx s.sel }
            else { s with zeroing := s.zeroing.modify s.sel fun y => { y with pos := ps } }
          let s2 :=
            { s1 with teams := s1.teams.map fun (t : Team) =>
                if t.onCore then
                  { t with halves := t.halves.map fun (h : Half) =>
                    if h.core = z.core then h.pass z.store p (h.vitTiles.any fun k => (s1.zeroPos z.core .acc).contains k) else h }
                else t }
          s2.gain z.core)

/-! ## Retirement (R69, R177, R374) -/

/-- Every slot is EMPTY, or has no producer and no read in flight (R69). -/
def Half.slotsDone (h : Half) : Bool := h.slots.all fun x => x.state == .empty || (x.prods == 0 && x.reads == 0)

/-- A team may retire: its threads have exited, its commands, engine work, region drains and slots are done (R69, R177). -/
def State.teamDone (s : State) (t : Nat) : Bool :=
  let m := s.team t
  (m.onCore || m.status == .preempted || m.status == .runnable) && m.threads.all (·.exited) &&
    !(s.cmds.any fun c => c.own.team == t && c.stage != .complete) && !(s.engine.any fun e => e.team == t) &&
    (m.groups.all fun g => g.draining.isEmpty) && m.halves.all Half.slotsDone &&
    !s.flights.any fun f => f.own.team == t && f.op.isWrite && !f.performed

/-- TEAM_RETIRE of team `sel`: its storage is freed and its table entries are released; a pre-empted one has only its
held storage left (R44, R161, R177, R374). -/
def execTeamRetire (s : State) : Host.Outcome State Fault Refusal :=
  .next (
    let t := s.sel
    let m := s.team t
    if !decide (t < s.teams.length) || !s.teamDone t then s
    else
      let held (h : Half) : Bool := (s.core h.core).ownerTeam == some t && (s.core h.core).held
      let hs := if m.onCore then m.halves
        else m.halves.map fun h =>
          let busy := (s.occupants h.core []).flatMap fun y => y.2.2.accTiles ++ y.2.2.vitTiles
          let mine (xs : List Nat) : List Nat := if held h then xs.filter fun k => !busy.contains k else []
          { h with regGran := [], scrGran := [], accTiles := mine h.accTiles, vitTiles := mine h.vitTiles }
      let s1 := hs.foldl (fun x h => x.dropOwner h.core t) s
      let s2 := s1.modTeam t fun x => { x with status := .retired, up := [], down := [] }
      let s3 := (s2.freeHalves hs none).releaseTables t
      s3.modLaunch m.launch fun x => { x with retired := x.retired + 1 })

end Sys2Proof.Machine
end

