-- ==== Sys2Proof/Machine/Front.lean ====
section
/-! DEFINITION. The front end: packets, their checks and status records, LAUNCH, WAIT, SIGNAL and NOP, and the end of a
launch (R158, R195 to R201, R403 to R407). -/

namespace Sys2Proof.Machine

open Sys2Proof

/-! ## Packets (R403, R409, R410) -/

/-- Packet types (R403). -/
def tLaunch : Nat := 1
/-- GANG. -/
def tGang : Nat := 2
/-- WAIT. -/
def tWait : Nat := 3
/-- SIGNAL. -/
def tSignal : Nat := 4
/-- NOP. -/
def tNop : Nat := 5
/-- ADMIN. -/
def tAdmin : Nat := 0x10

/-- TYPE of a packet. -/
def pktType (p : List Byte) : Nat := recNum p 0 1
/-- BARRIER of a packet. -/
def pktBarrier (p : List Byte) : Bool := recNum p 1 1 % 2 == 1
/-- STATUS of a packet. -/
def pktStatus (p : List Byte) : BitVec 64 := BitVec.ofNat 64 (recNum p 8 8)
/-- The 64-bit field of a packet at an offset. -/
def pktWord (p : List Byte) (off : Nat) : BitVec 64 := BitVec.ofNat 64 (recNum p off 8)
/-- Operation of an ADMIN packet (R409). -/
def pktOp (p : List Byte) : Nat := recNum p 16 4

/-- The ranges of bytes from 16 on that an ADMIN operation uses (R410); every byte for a code that is no operation. -/
def adminUses (op : Nat) : List (Nat × Nat) :=
  (16, 20) :: (match op with
    | 1 => [(20, 25), (32, 48)]
    | 2 => [(20, 22)]
    | 3 => [(20, 23)]
    | 4 => [(20, 22)]
    | 5 => [(24, 48)]
    | 6 => [(20, 21)]
    | 7 => [(20, 22), (24, 28)]
    | 8 => [(20, 22), (24, 28)]
    | 9 => [(20, 22), (24, 28)]
    | 10 => [(20, 22), (24, 28)]
    | 11 => [(24, 36)]
    | 12 => []
    | _ => [(20, 64)])

/-- The ranges of bytes from 16 on that a packet's type uses (R403); none for a reserved type. -/
def pktUses (p : List Byte) : Option (List (Nat × Nat)) :=
  match pktType p with
  | 1 => some [(16, 24)]
  | 2 => some [(16, 48)]
  | 3 => some [(16, 32)]
  | 4 => some [(16, 32)]
  | 5 => some []
  | 0x10 => some (adminUses (pktOp p))
  | _ => none

/-- A packet with a reserved TYPE, a reserved FLAGS bit, a non-zero unused byte or a misaligned STATUS (a WAIT's STATUS is
checked only when it is taken), or a GANG packet whose table, count or timeout is out of range (R403, R404, R406, R412;
log 31). -/
def pktBad (p : List Byte) : Bool :=
  match pktUses p with
  | none => true
  | some us =>
    decide (1 < recNum p 1 1) || !recZero p 2 8 || (pktType p != tWait && (pktStatus p).toNat % 8 != 0) ||
      ((List.range 48).any fun k => !(us.any fun u => decide (u.1 ≤ 16 + k) && decide (16 + k < u.2)) && p.getD (16 + k) 0 != 0) ||
      (pktType p == tGang && (recNum p 16 8 % 64 != 0 || decide (recNum p 24 4 < 2) || decide (16 < recNum p 24 4) ||
        recNum p 28 4 == 0 || decide (65535 < recNum p 28 4)))

/-- A queue's address space (R17, R402). -/
def Queue.space (q : Queue) : Space16 := { asid := q.asid, root := q.root }

/-- The packet at a queue's head, or none when it reads as uncorrectable (R401). -/
def State.headPacket (s : State) (n : Nat) : Option (List Byte) :=
  let q := s.queue n
  let pa := q.qbase.toNat + 64 * (q.head.toNat % 2 ^ q.logsz.toNat)
  let bs := s.imageRead (imageAddr false pa) 64
  if bs.any (·.2) then none else some (bs.map (·.1))

/-- The front end of a die is ready, and the curator has booted (R416, R441). -/
def State.feReady (s : State) (die : Nat) : Bool := s.ready.getLsbD 0 && s.ready.getLsbD (1 + die)

/-- Launches that a queue has taken and that have not retired. -/
def State.queueBusy (s : State) (n : Nat) : Bool := s.launches.any fun l => l.queue == n && l.status != .retired

/-- The head that a queue has ready to be taken: it is served, holds a packet, is not held by a WAIT, and BARRIER is
satisfied (R403, R404). `none` inside for a packet that cannot be read. -/
def State.readyHead (s : State) (n : Nat) : Option (Option (List Byte)) :=
  let q := s.queue n
  if !decide (n < s.queues.length) || !q.en || q.stopped || q.destroying || q.held || q.head == q.tail ||
      !s.feReady q.homedie.toNat then none
  else match s.headPacket n with
    | none => some none
    | some p => if pktBarrier p && s.queueBusy n then none else some (some p)

/-- A queue stops with a code; the head stays (R406). -/
def State.stopQueue (s : State) (n : Nat) (code : BitVec 8) : State :=
  (s.modQueue n fun q => { q with stopped := true, errcode := code }).raise (s.queue n).homedie.toNat 0

/-- A packet's STATUS can be written (R406). -/
def State.statusOk (s : State) (n : Nat) (ptr : BitVec 64) : State × Bool :=
  let q := s.queue n
  if ptr = 0 then (s, true)
  else if ptr.toNat % 8 ≠ 0 then (s, false)
  else match s.agentCheck q.homedie.toNat q.space { wr := true } 2 ptr 8 with
    | (s1, none) => (s1, true)
    | (s1, some _) => (s1, false)

/-- A status record (R405). -/
def statusRecord (code : BitVec 8) (queue teams : Nat) (seq : BitVec 32) : List Byte :=
  leBytes 8 (code.toNat + 2 ^ 8 * (queue % 256) + 2 ^ 16 * min 0xFFFF teams + 2 ^ 32 * seq.toNat)

/-- The front end writes a status record; one that faults is dropped, and recorded (R405, R406). -/
def State.writeStatus (s : State) (die : Nat) (sp : Space16) (harvest : Bool) (ptr : BitVec 64) (bs : List Byte) : State :=
  if ptr = 0 then s
  else match s.agentStore die sp harvest ptr bs with
    | (s1, none) => s1
    | (s1, some _) => s1.errorRecord die 0x19 1 0 ptr.toNat 0

/-- QHEAD passes a packet (R404). -/
def State.passHead (s : State) (n : Nat) : State := s.modQueue n fun q => { q with head := q.head + 1 }

/-- A packet completes at take: its status record, then QHEAD passes it (R404). `extra` goes to bits [31:16]. -/
def State.finishHead (s : State) (n : Nat) (p : List Byte) (code : BitVec 8) (extra : Nat) : State :=
  let q := s.queue n
  (s.writeStatus q.homedie.toNat q.space q.harvest (pktStatus p) (statusRecord code n extra q.head)).passHead n

/-- The head of queue `n` is taken by a step for packets that satisfy `mine`, once nothing waits at the homes: a packet that
stops its queue does so in any of these steps, a good one goes to `act`. A WAIT's STATUS is checked only when its condition
holds, for it is taken then (R404, R406; log 85). -/
def State.take (s : State) (n : Nat) (mine : List Byte → Bool) (act : State → List Byte → State) : State :=
  if !s.homesOpen then s
  else match s.readyHead n with
  | none => s
  | some none => s.stopQueue n 0x10
  | some (some p) =>
    if pktBad p then s.stopQueue n 0x10
    else if !mine p then s
    else if pktType p == tWait then act s p
    else match s.statusOk n (pktStatus p) with
      | (s1, false) => s1.stopQueue n 0x10
      | (s1, true) => if pktType p == tAdmin && !(s.queue n).admin then s1.stopQueue n 0x11 else act s1 p

/-! ## The order of taking (R196) -/

/-- A queue of a die has a LAUNCH or GANG packet ready. -/
def State.launchReady (s : State) (die n : Nat) : Bool :=
  (s.queue n).homedie.toNat == die &&
    match s.readyHead n with
    | some (some p) => pktType p == tLaunch || pktType p == tGang
    | _ => false

/-- Place of a queue's class and priority among a die's round-robin positions (R196). -/
def Queue.level (q : Queue) : Nat := q.prio.toNat + (if q.harvest then 16 else 0)

/-- The queue that a die's front end takes a launch from next (R196). -/
def State.nextQueue (s : State) (die : Nat) : Option Nat :=
  let good := (List.range 256).filter (s.launchReady die)
  let levels := (List.range 16).reverse ++ ((List.range 16).reverse.map fun k => 16 + k)
  levels.findSome? fun lv =>
    let from_ := ((s.die die).rr.getD lv 255).toNat + 1
    ((List.range 256).map fun k => (from_ + k) % 256).find? fun n => good.contains n && (s.queue n).level == lv

/-- A die's front end has served a queue (R196). -/
def State.noteServed (s : State) (n : Nat) : State :=
  let q := s.queue n
  s.modDie q.homedie.toNat fun d => { d with rr := d.rr.set q.level (BitVec.ofNat 8 n) }

/-! ## LAUNCH (R196 to R201) -/

/-- A launch as the front end takes it (R197, R202). -/
def Launch.taken (q : Queue) (n : Nat) (p : List Byte) (c : BlockCheck) (part home order : Nat) (gang : Option Nat) : Launch :=
  { queue := n, seq := q.head, block := c.block, harvest := q.harvest,
    prio := min (c.block.kflags.extractLsb' 1 4).toNat q.prio.toNat, home := home, part := part, tenant := q.tenant.toNat,
    asid := q.asid, root := q.root, tvec := q.tvec, saveptr := q.saveptr, savestride := q.savestride.toNat,
    statusPtr := if gang.isSome then 0 else pktStatus p, status := if gang.isSome then .reserving else .running, code := 0,
    counter := 0, placed := 0, retired := 0, clkwant := c.block.clkwant, crit := c.block.crit.setWidth 4,
    gbars := List.replicate c.block.gbar Barrier.start, cohorts := [], order := order, gang := gang, nclass := c.nclass,
    started := false, laneLine := c.laneLine, ctlLine := c.ctlLine }

/-- A counter add of the front end; one that faults or is lost is recorded (R82, R201, R406). -/
def State.frontAdd (s : State) (die : Nat) (sp : Space16) (harvest : Bool) (ptr inc : BitVec 64) (mark : Bool) : State :=
  match s.agentAdd die sp harvest ptr inc mark with
  | (s1, none) => s1
  | (s1, some _) => s1.errorRecord die 0x19 1 0 ptr.toNat 0

/-- The counter add of a launch or gang, with the fault mark when it ended in error; address 0 asks for none (R158, R201). -/
def State.finalAdd (s : State) (die : Nat) (sp : Space16) (harvest : Bool) (ptr inc : BitVec 64) (mark : Bool) : State :=
  if ptr = 0 then s else s.frontAdd die sp harvest ptr inc mark

/-- A launch rejected at take: status, then its counter add where its counter fields are good and its block was read (R201,
R404). -/
def State.rejectLaunch (s : State) (n : Nat) (p : List Byte) (c : BlockCheck) : State :=
  let q := s.queue n
  let die := q.homedie.toNat
  let s1 := (s.finishHead n p (BitVec.ofNat 8 c.code) 0).evaluate
  if c.code = 13 ∨ c.code = 0x28 ∧ c.block.version = 0 then s1
  else match s1.counterOk die q.space c.block.ctrptr c.block.ctrinc with
    | (s2, true) => s2.finalAdd die q.space q.harvest c.block.ctrptr (BitVec.ofNat 64 c.block.ctrinc) true
    | (s2, false) => s2

/-- A LAUNCH packet is taken: its block read and checked, the launch handed to the dispatchers, and the belfry evaluates
(R197, R199, R218). -/
def State.takeLaunch (s : State) (n : Nat) (p : List Byte) : State :=
  let q := s.queue n
  match s.takeBlock q q.space q.part.toNat (pktWord p 16) with
  | (s1, c) =>
    let s2 := s1.noteServed n
    if c.code ≠ 0 then s2.rejectLaunch n p c
    else
      ({ s2.passHead n with
        launches := s2.launches ++ [Launch.taken q n p c q.part.toNat q.homedie.toNat s2.stamp none]
        stamp := s2.stamp + 1 }).evaluate

/-- LAUNCH of queue `sel`: taken when it is that queue's turn (R196, R404). -/
def execLaunch (s : State) : Host.Outcome State Fault Refusal :=
  .next (s.take s.sel (fun p => pktType p == tLaunch && s.nextQueue (s.queue s.sel).homedie.toNat == some s.sel) fun x p =>
    x.takeLaunch s.sel p)

/-! ## WAIT, SIGNAL, NOP (R404) -/

/-- What a WAIT's counter says: it faults, it is reached, or not yet. -/
inductive Reached where
  | fault | yes | no
  deriving DecidableEq, Repr, Inhabited

/-- The counter of a WAIT, read at its home (R404). A counter that reads as uncorrectable is not reached (log 32). -/
def State.waitReached (s : State) (n : Nat) (p : List Byte) : State × Reached :=
  let q := s.queue n
  match s.agentAt q.homedie.toNat q.space (pktWord p 16) { rd := true } 1 with
  | (s1, .error _) => (s1, .fault)
  | (s1, .ok (l, pa)) =>
    match s1.counter64 (imageAddr l.plinth pa) with
    | some v => (s1, if (pktWord p 24).ule v then .yes else .no)
    | none => (s1, .no)

/-- A WAIT is judged: it stops its queue, is taken, its STATUS checked then, or holds the queue (R404, R406). -/
def State.judgeWait (s : State) (n : Nat) (p : List Byte) : State :=
  if (pktWord p 16).toNat % 8 ≠ 0 then s.stopQueue n 0x10
  else match s.waitReached n p with
    | (s1, .fault) => (s1.modQueue n fun q => { q with held := false }).stopQueue n 0x29
    | (s1, .yes) =>
      match (s1.modQueue n fun q => { q with held := false }).statusOk n (pktStatus p) with
      | (s2, true) => s2.finishHead n p 0 0
      | (s2, false) => s2.stopQueue n 0x10
    | (s1, .no) => s1.modQueue n fun q => { q with held := true }

/-- WAIT of queue `sel` (R404). -/
def execWait (s : State) : Host.Outcome State Fault Refusal :=
  .next (s.take s.sel (fun p => pktType p == tWait) fun x p => x.judgeWait s.sel p)

/-- The WAIT that holds a queue, judged again if its counter satisfies `where_` (R404). -/
def State.retryWait (s : State) (n : Nat) (where_ : Nat → Bool) : State :=
  let q := s.queue n
  if !q.held || !q.en || q.stopped || !s.homesOpen then s
  else match s.headPacket n with
    | none => (s.modQueue n fun x => { x with held := false }).stopQueue n 0x10
    | some p =>
      match s.agentAt q.homedie.toNat q.space (pktWord p 16) { rd := true } 1 with
      | (s1, .error _) => (s1.modQueue n fun x => { x with held := false }).stopQueue n 0x29
      | (s1, .ok (_, pa)) => if where_ pa then s1.judgeWait n p else s

/-- WAIT_RELEASE of queue `sel`: its counter in HBM4E or a peer has reached the target (R404). -/
def execWaitRelease (s : State) : Host.Outcome State Fault Refusal := .next (s.retryWait s.sel fun pa => spaceOf pa != .host)
/-- WAIT_POLL of queue `sel`: its counter on host memory is read again (R404). -/
def execWaitPoll (s : State) : Host.Outcome State Fault Refusal := .next (s.retryWait s.sel fun pa => spaceOf pa == .host)

/-- SIGNAL of queue `sel`: its status record, then one add at the counter's home (R404). -/
def execSignal (s : State) : Host.Outcome State Fault Refusal :=
  .next (s.take s.sel (fun p => pktType p == tSignal) fun x p =>
    let n := s.sel
    let q := x.queue n
    let ptr := pktWord p 16
    if ptr.toNat % 8 ≠ 0 then x.stopQueue n 0x10
    else match x.agentCheck q.homedie.toNat q.space { rd := true, wr := true } 3 ptr 8 with
      | (x1, some _) => x1.stopQueue n 0x29
      | (x1, none) =>
        (x1.finishHead n p 0 0).frontAdd q.homedie.toNat q.space q.harvest ptr (pktWord p 24) false)

/-- NOP_PACKET of queue `sel` (R404). -/
def execNopPacket (s : State) : Host.Outcome State Fault Refusal :=
  .next (s.take s.sel (fun p => pktType p == tNop) fun x p => x.finishHead s.sel p 0 0)

/-! ## The end of a launch (R201, R405, R412) -/

/-- Every team of a launch has retired, and no more will be drawn (R201). -/
def State.launchDone (s : State) (n : Nat) : Bool :=
  let l := s.launches.getD n default
  let gone := (s.teamsOf n).all fun t => (s.team t).status == .retired
  match l.status with
  | .ending => gone
  | .running => gone && l.counter == l.block.nteam
  | _ => false

/-- The status of a gang whose parts have retired: the gang's own, else the first part's error that is no GANG_ABORT, else
the first error, else OK (R405, R412; log 33). -/
def State.gangCode (s : State) (g : Gang) : BitVec 8 :=
  let codes := g.parts.map fun l => (s.launches.getD l default).code
  if g.code ≠ 0 then g.code
  else ((codes.find? fun c => c != 0 && c != 0x26).orElse fun _ => codes.find? fun c => c != 0).getD 0

/-- A gang completes when its last part has retired: its status record, then its counter add (R404, R412). -/
def State.finishGang (s : State) (g : Nat) : State :=
  let y := s.gangs.getD g default
  if y.done || !y.parts.all (fun l => (s.launches.getD l default).status == .retired) then s
  else
    let q := s.queue y.queue
    let l := s.launches.getD (y.parts.headD 0) default
    let code := s.gangCode y
    let teams := y.parts.foldl (fun n k => n + (s.launches.getD k default).placed) 0
    let s1 := { s with gangs := s.gangs.modify g fun x => { x with done := true, code := code } }
    (s1.writeStatus q.homedie.toNat l.space l.harvest y.statusPtr (statusRecord code y.queue teams y.seq)).finalAdd
      q.homedie.toNat l.space l.harvest y.ctrptr y.ctrinc (code != 0)

/-- LAUNCH_RETIRE of launch `sel`: its status record, then its counter add; the belfry evaluates (R201, R218, R405). -/
def execLaunchRetire (s : State) : Host.Outcome State Fault Refusal :=
  .next (
    let n := s.sel
    if !decide (n < s.launches.length) || !s.launchDone n || !s.homesOpen then s
    else
      let l := s.launches.getD n default
      let s1 := s.modLaunch n fun x => { x with status := .retired }
      let s2 := (s1.writeStatus l.home l.space l.harvest l.statusPtr (statusRecord l.code l.queue l.placed l.seq)).finalAdd
        l.home l.space l.harvest l.block.ctrptr (BitVec.ofNat 64 l.block.ctrinc) (l.code != 0)
      match l.gang with
      | some g => (s2.finishGang g).evaluate
      | none => s2.evaluate)

end Sys2Proof.Machine
end

