-- ==== Sys2Proof/Machine/Admin.lean ====
section
/-! DEFINITION. The ADMIN operations (R368, R380, R381, R402, R408 to R411, R417, R418). -/

namespace Sys2Proof.Machine

open Sys2Proof

/-- What an operation does: the state, its status code, and what its status record carries in bits [31:16]. -/
structure AdminResult where
  state : State
  code : BitVec 8
  extra : Nat := 0
  deriving DecidableEq, Repr, Inhabited

/-- BAD_OP: nothing changes (R409). -/
def State.badOp (s : State) : AdminResult := { state := s, code := 0x13 }
/-- OK. -/
def State.okOp (s : State) : AdminResult := { state := s, code := 0 }
/-- BUSY. -/
def State.busyOp (s : State) : AdminResult := { state := s, code := 0x12 }
/-- REJECTED, with a reason. -/
def State.rejectOp (s : State) (reason : Nat) : AdminResult := { state := s, code := 0x14, extra := reason }

/-- The queue that an operation names, if it is one (R410). -/
def pktQueue (p : List Byte) : Option Nat := let q := recNum p 20 2; if q < 256 then some q else none

/-! ## Queues (R402, R409, R410) -/

/-- A physical address in HBM4E (R20). -/
def inHbm (pa : Nat) : Bool := spaceOf pa == .hbm
/-- A physical address in HBM4E or host memory (R20). -/
def inHbmOrHost (pa : Nat) : Bool := spaceOf pa == .hbm || spaceOf pa == .host

/-- A context record that QCREATE accepts (R402). -/
def contextOk (bs : List Byte) : Bool :=
  recZero bs 2 8 && recZero bs 0x24 0x100 && recNum bs 8 8 % 32768 == 0 && inHbm (recNum bs 8 8) &&
    recNum bs 0x18 8 % 65536 == 0 && recNum bs 0x20 4 % 4096 == 0

/-- QCREATE (R402, R409, R410). -/
def State.opQcreate (s : State) (p : List Byte) : AdminResult :=
  let a : BitVec 16 := BitVec.ofNat 16 (recNum p 22 2)
  let logsz := recNum p 24 1
  let base := recNum p 32 8
  let ctx := recNum p 40 8
  match pktQueue p with
  | none => s.badOp
  | some n =>
    if a.getLsbD 15 || decide (s.npart ≤ (a.extractLsb' 6 4).toNat) || decide (logsz < 4) || decide (15 < logsz) ||
        base % 4096 != 0 || !inHbmOrHost base || ctx % 256 != 0 || !inHbm ctx then s.badOp
    else if (s.queue n).en then s.busyOp
    else
      let bs := s.imageRead (imageAddr false ctx) 256
      let c := bs.map (·.1)
      if bs.any (·.2) || !contextOk c then s.badOp
      else (s.modQueue n fun _ =>
        { qbase := BitVec.ofNat 48 base, en := true, harvest := a.getLsbD 0, prio := a.extractLsb' 1 4,
          homedie := a.extractLsb' 5 1, part := a.extractLsb' 6 4, tenant := a.extractLsb' 10 4, admin := a.getLsbD 14,
          logsz := BitVec.ofNat 4 logsz, head := 0, tail := 0, qctx := BitVec.ofNat 48 ctx, stopped := false, errcode := 0,
          asid := BitVec.ofNat 16 (recNum c 0 2), root := BitVec.ofNat 64 (recNum c 8 8),
          tvec := BitVec.ofNat 64 (recNum c 0x10 8), saveptr := BitVec.ofNat 64 (recNum c 0x18 8),
          savestride := BitVec.ofNat 32 (recNum c 0x20 4), held := false, destroying := false }).okOp

/-- QDESTROY: the queue takes no more, and EN clears once its launches have retired (R409). -/
def State.opQdestroy (s : State) (p : List Byte) : AdminResult :=
  match pktQueue p with
  | none => s.badOp
  | some n => (if (s.queue n).en then s.modQueue n fun q => { q with destroying := true } else s).okOp

/-- QPRIO (R197, R409). -/
def State.opQprio (s : State) (p : List Byte) : AdminResult :=
  let prio := recNum p 22 1
  match pktQueue p with
  | none => s.badOp
  | some n => if 15 < prio then s.badOp else (s.modQueue n fun q => { q with prio := BitVec.ofNat 4 prio }).okOp

/-- QRESET: the bad packet is consumed with status BAD_PACKET, written where it can be, and the queue goes on (R406,
R409). -/
def State.opQreset (s : State) (p : List Byte) : AdminResult :=
  match pktQueue p with
  | none => s.badOp
  | some n =>
    if !(s.queue n).stopped then s.okOp
    else
      let s1 := s.modQueue n fun q => { q with stopped := false, held := false }
      match s1.headPacket n with
      | none => (s1.passHead n).okOp
      | some x =>
        match s1.statusOk n (pktStatus x) with
        | (s2, true) => (s2.finishHead n x 0x10 0).okOp
        | (s2, false) => (s2.passHead n).okOp

/-! ## Registers and partitions (R88, R409 to R411) -/

/-- REGWRITE (R409, R410). -/
def State.opRegwrite (s : State) (p : List Byte) : AdminResult :=
  let addr := recNum p 24 8
  let mask := pktWord p 40
  if addr % 8 ≠ 0 then s.badOp
  else if spaceOf addr ≠ .device then s.rejectOp 0
  else
    let o := deviceOff addr
    if narrowReg o && mask.extractLsb' 32 32 != 0 then s.badOp
    else match s.curatorWrite o (pktWord p 32) mask with
      | some x => x.okOp
      | none => s.rejectOp 0

/-- PARTITION (R409, R411). -/
def State.opPartition (s : State) (p : List Byte) : AdminResult :=
  let n := recNum p 20 1
  if !([1, 2, 4, 8, 16] : List Nat).contains n then s.badOp
  else if s.launches.any fun l => l.status != .retired then s.busyOp
  else { s with npart := n }.okOp

/-! ## Launches (R368, R380, R381, R402, R409) -/

/-- The running launches that an operation names: one, or the parts of a gang (R409). -/
def State.namedLaunches (s : State) (p : List Byte) : List Nat :=
  match pktQueue p with
  | none => []
  | some q =>
    (List.range s.launches.length).filter fun l =>
      let x := s.launches.getD l default
      x.queue == q && x.seq == BitVec.ofNat 32 (recNum p 24 4) && x.status != .retired

/-- Bytes that the save area of a team of a launch needs, the worst case (R371, R402). -/
def Block.saveNeed (b : Block) : Nat :=
  let cores := if b.twoCore then 2 else 1
  65536 + cores * (4096 * (b.regClaim + b.scrg) + 4224 * b.tiles + (if b.vitrine then 74624 else 0))

/-- A launch's teams may be pre-empted: its save areas are large enough (R402). -/
def Launch.saves (l : Launch) : Bool := decide (l.block.saveNeed ≤ l.savestride)

/-- A request stands for a team (R370). -/
def State.requestPreempt (s : State) (t : Nat) : State := s.modTeam t fun x => { x with preemptReq := true }

/-- PREEMPT (R368, R402, R409). -/
def State.opPreempt (s : State) (p : List Byte) : AdminResult :=
  let ls := s.namedLaunches p
  if ls.isEmpty || ls.any (fun l => (s.launches.getD l default).harvest) then s.badOp
  else
    let ts := (List.range s.teams.length).filter fun t => ls.contains (s.team t).launch && (s.team t).onCore
    if ts.any fun t => !(s.launchOf t).saves then s.busyOp else (ts.foldl State.requestPreempt s).okOp

/-- A halted team goes on, its fragments as a debugger has left its threads (R381, R383). -/
def State.resumeTeam (s : State) (t : Nat) : State :=
  let s1 := s.modTeam t fun x => { x with preemptReq := false, dbgctl := x.dbgctl &&& ~~~2#32 }
  if (s.team t).isHalted then s1.settleAll ((s.laneRefs t).filter fun r => !(s.thr r).exited) else s1

/-- ADMIN_RESUME's operation (R381, R409). -/
def State.opResume (s : State) (p : List Byte) : AdminResult :=
  let ls := s.namedLaunches p
  if ls.isEmpty then s.badOp else ((ls.flatMap s.teamsOf).foldl State.resumeTeam s).okOp

/-- ADMIN_HALT's operation (R380, R409). -/
def State.opHalt (s : State) (p : List Byte) : AdminResult :=
  let ls := s.namedLaunches p
  let ts := (ls.flatMap s.teamsOf).filter fun t => (s.team t).status != .drawn && (s.team t).status != .retired
  if ls.isEmpty then s.badOp else (ts.foldl State.haltTeam s).okOp

/-- ADMIN_END's operation (R405, R409). -/
def State.opEnd (s : State) (p : List Byte) : AdminResult :=
  let ls := s.namedLaunches p
  if ls.isEmpty then s.badOp else (ls.foldl (fun x l => x.endOne l 0x24) s).okOp

/-! ## Firmware (R417, R418) -/

/-- FWLOAD: an accepted image goes into the slot not in use, is measured, and the curator restarts from it (R417, R419). -/
def State.opFwload (s : State) (p : List Byte) : AdminResult :=
  let addr := recNum p 24 8
  let len := recNum p 32 4
  let bs := if addr % 4 = 0 ∧ 352 ≤ len ∧ len ≤ 262496 ∧ inHbmOrHost addr = true ∧ inHbmOrHost (addr + len - 1) = true then
      s.imageRead (imageAddr false addr) len else []
  let img := bs.map (·.1)
  if bs.isEmpty || len != 352 + imgBodyLen img then s.badOp
  else if bs.any (·.2) then s.rejectOp 1
  else
    let c := s.curator
    let reason := c.check img
    if reason ≠ 0 then s.rejectOp reason
    else
      let slot := if c.running = some 0 then 1 else 0
      let c1 := if slot = 0 then { c with slotA := img } else { c with slotB := img }
      ({ s with curator := c1.measure img slot }.restartCurator slot).okOp

/-- SVNCOMMIT (R418). -/
def State.opSvncommit (s : State) : AdminResult :=
  let c := s.curator
  match c.running with
  | none => s.rejectOp 0
  | some n =>
    let svn := imgSvn (c.slot n)
    let other := c.slot (1 - n)
    if decide (352 ≤ other.length) && decide (imgSvn other < svn) then s.rejectOp 0
    else { s with curator := { c with fuses := max c.fuses svn } }.okOp

/-! ## The steps (R404, R408, R409) -/

/-- The effect of an ADMIN packet by its operation code (R409). -/
def State.adminOp (s : State) (p : List Byte) : AdminResult :=
  match pktOp p with
  | 1 => s.opQcreate p
  | 2 => s.opQdestroy p
  | 3 => s.opQprio p
  | 4 => s.opQreset p
  | 5 => s.opRegwrite p
  | 6 => s.opPartition p
  | 7 => s.opPreempt p
  | 8 => s.opResume p
  | 9 => s.opHalt p
  | 10 => s.opEnd p
  | 11 => s.opFwload p
  | 12 => s.opSvncommit
  | _ => s.badOp

/-- The curator performs the ADMIN packet of operation `op`, or one of no operation, at the head of queue `sel`, and
writes its status before the queue moves on; a restarting curator performs none (R408, R409). -/
def State.adminStep (s : State) (op : Nat) (effect : State → List Byte → AdminResult) : State :=
  s.take s.sel (fun p => pktType p == tAdmin && (pktOp p == op || pktOp p == 0 || decide (12 < pktOp p)) &&
      s.curator.running.isSome && !s.curator.restarting) fun x p =>
    let y := if pktOp p = op then effect x p else x.badOp
    y.state.finishHead s.sel p y.code y.extra

/-- QCREATE at queue `sel` (R409). -/
def execQcreate (s : State) : Host.Outcome State Fault Refusal := .next (s.adminStep 1 State.opQcreate)
/-- QDESTROY at queue `sel` (R409). -/
def execQdestroy (s : State) : Host.Outcome State Fault Refusal := .next (s.adminStep 2 State.opQdestroy)
/-- QPRIO at queue `sel` (R409). -/
def execQprio (s : State) : Host.Outcome State Fault Refusal := .next (s.adminStep 3 State.opQprio)
/-- QRESET at queue `sel` (R406, R409). -/
def execQreset (s : State) : Host.Outcome State Fault Refusal := .next (s.adminStep 4 State.opQreset)
/-- REGWRITE at queue `sel` (R409). -/
def execRegwrite (s : State) : Host.Outcome State Fault Refusal := .next (s.adminStep 5 State.opRegwrite)
/-- PARTITION at queue `sel` (R411). -/
def execPartition (s : State) : Host.Outcome State Fault Refusal := .next (s.adminStep 6 State.opPartition)
/-- PREEMPT at queue `sel` (R409). -/
def execPreempt (s : State) : Host.Outcome State Fault Refusal := .next (s.adminStep 7 State.opPreempt)
/-- ADMIN_RESUME at queue `sel` (R409). -/
def execAdminResume (s : State) : Host.Outcome State Fault Refusal := .next (s.adminStep 8 State.opResume)
/-- ADMIN_HALT at queue `sel` (R409). -/
def execAdminHalt (s : State) : Host.Outcome State Fault Refusal := .next (s.adminStep 9 State.opHalt)
/-- ADMIN_END at queue `sel` (R409). -/
def execAdminEnd (s : State) : Host.Outcome State Fault Refusal := .next (s.adminStep 10 State.opEnd)
/-- FWLOAD at queue `sel` (R417). -/
def execFwload (s : State) : Host.Outcome State Fault Refusal := .next (s.adminStep 11 State.opFwload)
/-- SVNCOMMIT at queue `sel` (R418). -/
def execSvncommit (s : State) : Host.Outcome State Fault Refusal := .next (s.adminStep 12 fun x _ => x.opSvncommit)

/-- QUEUE_DISABLE of queue `sel`: a destroyed queue's EN clears once its launches have retired, and its untaken packets
are dropped (R409). -/
def execQueueDisable (s : State) : Host.Outcome State Fault Refusal :=
  .next (
    let q := s.queue s.sel
    if q.destroying && !s.queueBusy s.sel then
      s.modQueue s.sel fun x => { x with en := false, destroying := false, held := false, stopped := false, head := x.tail }
    else s)

/-- TIME_SLICE_REQUEST for team `sel`: the time-slice policy requests the pre-emption of a resident guaranteed team, under
the refusal of R402 (R368, R408). -/
def execTimeSliceRequest (s : State) : Host.Outcome State Fault Refusal :=
  .next (
    if (s.team s.sel).onCore && !s.harvest s.sel && (s.launchOf s.sel).saves && s.curator.running.isSome &&
        !s.curator.restarting then s.requestPreempt s.sel
    else s)

end Sys2Proof.Machine
end

