-- ==== Sys2Proof/Machine/Fetch.lean ====
section
/-! DEFINITION. Fetching the next word of a thread from its core's instruction cache, and whether the registers it names
are settled (R29, R76, R104, R181). -/

namespace Sys2Proof.Machine

open Sys2Proof

/-! ## Fetch (R76) -/

/-- What the fetch of a thread's next word gives. -/
inductive Fetched where
  | word (w : Word)
  | fail (f : LaneFault)
  | wait (w : Wait)
  deriving DecidableEq, Repr, Inhabited

/-- The word of an instruction line at a place of the coherent image. -/
def ILine.wordAt (x : ILine) (a : Nat) : Word := BitVec.ofNat 32 (ofLe ((x.data.drop (a - x.line)).take 4))

/-- The word at the address that a thread is to issue, from its core's instruction cache (R29, R76, R104). DESIGN CHOICE
(log 60): a PC that the debug window or a spill record left misaligned fetches nothing and fails MISALIGNED. -/
def State.fetch (s : State) (r : Ref) : Fetched :=
  let t := s.thr r
  if t.wordPc.extractLsb' 0 2 ≠ 0 then .fail { cause := .misaligned, acc := 4, va := t.wordPc }
  else match s.transPart r t.wordPc 4 { ex := true } 4 with
  | .fault f => .fail f
  | .walk => .wait (.walk t.wordPc false false true)
  | .ok l pa =>
    let a := imageAddr l.plinth pa
    match s.icache.find? fun x => x.core == s.coreOf r && x.line == lineOf a with
    | none => .wait (.fetch (lineOf pa) l.plinth)
    | some x => if setHits x.bad a 4 then .fail { cause := .poison, acc := 4, va := t.wordPc } else .word (x.wordAt a)

/-! ## The next word's registers (R181) -/

/-- What the operand table says of a word, if it is an instruction's. -/
def wordInfo (w : Word) : Info :=
  match decode w with
  | .ok i => infoOf i
  | .error (.field i _ _) => infoOf i
  | .error _ => {}

/-- No register that a word names has a result still to come (R181). -/
def Thread.settled (t : Thread) (w : Word) : Bool :=
  let f := wordInfo w
  t.pending.isEmpty || !t.pending.any fun p =>
    (f.readRegs t.ctl).contains p.1.toNat || (f.writeRegs t.ctl).contains p.1.toNat

end Sys2Proof.Machine
end

