-- ==== Sys2Proof/Machine/Context.lean ====
section
/-! DEFINITION. Blocking points, wake conditions and probes; pre-emption and return; deferred reports at unit boundaries (R364
to R379, R384). -/

namespace Sys2Proof.Machine

open Sys2Proof

/-! ## Blocking points (R369) -/

/-- The loads and returning atomics of host or peer memory whose values a thread has still to receive (R369). -/
def State.farFlights (s : State) (r : Ref) : List Nat :=
  ((s.thr r).pending.map (·.2)).eraseDups.filter fun n =>
    (s.flights.getD n default).pieces.any fun x => spaceOf x.pa == .host || spaceOf x.pa == .peer
/-- A thread cannot issue its next unit because a load or returning atomic of host or peer memory has not returned (R227,
R369). -/
def State.farBlocked (s : State) (r : Ref) : Bool :=
  let t := s.thr r
  t.wait.isNone && t.hint.isNone && !(s.farFlights r).isEmpty &&
    match s.fetch r with
    | .word w => !t.settled w
    | _ => false

/-- A wait at a blocking point (R369). -/
def Wait.blocks : Wait → Bool
  | .bar .. | .barPhase .. | .qget | .qput | .slotPhase .. | .slotReady .. | .slotFilling .. | .slotEmpty _ | .batch _
  | .counter .. | .watch | .flags .. | .far _ => true
  | _ => false
/-- A thread's wait is at a blocking point: an MSEND once it has found its ring full (R369). -/
def State.waitBlocks (s : State) (w : Wait) : Bool :=
  match w with
  | .message id => (s.messages.getD id default).met
  | w => w.blocks

/-- A ring that a message waits for has room, and its team is on its core; or there is no such ring any more (R163, R369). -/
def State.ringOpen (s : State) (m : Message) : Bool :=
  match s.ringAt m.core m.ring with
  | none => true
  | some x => !x.en || (decide (x.used < x.entries) && (s.team x.team).status == .resident)

/-- The wake condition of a wait holds (R369). -/
def State.wakes (s : State) (r : Ref) : Wait → Bool
  | .bar level n target _ _ => (s.barrierAt r level n).any fun b => b.ph != target
  | .barPhase level n target => (s.barrierAt r level n).any fun b => b.ph != target
  | .qget => !(if (s.thr r).ctl then (s.team r.team).up else (s.team r.team).down).isEmpty || s.noPartner r
  | .qput => decide ((if (s.thr r).ctl then (s.team r.team).down else (s.team r.team).up).length < 16) || s.noPartner r
  | .slotPhase n phase seen was => seen || (s.slotNow r n).1 == phase || s.slotNow r n != was
  | .slotReady n was => s.slotNow r n != was || (s.notReady r [n]).isNone
  | .slotFilling n was => s.slotNow r n != was
  | .slotEmpty n => ((s.halfOf r).slots.getD n default).state == .empty
  | .batch b => !(s.thr r).batches.any fun x => (s.thr r).covers b x && x.incomplete
  | .counter addr target _ hit => hit ||
    match s.counterAt addr with
    | some v => !v.ult target
    | none => true
  | .watch => ((s.thr r).watch.all fun w => s.watchOver w)
  | .message id =>
    let m := s.messages.getD id default
    m.done || m.status.isSome || s.ringOpen m
  | .flags _ _ got hit => got.isSome || hit
  | .far fs => !fs.any fun n => (s.thr r).pending.any fun p => p.2 == n
  | _ => false

/-- A thread is stalled at a blocking point, and its wake condition does not hold (R369, R377). -/
def State.blocked (s : State) (r : Ref) : Bool :=
  match (s.thr r).wait with
  | some w => s.waitBlocks w && !s.wakes r w
  | none => s.farBlocked r

/-! ## Probes (R377 to R379) -/

/-- A unit of a probe: a group of a team, or its control thread, which stands after its groups (R377). -/
abbrev ProbeUnit := Nat × Nat

/-- The unit of a thread. -/
def State.unitOf (s : State) (r : Ref) : ProbeUnit := (r.team, (s.thr r).group)
/-- The threads of a unit that have not exited. -/
def State.unitRefs (s : State) (u : ProbeUnit) : List Ref :=
  if u.2 < (s.team u.1).groups.length then s.liveRefs u.1 u.2
  else [s.ctlRef u.1].filter fun r => s.hasCtl u.1 && !(s.thr r).exited

/-- A group or control thread is blocked: its threads are blocked or parked, and one is blocked (R377). -/
def State.unitBlocked (s : State) (u : ProbeUnit) : Bool :=
  let rs := s.unitRefs u
  rs.any s.blocked && rs.all fun r => s.blocked r || (s.thr r).parked

/-- The other stream of a thread's queues (R369). -/
def State.otherStream (s : State) (r : Ref) : List ProbeUnit :=
  let n := (s.team r.team).groups.length
  if (s.thr r).ctl then
    ((List.range n).filter fun g => !(s.liveRefs r.team g).isEmpty).map fun g => (r.team, g)
  else [(r.team, n)]

/-- Some units, or an unknown end when there are none (R369). -/
def orUnknown (us : List ProbeUnit) : List ProbeUnit × Bool := (us, us.isEmpty)

/-- The links of a slot wait: a FILLING slot leads to its fillers, else to the group that armed it (R369). -/
def State.fillLinks (s : State) (r : Ref) (n : Nat) : List ProbeUnit × Bool :=
  let x := (s.halfOf r).slots.getD n default
  if x.state = .filling then
    (if x.fillers.isEmpty then [(r.team, x.armedBy)] else x.fillers.eraseDups.map fun g => (r.team, g), false)
  else ([], true)

/-- What a blocked thread waits for: units, and whether there is an unknown end (R369). -/
def State.links (s : State) (r : Ref) : List ProbeUnit × Bool :=
  let absent (level : BitVec 2) (n : Nat) : List ProbeUnit × Bool :=
    match s.barrierAt r level n with
    | some b => (((s.participants r.team level).filter fun q => !b.arr.contains q).map s.unitOf |>.eraseDups, false)
    | none => ([], false)
  match (s.thr r).wait with
  | some (.bar level n _ _ _) => absent level n
  | some (.barPhase level n _) => absent level n
  | some .qget => (s.otherStream r, false)
  | some .qput => (s.otherStream r, false)
  | some (.slotPhase n _ _ _) => s.fillLinks r n
  | some (.slotReady n _) => s.fillLinks r n
  | some (.slotFilling ..) => ([], true)
  | some (.slotEmpty n) =>
    let x := (s.halfOf r).slots.getD n default
    if x.state = .ready ∧ x.reads = 0 then orUnknown (x.observers.map fun g => (r.team, g)) else ([], true)
  | some .watch => ([], true)
  | some (.message _) => ([], true)
  | some (.flags ..) => ([], true)
  | _ => ([], false)

/-- The links of a blocked unit: those of its blocked threads (R377; a parked thread's lie inside its group, log 40). -/
def State.unitLinks (s : State) (u : ProbeUnit) : List ProbeUnit × Bool :=
  let xs := ((s.unitRefs u).filter s.blocked).map s.links
  ((xs.flatMap (·.1)).eraseDups, xs.any (·.2))

/-- What a probe has found so far. -/
structure Found where
  cycle : Bool
  unknown : Bool
  links : Nat
  deriving DecidableEq, Repr, Inhabited

/-- A probe from `start` follows the links of the units of `todo`, up to 4,096 links (R378). -/
def State.follow (s : State) (start : ProbeUnit) : Nat → List ProbeUnit → List ProbeUnit → Found → Found
  | 0, _, _, f => f
  | _ + 1, [], _, f => if 4096 ≤ f.links then { f with unknown := true } else f
  | fuel + 1, u :: us, seen, f =>
    if 4096 ≤ f.links then { f with unknown := true }
    else if !s.unitBlocked u then s.follow start fuel us seen f
    else
      let (vs, unk) := s.unitLinks u
      let fresh := vs.filter fun v => !seen.contains v
      s.follow start fuel (us ++ fresh) (seen ++ fresh)
        { cycle := f.cycle || vs.contains start, unknown := f.unknown || unk, links := f.links + vs.length }

/-- What a probe that starts at a blocked unit reports: 0 NO_CYCLE, 1 CYCLE, 2 UNKNOWN (R378, R379). -/
def State.probeFrom (s : State) (u : ProbeUnit) : Nat :=
  let f := s.follow u 8192 [u] [u] { cycle := false, unknown := false, links := 0 }
  if f.cycle then 1 else if f.unknown then 2 else 0

/-- The result word of probes with these codes, the lowest group found on a cycle among them (R379). -/
def probeWord (codes : List (ProbeUnit × Nat)) (groups : Nat) : BitVec 32 :=
  let code := if codes.any (·.2 == 1) then 1 else if codes.any (·.2 == 2) then 2 else 0
  let low := ((List.range groups).find? fun g => codes.any fun c => c.2 == 1 && c.1.2 == g).getD 0x7F
  BitVec.ofNat 32 (code + 4 * low)

/-- The blocked units of a team (R384). -/
def State.blockedUnits (s : State) (t : Nat) : List ProbeUnit :=
  (((List.range ((s.team t).groups.length + 1)).map fun k => (t, k)).filter s.unitBlocked)

/-- Probes from every blocked unit of a team, each with what it reports (R384). -/
def State.probeTeam (s : State) (t : Nat) : List (ProbeUnit × Nat) := (s.blockedUnits t).map fun u => (u, s.probeFrom u)

/-- A blocked unit on a cycle traps: each fragment that waits takes WAIT_CYCLE, a control thread halts its team (R363, R367,
R379). -/
def State.cycleTrap (s : State) (u : ProbeUnit) (result : BitVec 32) : State :=
  let rs := (s.unitRefs u).filter fun r => !(s.thr r).parked
  let f : LaneFault := { cause := .waitCycle, info := result.setWidth 64 }
  let marks := rs.map fun r => ((if (s.thr r).ctl then 0 else s.idx r), f)
  let s1 := (s.fragLeads rs).foldl (fun x r =>
    x.trapFrag ((s.trapping r).filter fun q => rs.contains q) marks false (s.thr r).pc) s
  s1.settleAll rs

/-- PROBE (R378, R379, R384). -/
def execProbe (g : BitVec 3) (d : BitVec 6) (s : State) : Host.Outcome State Fault Refusal :=
  .next (s.perform (s.judge (.probe g d) noCheck) fun s1 rs =>
    let teams := (rs.map (·.team)).eraseDups
    teams.foldl (fun x t =>
      let found := s.probeTeam t
      let w := probeWord found (s.team t).groups.length
      let y := (rs.filter fun r => r.team == t).foldl (fun y r => y.modThr r fun u => u.set32 d.toNat w tagI32) x
      (found.filter fun c => c.2 == 1).foldl (fun y c => y.cycleTrap c.1 w) y) s1)

/-- GTIME at which a unit became blocked: when the last of its threads issued, stalled or parked (R378). -/
def State.blockedSince (s : State) (u : ProbeUnit) : Nat :=
  ((if u.2 < (s.team u.1).groups.length then s.groupRefs u.1 u.2 else [s.ctlRef u.1]).map fun r => (s.thr r).since).foldl max 0

/-- WATCHDOG_PROBE of unit `sel2` of team `sel`, blocked for 1 ms: on CYCLE it alone traps; the next millisecond begins
(R378, R379). -/
def execWatchdogProbe (s : State) : Host.Outcome State Fault Refusal :=
  .next (
    let u : ProbeUnit := (s.sel, s.sel2)
    let rs := s.unitRefs u
    if !(s.team s.sel).onCore || !s.unitBlocked u || decide (s.gtime < s.blockedSince u + 1000000) then s
    else if s.probeFrom u = 1 then s.cycleTrap u (probeWord [(u, 1)] (s.team s.sel).groups.length)
    else rs.foldl (fun x r => x.modThr r fun t => { t with since := s.gtime }) s)

/-! ## Pre-emption (R370, R371, R374) -/

/-- A team may be pre-empted now: requested, guaranteed, not halted, no thread in a handler, every thread at a blocking
point or parked, and no wake condition holds (R370). -/
def State.mayPreempt (s : State) (t : Nat) : Bool :=
  let m := s.team t
  let live := (s.allRefs t).filter fun r => !(s.thr r).exited
  m.status == .resident && m.preemptReq && !s.harvest t && !m.isHalted && !live.isEmpty && (s.launchOf t).saves &&
    live.all fun r => !(s.thr r).cm && (s.blocked r || (s.thr r).parked)

/-- A pre-empted half's accumulator storage becomes the core's held set, or is saved eagerly and freed where the core
holds another context's (R374). -/
def State.holdAcc (s : State) (t k : Nat) : State :=
  let h := s.half t k
  let c := s.core h.core
  if !h.hasAcc then s
  else if !c.held || c.ownerTeam == some t then
    (s.noShares h.core).modCore h.core fun x => { x with owner := (s.team t).ctxid, held := true, ownerTeam := some t }
  else
    (s.freeStore h.core .acc (s.ownAcc h) (some t)).modHalf t k fun x =>
      { x with accTiles := [], vitTiles := [], shares := false }

/-- Bytes of a save area, in the layout that is private to the device (R371): free values (log 8). -/
def saveBytes (n draw : Nat) : List Byte := (List.range n).map fun k => Config.saveByte (draw + k)

/-- The save area of a team is written (R371, R402). -/
def State.writeSave (s : State) (t : Nat) : State :=
  let l := s.launchOf t
  let n := l.block.saveNeed
  let pa := (addNat l.saveptr (l.savestride * (s.team t).ctxid.toNat)).toNat
  if inHbmOrHost pa && inHbmOrHost (pa + n - 1) then
    { s.storeLines (n / 128 + 2) pa (saveBytes n s.drawn) with drawn := s.drawn + n }
  else s

/-- A thread as pre-emption saves it: at its unit's address, with the values that it awaits as its wake condition (R227,
R369). -/
def State.savedThread (s : State) (r : Ref) (t : Thread) : Thread :=
  if s.farBlocked r then { t with wait := some (.far (s.farFlights r)) } else { t with hint := none }

/-- TEAM_PREEMPT of team `sel`: it stops, its state is kept, its rows, registers and scratch are freed, and its barriers,
rings, monitors and counter waits stay (R370, R371, R374). -/
def execTeamPreempt (s : State) : Host.Outcome State Fault Refusal :=
  .next (
    let t := s.sel
    let m := s.team t
    if !s.mayPreempt t || !s.homesOpen then s
    else
      let s1 := s.writeSave t
      let s2 := (List.range m.halves.length).foldl (fun x k => x.holdAcc t k) s1
      let s3 := s2.modTeam t fun x =>
        { x with status := .preempted, preemptReq := false, leftGrant := (s.die m.die).grant
                 threads := x.threads.zipIdx.map fun (p : Thread × Nat) => s.savedThread ⟨t, p.2⟩ p.1 }
      s3.freeHalves (m.halves.map fun h => { h with accTiles := [], vitTiles := [] }) (some t))

/-- TEAM_WAKE of team `sel`: a wake condition of one of its threads holds (R372). -/
def execTeamWake (s : State) : Host.Outcome State Fault Refusal :=
  .next (
    let t := s.sel
    let live := (s.allRefs t).filter fun r => !(s.thr r).exited
    if (s.team t).status = .preempted ∧ live.any (fun r => (s.thr r).wait.any (s.wakes r)) = true then
      s.modTeam t fun x => { x with status := .runnable }
    else s)

/-- TEAM_RESTORE of team `sel`: it is placed again on its own cores, its saved state back, and is held no longer (R372,
R374). -/
def execTeamRestore (s : State) : Host.Outcome State Fault Refusal :=
  .next (
    let t := s.sel
    let m := s.team t
    if m.status ≠ .runnable ∨ s.homesOpen = false then s
    else match s.returnSeats t with
      | none => s
      | some (seats, gone) =>
        let s1 := s.evictTeams gone
        let b := s.block t
        let s2 := s1.modTeam t fun x =>
          { x with
            status := .placed
            halves := x.halves.zipIdx.map fun (p : Half × Nat) => s1.savedHalf t p.1 (seats.getD p.2 default)
            threads := x.threads.map fun u =>
              { u with slot := if u.ctl then u.slot else slotOn b seats u.tidx.toNat
                       wait := match u.wait with | some (.far _) => none | w => w } }
        let s3 := seats.foldl (fun y x => y.modCore x.core fun c =>
          { c with partition := x.part, held := c.held && c.ownerTeam != some t }) s2
        if s3.gridsKept then (s3.noticeBack t m.die).startTeams [t] else s)

/-! ## Deferred reports (R364 to R367) -/

/-- Something holds a group's fragment back from its report: custodian mode, or a hint whose instruction is to come
(R227, R355). -/
def State.orphan (s : State) (t : Nat) (x : Report) : Bool := (s.reportThread t x).isNone

/-- DEFERRED_REPORT of group `sel2` of team `sel`: its oldest report that can be taken is taken, or dropped as an orphan
(R366, R367). -/
def execDeferredReport (s : State) : Host.Outcome State Fault Refusal :=
  .next (
    let t := s.sel
    let g := s.group t s.sel2
    match g.reports.find? (s.orphan t) with
    | some x =>
      (s.modGroup t s.sel2 fun y => { y with reports := y.reports.erase x }).errorRecord (dieOfCore (s.half t 0).core) 0x11 1
        (s.team t).ctxid 0 (BitVec.ofNat 64 (s.half t 0).core)
    | none =>
      match (s.liveRefs t s.sel2).find? fun r => s.reportDue r && (s.team t).onCore && !(s.team t).isHalted with
      | some r =>
        match s.dueReport r with
        | some x => (s.takeReport r x).settle t s.sel2
        | none => s
      | none => s)

end Sys2Proof.Machine
end

