-- ==== Sys2Proof/Machine/Control.lean ====
section
/-! DEFINITION. Control transfer, EXIT, NOP, YIELD, hint words and the encodings that the map leaves unassigned (R177,
R223, R227 to R232, R256 to R260). -/

namespace Sys2Proof.Machine

open Sys2Proof

/-! ## Branches (R256 to R258) -/

/-- The checks of a control transfer to a target: a poisoned register, then the target's alignment and canonical form
(R244, R256). -/
def State.jumpCheck (s : State) (i : Instr) (tgt : Thread → BitVec 64) (r : Ref) : Verdict :=
  let t := s.thr r
  if t.poisoned (infoOf i).reads then .fail poisonFault
  else if (tgt t).extractLsb' 0 2 != 0 then .fail { cause := .misaligned, va := tgt t }
  else if !canonical (tgt t) then .fail (transFault rNotCanonical 0 0 (tgt t))
  else .run

/-- The link of a call (R256). -/
def Thread.setLink (t u : Thread) : Thread := u.setPair (if t.ctl then 31 else 62) (t.wordPc + 4) tagI32

/-- A control transfer of every running lane, with a link or without (R256, R257). -/
def State.jump (s : State) (i : Instr) (tgt : Thread → BitVec 64) (link : Bool) : State :=
  s.lanewise i (s.jumpCheck i tgt) fun t u => { (if link then t.setLink u else u) with pc := tgt t }

/-- Target of a BR word (R222, R256). -/
def Thread.brTarget (t : Thread) (o : BitVec 23) : BitVec 64 := t.wordPc + 4 * o.signExtend 64

/-- BRA (R256). -/
def execBra (g : BitVec 3) (o : BitVec 23) (s : State) : Host.Outcome State Fault Refusal :=
  .next (s.jump (.bra g o) (fun t => t.brTarget o) false)
/-- CALL (R256). -/
def execCall (g : BitVec 3) (o : BitVec 23) (s : State) : Host.Outcome State Fault Refusal :=
  .next (s.jump (.call g o) (fun t => t.brTarget o) true)
/-- RET (R256). -/
def execRet (g : BitVec 3) (a : BitVec 6) (s : State) : Host.Outcome State Fault Refusal :=
  .next (s.jump (.ret g a) (fun t => t.pairVal a.toNat) false)
/-- JMPR (R256). -/
def execJmpr (g : BitVec 3) (a : BitVec 6) (s : State) : Host.Outcome State Fault Refusal :=
  .next (s.jump (.jmpr g a) (fun t => t.pairVal a.toNat) false)
/-- CALLR (R256). -/
def execCallr (g : BitVec 3) (a : BitVec 6) (s : State) : Host.Outcome State Fault Refusal :=
  .next (s.jump (.callr g a) (fun t => t.pairVal a.toNat) true)
/-- BRX (R256, R258). -/
def execBrx (g : BitVec 3) (a b : BitVec 6) (s : State) : Host.Outcome State Fault Refusal :=
  .next (s.jump (.brx g a b) (fun t =>
    t.pairVal a.toNat + 4 * (t.val32 b.toNat).setWidth 64) false)

/-! ## EXIT, NOP, YIELD (R177, R259, R260) -/

/-- A thread that has exited. -/
def Thread.exit (t : Thread) : Thread := { t with exited := true, wait := none, hint := none }

/-- EXIT (R177, R259); the barriers are judged at the end of the core cycle (R307). -/
def execExit (g : BitVec 3) (s : State) : Host.Outcome State Fault Refusal :=
  .next (s.lanewise (.exit g) noCheck fun _ u => u.exit)

/-- NOP (R260). -/
def execNop (g : BitVec 3) (s : State) : Host.Outcome State Fault Refusal :=
  .next (s.lanewise (.nop g) noCheck fun _ u => u)

/-- YIELD: not ready for the next 16 core cycles (R260). -/
def execYield (g : BitVec 3) (s : State) : Host.Outcome State Fault Refusal :=
  .next (s.lanewise (.yield g) noCheck fun _ u => { u with holdoff := max u.holdoff 16 })

/-! ## Hint words (R227 to R231) -/

/-- A hint issues in a slot of its own and waits for its instruction; it is not counted as retired (R227). -/
def State.hintWord (s : State) (i : Instr) (h : Hint) (own : Ref → Verdict) : State :=
  let v := s.judge i own
  let s1 := (s.goLanes v).foldl (fun x r => x.modThr r fun t => { t with hint := some h, walked := [], age := 0 }) s
  (State.trapBad s (State.waitStalled s s1 v) v).settleAll s.cur

/-- HWIDE (R228). -/
def execHwide (p : BitVec 24) (s : State) : Host.Outcome State Fault Refusal :=
  .next (s.hintWord (.hwide p) (.wide p) noCheck)

/-- A reserved code in a modifier field (R106, R122, R123, R229, R230). -/
def badModCode (p : BitVec 24) : Bool :=
  decide (5 ≤ (p.extractLsb' 0 3).toNat) || decide (5 ≤ (p.extractLsb' 4 3).toNat) ||
    decide (6 ≤ (p.extractLsb' 7 3).toNat) || p.extractLsb' 10 2 == 3 || decide (13 ≤ (p.extractLsb' 12 4).toNat)

/-- HMOD, with its own checks (R227, R229, R230). -/
def execHmod (p : BitVec 24) (s : State) : Host.Outcome State Fault Refusal :=
  .next (s.hintWord (.hmod p) (.mods p) fun _ =>
    if p.extractLsb' 17 7 != 0 then .fail (illegalFault rReserved)
    else if badModCode p then .fail (illegalFault rBadModifier)
    else .run)

/-- HSCHED, with its own check (R227, R231). -/
def execHsched (p : BitVec 24) (s : State) : Host.Outcome State Fault Refusal :=
  .next (s.hintWord (.hsched p) (.sched p) fun _ =>
    if p.extractLsb' 8 16 != 0 then .fail (illegalFault rReserved) else .run)

/-- A hint word of the reserved kind always traps BAD_HINT (R227). -/
def execHintKind (s : State) : Host.Outcome State Fault Refusal :=
  .next (s.perform (fun _ => .fail (illegalFault rBadHint)) fun x _ => x)

/-! ## Unassigned encodings (R232, R235) -/

/-- The majors that the opcode map assigns (R232). -/
def majorAssigned (k : Nat) : Bool :=
  !(k == 0x00 || k == 0x0E || k == 0x0F || k == 0x17 || k == 0x1F || k == 0x3E) && decide (k < 64)

/-- An unassigned word traps BAD_MAJOR or BAD_MINOR whatever hint precedes it, in the lanes whose guard is true (R223,
R232, R235). -/
def execUnassignedEncoding (w : BitVec 32) (s : State) : Host.Outcome State Fault Refusal :=
  .next (s.perform (fun r =>
    if !(s.thr r).pred (w.extractLsb' 23 3) then .off
    else .fail (illegalFault (if majorAssigned (w.extractLsb' 26 6).toNat then rBadMinor else rBadMajor))) fun x _ => x)

end Sys2Proof.Machine
end

