-- ==== Sys2Proof/Machine/Gang.lean ====
section
/-! DEFINITION. Gang launch: the check of a GANG packet, its commit and its timeout (R412 to R414). -/

namespace Sys2Proof.Machine

open Sys2Proof

/-- What the check of one part gives: its partition and its block's checks, code 0 when it passes (R412; log 34). -/
def State.checkPart (s : State) (q : Queue) (seen : List Nat) (e : List Byte) : State × Nat × BlockCheck :=
  let part := recNum e 8 1
  if !recZero e 9 16 then (s, part, BlockCheck.failed (blockOf []) 2)
  else if s.npart ≤ part ∨ seen.contains part = true then (s, part, BlockCheck.failed (blockOf []) 7)
  else
    let x := s.takeBlock q q.space part (BitVec.ofNat 64 (recNum e 0 8))
    (x.1, part, x.2)

/-- The parts of a table checked in order, up to the first that fails (R412). -/
def State.checkParts (q : Queue) : List (List Byte) → State → List (Nat × BlockCheck) → State × List (Nat × BlockCheck) × Nat
  | [], s, done => (s, done, 0)
  | e :: es, s, done =>
    match s.checkPart q (done.map (·.1)) e with
    | (s1, part, c) => if c.code ≠ 0 then (s1, done, c.code) else State.checkParts q es s1 (done ++ [(part, c)])

/-- The counter of a GANG packet can take its add (R403, R412; log 34). -/
def State.gangCounter (s : State) (q : Queue) (ptr : BitVec 64) : State × Bool :=
  if ptr = 0 then (s, true)
  else if ptr.toNat % 8 ≠ 0 then (s, false)
  else match s.agentCheck q.homedie.toNat q.space { rd := true, wr := true } 2 ptr 8 with
    | (s1, none) => (s1, true)
    | (s1, some _) => (s1, false)

/-- A gang rejected at take: status, then its counter add with the mark (R201, R412). -/
def State.rejectGang (s : State) (n : Nat) (p : List Byte) (code : Nat) : State :=
  let q := s.queue n
  let s1 := (s.finishHead n p (BitVec.ofNat 8 code) 0).evaluate
  match s1.gangCounter q (pktWord p 32) with
  | (s2, true) => if code = 13 then s2 else s2.finalAdd q.homedie.toNat q.space q.harvest (pktWord p 32) (pktWord p 40) true
  | (s2, false) => s2

/-- Die of a partition's first gallery (R411, R412). -/
def State.firstDie (s : State) (part : Nat) : Nat := (s.partDies part).headD 0

/-- A gang as the front end takes it (R412). -/
def Gang.taken (q : Queue) (n : Nat) (p : List Byte) (parts : List Nat) (now : Nat) : Gang :=
  { queue := n, seq := q.head, parts := parts, reserved := [], started := now, timeout := recNum p 28 4,
    statusPtr := pktStatus p, ctrptr := pktWord p 32, ctrinc := pktWord p 40, committed := false, done := false, code := 0 }

/-- A gang that passes its checks: its parts are launches that reserve (R412). -/
def State.beginGang (s : State) (n : Nat) (p : List Byte) (parts : List (Nat × BlockCheck)) : State :=
  let q := s.queue n
  let g := s.gangs.length
  let first := s.launches.length
  let ls := parts.zipIdx.map fun x =>
    Launch.taken q n p x.1.2 x.1.1 (s.firstDie x.1.1) (s.stamp + x.2) (some g)
  ({ s.passHead n with
    launches := s.launches ++ ls
    gangs := s.gangs ++ [Gang.taken q n p ((List.range parts.length).map fun k => first + k) s.gtime]
    stamp := s.stamp + parts.length }).evaluate

/-- A GANG packet is taken (R412). -/
def State.takeGang (s : State) (n : Nat) (p : List Byte) : State :=
  let q := s.queue n
  let count := recNum p 24 4
  match s.agentLoad q.homedie.toNat q.space (pktWord p 16) (16 * count) with
  | (s1, .error _) => (s1.noteServed n).rejectGang n p 0x28
  | (s1, .ok bs) =>
    let s2 := s1.noteServed n
    if bs.any (·.2) then s2.rejectGang n p 0x28
    else
      let es := (List.range count).map fun k => ((bs.map (·.1)).drop (16 * k)).take 16
      match State.checkParts q es s2 [] with
      | (s3, parts, code) =>
        if code ≠ 0 then s3.rejectGang n p code
        else match s3.gangCounter q (pktWord p 32) with
          | (s4, false) => s4.rejectGang n p 13
          | (s4, true) => s4.beginGang n p parts

/-- GANG of queue `sel`: taken when it is that queue's turn (R196, R412). -/
def execGang (s : State) : Host.Outcome State Fault Refusal :=
  .next (s.take s.sel (fun p => pktType p == tGang && s.nextQueue (s.queue s.sel).homedie.toNat == some s.sel) fun x p =>
    x.takeGang s.sel p)

/-- A part of a gang has ended before it started. -/
def State.gangBroken (s : State) (y : Gang) : Bool :=
  y.parts.any fun l => let st := (s.launches.getD l default).status; st == .ending || st == .retired

/-- GANG_COMMIT of gang `sel`: when every reservation is whole, every team of every part starts; when a part can no longer
start, every part ends with GANG_ABORT (R412, R414). -/
def execGangCommit (s : State) : Host.Outcome State Fault Refusal :=
  .next (
    let y := s.gangs.getD s.sel default
    if !decide (s.sel < s.gangs.length) || y.committed || y.done then s
    else if s.gangBroken y then y.parts.foldl (fun x l => x.endOne l 0x26) s
    else if !y.parts.all s.gridWhole then s
    else
      let s1 := { s with gangs := s.gangs.modify s.sel fun x => { x with committed := true } }
      let s2 := y.parts.foldl (fun x l => x.modLaunch l fun z => { z with status := .running, started := true }) s1
      y.parts.foldl (fun x l => x.startTeams (x.teamsOf l)) s2)

/-- GANG_TIMEOUT of gang `sel`: its timeout has run and its reservations are not whole, so they are released (R413). -/
def execGangTimeout (s : State) : Host.Outcome State Fault Refusal :=
  .next (
    let y := s.gangs.getD s.sel default
    if !decide (s.sel < s.gangs.length) || y.committed || y.done || y.code != 0 || y.parts.all s.gridWhole ||
        decide (s.gtime < y.started + 1000 * y.timeout) then s
    else
      y.parts.foldl (fun x l => x.endOne l 0x25)
        { s with gangs := s.gangs.modify s.sel fun x => { x with code := 0x25 } })

end Sys2Proof.Machine
end

