-- ==== Sys2Proof/Machine/Optim.lean ====
section
/-! DEFINITION. The optimiser and reduction instructions OADAM, OSGD and VRED (R338 to R341). -/

namespace Sys2Proof.Machine

open Sys2Proof

/-! ## Exact arithmetic with one root (R276, R339) -/

/-- A value times the rational n / d. -/
def Ex.mulRat (x : Ex) (n : Int) (d : Nat) : Ex :=
  { p := x.p * n, sub := x.sub != decide (n < 0), m := x.m * (n.natAbs * n.natAbs), d := x.d * d }
/-- The inverse of a normal value that is not zero. -/
def Ex.inv (x : Ex) : Ex :=
  let k := x.p * x.p - (x.m : Int)
  let dp : Int := x.d * x.p
  if k < 0 then { p := -dp, sub := x.sub, m := x.m * (x.d * x.d), d := k.natAbs }
  else { p := dp, sub := !x.sub, m := x.m * (x.d * x.d), d := k.natAbs }
/-- The root of a rational that is not negative. -/
def Ex.root (x : Ex) : Ex := ({ p := 0, sub := false, m := x.p.toNat * x.d, d := x.d } : Ex).norm
/-- A sum of two values of which one is rational. -/
def Ex.add (x y : Ex) : Ex := if y.m = 0 then (x.plus y).norm else (y.plus x).norm
/-- A product of two values of which one is rational. -/
def Ex.mul (x y : Ex) : Ex := if y.m = 0 then (x.mulRat y.p y.d).norm else (y.mulRat x.p x.d).norm

/-- The sign of a value other than NaN. -/
def Exact.isNeg : Exact → Bool
  | .nan => false
  | .inf s => s
  | .zero s => s
  | .val x => x.isNeg
/-- An exact value that may be zero, `s` the sign of zero. -/
def exactOf (x : Ex) (s : Bool) : Exact := if x.isZero then .zero s else .val x
/-- A product, and INV for 0 × ∞ (R276). -/
def Res.mul (a b : Res) : Res :=
  let c := a.2 ||| b.2
  match a.1, b.1 with
  | .nan, _ => (.nan, c)
  | _, .nan => (.nan, c)
  | .inf _, .zero _ => (.nan, c ||| cINV)
  | .zero _, .inf _ => (.nan, c ||| cINV)
  | .inf s, y => (.inf (s != y.isNeg), c)
  | x, .inf s => (.inf (x.isNeg != s), c)
  | .val x, .val y => (exactOf (x.mul y) false, c)
  | x, y => (.zero (x.isNeg != y.isNeg), c)

/-- A sum, and INV for opposite infinities (R271, R276). -/
def Res.add (m : Mode) (a b : Res) : Res :=
  let c := a.2 ||| b.2
  match a.1, b.1 with
  | .nan, _ => (.nan, c)
  | _, .nan => (.nan, c)
  | .inf s, .inf t => if s = t then (.inf s, c) else (.nan, c ||| cINV)
  | .inf s, _ => (.inf s, c)
  | _, .inf t => (.inf t, c)
  | .val x, .val y => (exactOf (x.add y) (m.rm == 3), c)
  | .val x, .zero _ => (.val x, c)
  | .zero _, .val y => (.val y, c)
  | .zero s, .zero t => (if s = t then .zero s else zeroSum m, c)

/-- A quotient by a value other than zero, and INV for ∞ / ∞ (R276). -/
def Res.div (a b : Res) : Res :=
  let c := a.2 ||| b.2
  match a.1, b.1 with
  | .nan, _ => (.nan, c)
  | _, .nan => (.nan, c)
  | .inf _, .inf _ => (.nan, c ||| cINV)
  | .inf s, y => (.inf (s != y.isNeg), c)
  | .zero s, y => (.zero (s != y.isNeg), c)
  | x, .inf t => (.zero (x.isNeg != t), c)
  | .val x, .val y => (exactOf (x.mul y.inv) false, c)
  | .val x, .zero t => (.inf (x.isNeg != t), c)

/-- An operand. -/
def resOf (x : Num) : Res := (x.exact, 0)
/-- An operand with its sign inverted. -/
def Res.neg (a : Res) : Res := (a.1.neg, a.2)

/-- sqrt(max(v, +0)) (R339). -/
def Res.rootMax (a : Res) : Res :=
  match a.1 with
  | .nan => a
  | .inf s => (if s then .zero false else .inf false, a.2)
  | .zero _ => (.zero false, a.2)
  | .val x => (if x.isNeg then .zero false else .val x.root, a.2)

/-- A value rounded, with its conditions (R339). -/
def Res.round (f : Fmt) (m : Mode) (a : Res) : Nat × Conds :=
  let r := Machine.round f m a.1
  (r.1, r.2 ||| a.2)

/-! ## One element (R339) -/

/-- ESTAT bits of one element: conditions, NEGV and NONFIN (R320). -/
structure ElemFlags where
  conds : Conds
  negv : Bool
  nonfin : Bool
  deriving DecidableEq, Repr, Inhabited

/-- What joins ESTAT (R320). -/
def ElemFlags.word (f : ElemFlags) : BitVec 32 := (BitVec.ofBool f.nonfin ++ BitVec.ofBool f.negv ++ f.conds : BitVec 7).setWidth 32

/-- A finite element. -/
def Num.finite (x : Num) : Bool := !x.isNan && !x.isInf

/-- OADAM on one element whose inputs are finite: w, m, v as new bits. `fs` are Fw, Fm, Fv, `p` the parameters lr, β1,
β2, ε, λ, c1, c2 and `md` the mode of each rounding (R339). -/
def adamElem (fs : List Fmt) (p : List Num) (md : Nat → Mode) (w m v g : Num) : List Nat × ElemFlags :=
  let f (k : Nat) : Fmt := fs.getD k .f32
  let q (k : Nat) : Res := resOf (p.getD k .nan)
  let one := resOf (intNum 1)
  let mn := (((q 1).mul (resOf m)).add (md 0) ((one.add (md 0) (q 1).neg).mul (resOf g))).round (f 1) (md 0)
  let vn := (((q 2).mul (resOf v)).add (md 1)
    (((one.add (md 1) (q 2).neg).mul (resOf g)).mul (resOf g))).round (f 2) (md 1)
  let mh := (resOf ((f 1).decode mn.1)).mul (q 5)
  let vh := (resOf ((f 2).decode vn.1)).mul (q 6)
  let negv := match vh.1 with
    | .inf s => s
    | .val x => x.isNeg
    | _ => false
  let den := vh.rootMax.add (md 2) (q 3)
  let mhZero := match mh.1 with | .zero _ => true | _ => false
  let u : Res := match den.1 with
    | .zero _ => (.zero false, mh.2 ||| den.2 ||| (if mhZero then 0 else cDZ))
    | _ => mh.div den
  let wn := ((resOf w).add (md 2) ((q 0).mul (u.add (md 2) ((q 4).mul (resOf w)))).neg).round (f 0) (md 2)
  ([wn.1, mn.1, vn.1], { conds := mn.2 ||| vn.2 ||| wn.2, negv := negv, nonfin := false })

/-- OSGD on one element whose inputs are finite: w, b as new bits; the parameters are lr, μ, λ (R339). -/
def sgdElem (fs : List Fmt) (p : List Num) (md : Nat → Mode) (w b g : Num) : List Nat × ElemFlags :=
  let f (k : Nat) : Fmt := fs.getD k .f32
  let q (k : Nat) : Res := resOf (p.getD k .nan)
  let bn := ((((q 1).mul (resOf b)).add (md 0) (resOf g)).add (md 0) ((q 2).mul (resOf w))).round (f 1) (md 0)
  let wn := ((resOf w).add (md 1) ((q 0).mul (resOf ((f 1).decode bn.1))).neg).round (f 0) (md 1)
  ([wn.1, bn.1], { conds := bn.2 ||| wn.2, negv := false, nonfin := false })

/-! ## Elements of slots (R338, R340) -/

/-- Element `i` of a slot's array of `n`-byte elements, and whether its word is poisoned (R61, R338). -/
def Half.elemRead (h : Half) (sl : Slot) (n i : Nat) : Nat × Bool :=
  let bs := h.scratchRead (sl.off + i * n) n
  (ofLe (bs.map (·.1)), bs.any (·.2))
/-- Element `i` written. -/
def Half.elemWrite (h : Half) (sl : Slot) (n i v : Nat) : Half := h.scratchWrite (sl.off + i * n) (leBytes n v)

/-- What an element-wise instruction has done so far: its half, its ESTAT word, the poisoned indices in order. -/
structure Sweep where
  half : Half
  estat : BitVec 32
  bad : List Nat

/-- Element `i` of an element-wise instruction on the slots `ins`, whose first `outs` are rewritten; `sizes` are their
element sizes and `f` gives the new elements, or none to leave them (R339 to R341). -/
def Sweep.elem (ins : List Slot) (sizes : List Nat) (f : Nat → List Nat → List Nat × ElemFlags) (x : Sweep) (i : Nat) : Sweep :=
  let rs := (ins.zip sizes).map fun p => x.half.elemRead p.1 p.2 i
  if rs.any (·.2) then { x with bad := x.bad ++ [i] }
  else
    let r := f i (rs.map (·.1))
    { x with
      half := ((ins.zip sizes).zip r.1).foldl (fun h p => h.elemWrite p.1.1 p.1.2 i p.2) x.half
      estat := x.estat ||| r.2.word }

/-- The report of poisoned elements: lowest index, count, and mask from the lowest (R340, R365). -/
def elemReport (bad : List Nat) (addr : BitVec 64) (from_ : List Nat) : Option Report :=
  match bad with
  | [] => none
  | k :: _ =>
    some (Report.of { poisonFault with
      info := BitVec.ofNat 32 bad.length ++ BitVec.ofNat 32 k
      info2 := maskOf ((bad.map fun j => j - k).filter fun j => decide (j < 64)) } addr from_)

/-- The sweep of a fragment over elements 0 to n − 1, joined to its state: scratch, ESTAT, the slots observed, the
report (R338 to R341). Each element draws `draws` values. -/
def State.sweep (s s1 : State) (r : Ref) (slots : List Nat) (sizes : List Nat) (n draws : Nat)
    (f : Nat → List Nat → List Nat × ElemFlags) : State :=
  let t := s.thr r
  let h := s.halfOf r
  let ins := slots.map fun k => h.slots.getD k default
  let x := (List.range n).foldl (Sweep.elem ins sizes f) { half := h, estat := 0, bad := [] }
  let s2 := s1.modHalf r.team t.half fun y => { y with
    scratch := x.half.scratch, scrPoison := x.half.scrPoison,
    slots := slots.foldl (fun l k => l.modify k fun sl => (sl.consume t.group).readDone) y.slots }
  let s3 := { s2.modTeam r.team fun y => { y with estat := y.estat ||| x.estat } with drawn := s.drawn + draws * n }
  match elemReport x.bad t.pc (s.fragIdx r) with
  | some q => s3.pushReport r.team t.group q
  | none => s3

/-! ## The checks (R319, R338, R341) -/

/-- Bytes of an element of a slot FMT of the optimisers and of VRED, or 0. -/
def elemBytes (t : Tag) : Nat := if t = tagF32 ∨ t = tagI32 then 4 else if t = tagBF16 ∨ t = tagF16 then 2 else 0

/-- The checks of an element-wise instruction: the slots exist, no operand is poisoned, the count is not 0, the slots
are READY and the thread's scratch accesses may go, the formats, the bounds, ERR (R133, R319, R338, R341). -/
def State.elemCheck (s : State) (i : Instr) (slots : List Nat) (us : List Use) (n : Nat) (fmtOk : List Tag → Bool) (tagOk : Bool)
    (r : Ref) : Verdict :=
  let t := s.thr r
  let h := s.halfOf r
  let sl := slots.map fun k => h.slots.getD k default
  if !s.inTables r [] slots then .fail (illegalFault rRange)
  else if t.poisoned us then .fail poisonFault
  else if n = 0 then .fail (illegalFault rValue)
  else match s.notReady r slots with
    | some k => .wait (.slotReady k (s.slotNow r k))
    | none =>
      if !tagOk || !fmtOk (sl.map (·.fmt)) then .fail (plainFault .format)
      else if sl.any fun x => decide (x.len < n * elemBytes x.fmt) then .fail { cause := .scratchBounds }
      else if sl.any fun x => x.err then .fail poisonFault
      else if sl.any fun x => h.scratchAway x.off (n * elemBytes x.fmt) then .wait .handover
      else if !(s.active i).all (fun q => s.scratchMay q 0 true && !s.drainsScratch q) then .wait .performed
      else s.reportRoom r .run

/-- F32 or BF16x2 state, and a gradient in F32, BF16x2 or F16x2, which stands last (R338). -/
def optFmts (l : List Tag) : Bool :=
  (l.dropLast.all fun t => t == tagF32 || t == tagBF16) &&
    (l.getLast?.any fun t => t == tagF32 || t == tagBF16 || t == tagF16)

/-- The float format of a slot FMT. -/
def slotFmt (t : Tag) : Fmt := (elemFmt t).getD .f32

/-- The parameters of an optimiser: `k` floats from the block at Z (R338). -/
def Thread.params (t : Thread) (z : BitVec 6) (k : Nat) : List Num :=
  (List.range k).map fun j => Fmt.f32.decode (t.blockWord z.toNat j).toNat
/-- The parameters are tagged F32 (R338). -/
def Thread.paramTags (t : Thread) (z : BitVec 6) (k : Nat) : Bool :=
  (List.range k).all fun j => t.blockTag z.toNat j == tagF32

/-- The parameter registers that are read: `k` floats and the count. -/
def paramUses (z : BitVec 6) (k : Nat) : List Use :=
  ((List.range k).map fun j => u1 (z + BitVec.ofNat 6 j)) ++ [u1 (z + 7)]

/-- The mode of a rounding of a lane's hint. -/
def Thread.drawMode (t : Thread) (draw : Nat) : Mode := { rm := t.rm, sat := t.sat, rnd := Config.srDraw draw }

/-- OADAM or OSGD on `slots`, the gradient's last, with `k` float parameters and `draws` roundings to an element;
`elem` is the element function on formats, parameters, modes and operands (R338, R339). -/
def State.optimise (s : State) (i : Instr) (slots : List Nat) (z : BitVec 6) (k draws : Nat)
    (elem : List Fmt → List Num → (Nat → Mode) → List Num → List Nat × ElemFlags) : State :=
  let count (t : Thread) : Nat := (t.blockWord z.toNat 7).toNat
  s.collective i (fun r =>
    s.elemCheck i slots (paramUses z k) (count (s.thr r)) optFmts ((s.thr r).paramTags z k) r) fun s1 rs =>
    match rs with
    | [] => s1
    | r :: _ =>
      let t := s.thr r
      let fmts := slots.map fun j => ((s.halfOf r).slots.getD j default).fmt
      let fs := fmts.map slotFmt
      let ps := t.params z k
      s.sweep s1 r slots (fmts.map elemBytes) (count t) draws fun e bits =>
        let xs := (fs.zip bits).map fun p => p.1.decode p.2
        if xs.all Num.finite then elem fs ps (fun j => t.drawMode (s.drawn + draws * e + j)) xs
        else ([], { conds := 0, negv := false, nonfin := true })

/-- OADAM (R338 to R340). -/
def execOadam (g : BitVec 3) (x y z : BitVec 6) (s : State) : Host.Outcome State Fault Refusal :=
  .next (s.optimise (.oadam g x y z) [x.toNat, x.toNat + 1, x.toNat + 2, y.toNat] z 7 3 fun fs ps md xs =>
    adamElem fs ps md (xs.getD 0 .nan) (xs.getD 1 .nan) (xs.getD 2 .nan) (xs.getD 3 .nan))

/-- OSGD (R338 to R340). -/
def execOsgd (g : BitVec 3) (x y z : BitVec 6) (s : State) : Host.Outcome State Fault Refusal :=
  .next (s.optimise (.osgd g x y z) [x.toNat, x.toNat + 1, y.toNat] z 3 2 fun fs ps md xs =>
    sgdElem fs ps md (xs.getD 0 .nan) (xs.getD 1 .nan) (xs.getD 2 .nan))

/-! ## VRED (R341) -/

/-- The format pairs of VRED, destination then source; VRED.MAX takes like formats only (R341). -/
def vredFmts (isMax : Bool) : List Tag → Bool
  | [d, f] =>
    (d == f && (d == tagF32 || d == tagBF16 || d == tagF16 || d == tagI32)) ||
      (!isMax && d == tagF32 && (f == tagBF16 || f == tagF16))
  | _ => false

/-- One element of VRED.ADD (R341). -/
def vredAddElem (d f : Tag) (m : Mode) (x y : Nat) : Nat × Conds :=
  if d = tagI32 then
    let v := sintOf 32 x + sintOf 32 y
    let c := satInt v (-(2 ^ 31)) (2 ^ 31 - 1)
    if m.sat then ((BitVec.ofInt 32 c).toNat, if c = v then 0 else cOVF) else ((BitVec.ofInt 32 v).toNat, 0)
  else
    let a := addNum m ((slotFmt d).decode x) ((slotFmt f).decode y)
    let r := round (slotFmt d) m a.1
    (r.1, r.2 ||| a.2)

/-- One element of VRED.MAX (R341). -/
def vredMaxElem (d : Tag) (x y : Nat) : Nat :=
  if d = tagI32 then (if sintOf 32 x < sintOf 32 y then y else x) else minMaxElem (slotFmt d) false x y

/-- VRED on a destination and a source slot (R341). -/
def State.vred (s : State) (i : Instr) (isMax : Bool) (x y z : BitVec 6) (draws : Nat)
    (elem : Tag → Tag → Mode → Nat → Nat → Nat × Conds) : State :=
  let slots := [x.toNat, y.toNat]
  let count (t : Thread) : Nat := (t.val32 z.toNat).toNat
  s.collective i (fun r => s.elemCheck i slots [u1 z] (count (s.thr r)) (vredFmts isMax) true r) fun s1 rs =>
    match rs with
    | [] => s1
    | r :: _ =>
      let t := s.thr r
      let fmts := slots.map fun j => ((s.halfOf r).slots.getD j default).fmt
      s.sweep s1 r slots (fmts.map elemBytes) (count t) draws fun e bits =>
        let v := elem (fmts.getD 0 0) (fmts.getD 1 0) (t.drawMode (s.drawn + draws * e)) (bits.getD 0 0) (bits.getD 1 0)
        ([v.1], { conds := v.2, negv := false, nonfin := false })

/-- VRED.ADD (R341). -/
def execVredAdd (g : BitVec 3) (x y z : BitVec 6) (s : State) : Host.Outcome State Fault Refusal :=
  .next (s.vred (.vredAdd g x y z) false x y z 1 vredAddElem)

/-- VRED.MAX (R341). -/
def execVredMax (g : BitVec 3) (x y z : BitVec 6) (s : State) : Host.Outcome State Fault Refusal :=
  .next (s.vred (.vredMax g x y z) true x y z 0 fun d _ _ a b => (vredMaxElem d a b, 0))

end Sys2Proof.Machine
end

