-- ==== Sys2Proof/Machine/Plinth.lean ====
section
/-! DEFINITION. The plinth engines performing MMV: vectors, weights by blocks of 256 bytes, results, faults and poison
(R27, R93, R335 to R337). -/

namespace Sys2Proof.Machine

open Sys2Proof

/-- The slot FMT of MMV's weights: BF16, E4M3, E5M2, INT4 (R335). -/
def mmvTag (c : Cmd) : Tag := match c.fmt.toNat with | 0 => tagBF16 | 1 => tagE4M3 | 2 => tagE5M2 | _ => tagI4
/-- The weights are INT4 and their rows carry a scale (R335). -/
def Cmd.mmvInt (c : Cmd) : Bool := mmvTag c == tagI4
/-- Bytes of a row's elements (R335). -/
def Cmd.mmvRowBytes (c : Cmd) : Nat := mmvK c.desc * matHalf (mmvTag c) / 2
/-- RP of R335. -/
def Cmd.mmvPitch (c : Cmd) : Nat := (c.mmvRowBytes + (if c.mmvInt then 4 else 0) + 255) / 256 * 256

/-- An access of MMV `n` translated in one step; a fault stops it, and a walk that must wait leaves it where it is (R155,
R337). -/
def State.mmvAt (s : State) (n : Nat) (va : BitVec 64) (need : Need) (acc : BitVec 3) (go : State → Leaf → Nat → State) :
    State :=
  let c := s.cmds.getD n default
  match s.walkNow c.core c.asid c.root c.cm va need acc with
  | (s1, .ok l pa) => go s1 l pa
  | (s1, .fault f) => s1.modCmd n fun x => { x with fault := some { f with info := c.kind.code } }
  | (s1, .walk) => s1

/-- The stack that holds the first weight of an MMV, if its translation finds one (R336, R337). -/
def State.mmvStack (s : State) (c : Cmd) : Option Nat :=
  let va := mmvBase c.desc 0
  let leaf := (s.tlbLookup c.core c.asid va).orElse fun _ =>
    match s.walk (dieOfCore c.core) c.asid c.root va with
    | .leaf l .. => some l
    | .fault .. => none
  match leaf with
  | some l => if l.plinth ∧ spaceOf (l.pa va) = .hbm then some (stackOf (l.pa va)) else none
  | none => none

/-- An access that MMV `n` waits for is under way: vectors, an old value, or weights. -/
def State.mmvWaits (s : State) (n : Nat) : Bool :=
  s.jobOut (fun j => j == .vector n || j == .oldY n) || s.hbmq.any fun q => q.load == .weights n

/-- The next part of the vectors, as far as its page goes, is read as an access of the command's class (R93, R337). -/
def State.mmvVector (s : State) (n : Nat) : State :=
  let c := s.cmds.getD n default
  let va := addNat (mmvBase c.desc 1) c.vecs.length
  let k := min (2 * (mmvNv c.desc * mmvK c.desc) - c.vecs.length) (65536 - slice va 0 16)
  s.mmvAt n va { rd := true } 5 fun s1 l pa => s1.copyFlight c (.vector n) .load [] [] (cutLines va l (k + 1) pa k 0)

/-- Bytes of a row's weights, its scale included (R335). -/
def Cmd.mmvRowAll (c : Cmd) : Nat := c.mmvRowBytes + if c.mmvInt then 4 else 0

/-- The next block of a row's weights, or its scale, is asked of its pseudo-channel, in the command's class: of a
plinth-laid page of the matrix's stack, or BAD_PLINTH (R27, R92, R93, R335, R336). -/
def State.mmvWeight (s : State) (n : Nat) : State :=
  let c := s.cmds.getD n default
  let done := c.wts.length
  let base := addNat (mmvBase c.desc 0) (c.row * c.mmvPitch)
  let (va, k) := if done < c.mmvRowBytes then (addNat base done, min 256 (c.mmvRowBytes - done))
    else (addNat base (c.mmvPitch - 4), 4)
  s.mmvAt n va { rd := true } 5 fun s1 l pa =>
    let a := imageAddr true pa
    if !l.plinth || spaceOf pa != .hbm || (c.stack.getD (stackOf pa)) != stackOf pa then
      s1.modCmd n fun x => { x with
        fault := some { transFault rBadPlinth (BitVec.ofNat 2 l.level) 5 va with info := c.kind.code } }
    else if (s1.homeOf pa).isNone then s1.modCmd n fun x => { x with wts := x.wts ++ List.replicate k (0, true) }
    else
      let q : HbmReq := { channel := channelOf a, line := a, harvest := s.harvest c.own.team, load := .weights n, aged := false,
                          bytes := k, since := s.mem8 (dieOfPa pa) }
      { s1 with hbmq := s1.hbmq ++ [q] }.modCmd n fun x => { x with stack := some (stackOf pa) }

/-- A block of weights has been read (R93). -/
def State.mmvTake (s : State) (n a k : Nat) : State :=
  let bs := s.imageRead a k
  s.modCmd n fun x => { x with wts := x.wts ++ bs }

/-- The weights of a row as values (R336). -/
def Cmd.mmvValues (c : Cmd) (bs sc : List (Byte × Bool)) : List Val :=
  let es := elemList (matHalf (mmvTag c)) (bs.map (·.1))
  if c.mmvInt then
    let k := Fmt.f32.decode (ofLe (sc.map (·.1)))
    es.map fun q => (mulNum k (intNum (sintOf 4 q)), mulInvalid k (intNum (sintOf 4 q)))
  else es.map fun q => (((elemFmt (mmvTag c)).getD .f32).decode q, false)

/-- One result: the sum over the blocks in order, and its conditions (R336). -/
def mmvSum (perBlock : Nat) (old : Nat) (w x : List Val) : Nat × Conds :=
  let n := (w.length + perBlock - 1) / perBlock
  accumulate Mode.rne old (chunks perBlock n w) (chunks perBlock n x)

/-- The address of result y[v][r] of the row in hand. -/
def Cmd.mmvY (c : Cmd) : BitVec 64 := addNat (mmvBase c.desc 2) (4 * (c.pos * mmvRows c.desc + c.row))

/-- The old value of the next result is read (R336). -/
def State.mmvOld (s : State) (n : Nat) : State :=
  let c := s.cmds.getD n default
  s.mmvAt n c.mmvY { rd := true, wr := true } 6 fun s1 l pa =>
    s1.copyFlight c (.oldY n) .load [] [] (cutLines c.mmvY l 5 pa 4 0)

/-- The command past a result that it has sent. -/
def Cmd.mmvNext (c : Cmd) : Cmd :=
  if c.pos + 1 < mmvNv c.desc then { c with pos := c.pos + 1, oldY := [] }
  else { c with row := c.row + 1, pos := 0, wts := [], oldY := [] }

/-- The next result of the row is computed and sent; an uncorrectable input makes it so, and is recorded (R156, R336). -/
def State.mmvResult (s : State) (n : Nat) : State :=
  let c := s.cmds.getD n default
  s.mmvAt n c.mmvY { rd := mmvAcc c.desc, wr := true } 6 fun s1 l pa =>
    let xs := chunks 2 (mmvK c.desc) ((c.vecs.drop (2 * (c.pos * mmvK c.desc))).take (2 * mmvK c.desc))
    let bad := (c.wts ++ c.oldY).any (·.2) || xs.any fun b => b.any (·.2)
    let y := mmvSum (512 / matHalf (mmvTag c)) (ofLe (c.oldY.map (·.1)))
      (c.mmvValues (c.wts.take c.mmvRowBytes) (c.wts.drop c.mmvRowBytes))
      (xs.map fun b => (Fmt.bf16.decode (ofLe (b.map (·.1))), false))
    let ps := cutLines c.mmvY l 5 pa 4 0
    let s2 := s1.modCmd n fun x => { x.mmvNext with wrote := x.wrote ++ ps.map fun p => lineOf p.addr }
    if bad then
      (s2.errorRecord (dieOfCore c.core) (recordUnit pa) 1 (s.team c.own.team).ctxid pa (BitVec.ofNat 64 c.core)).copyFlight c (.result n) .store
        (leBytes 4 0) [0, 1, 2, 3] ps
    else (s2.orEstat c.own.team y.2).copyFlight c (.result n) .store (leBytes 4 y.1) [] ps

/-- A started MMV has nothing more to do: done, faulted, or stopped at a page (R157, R337). -/
def Cmd.mmvOver (c : Cmd) : Bool :=
  let page (r : Nat) : Nat := (addNat (mmvBase c.desc 0) (r * c.mmvPitch)).toNat / 65536
  decide (mmvRows c.desc ≤ c.row) || c.fault.isSome ||
    (c.stop && c.pos == 0 && c.wts.isEmpty && (c.row == 0 || page c.row != page (c.row - 1)))

/-- What a started MMV does next: vectors, then row by row weights and results (R336, R337). -/
def State.mmvStep (s : State) (n : Nat) : State :=
  let c := s.cmds.getD n default
  if c.vecs.length < 2 * (mmvNv c.desc * mmvK c.desc) then s.mmvVector n
  else if c.wts.length < c.mmvRowAll then s.mmvWeight n
  else if mmvAcc c.desc && c.oldY.isEmpty then s.mmvOld n
  else s.mmvResult n

/-- An MMV ends: its lines leave the L1, its batches take it, a fault sets CPSTAT.FAULT and ESTAT.FAULT (R138, R155, R158,
R337). -/
def State.mmvFinish (s : State) (n : Nat) : State :=
  let c := s.cmds.getD n default
  let fault := c.fault.orElse fun _ => c.countFault
  let s1 := ((s.modCmd n fun x => { x with stage := .complete }).dropWrote c).batchesEnd c fault
  if fault.isSome then (s1.cpstatFault c.own.team).estatFault c.own.team else s1

/-- An MMV that does nothing more ends, after the add of 1 to its counter if it names one (R138, R158, R337). -/
def State.mmvEnd (s : State) (n : Nat) : State :=
  let c := s.cmds.getD n default
  if c.hasCtr then (s.dropWrote c).counterSend n (c.fault.isNone && decide (mmvRows c.desc ≤ c.row)) else s.mmvFinish n

/-- No earlier MMV of the same stack is still to end: a stack's engines run one at a time, in arrival order (R337). -/
def State.mmvTurn (s : State) (n : Nat) : Bool :=
  let c := s.cmds.getD n default
  (s.cmds.take n).all fun x => !(x.kind == .mmv && x.stage != .complete && s.mmvStack x == s.mmvStack c)

/-- PLINTH_MMV_COMPLETE of command `sel`, whose turn it is: it starts, makes its next access, or, with nothing more to do
and none of its accesses under way, ends (R336, R337). -/
def execPlinthMmvComplete (s : State) : Host.Outcome State Fault Refusal :=
  .next (
    let c := s.cmds.getD s.sel default
    if !(c.kind == .mmv && s.mmvTurn s.sel) then s
    else match c.stage with
      | .queued => if c.stop then s.mmvEnd s.sel else s.modCmd s.sel fun x => { x with stage := .started }
      | .counting => if c.countFault.isSome then s.mmvFinish s.sel else s
      | .started =>
        if s.mmvWaits s.sel then s
        else if !c.mmvOver then s.mmvStep s.sel
        else if s.jobOut (· == .result s.sel) then s
        else s.mmvEnd s.sel
      | _ => s)

end Sys2Proof.Machine
end

