-- ==== Sys2Proof/Machine/Path.lean ====
section
/-! DEFINITION. The way of an access: egress ports, home slices and interfaces, pseudo-channels, responses; fills of the
instruction cache, walks, and the drain of committed regions (R35, R76, R79, R80, R85, R87, R92, R120, R293, R296, R316). -/

namespace Sys2Proof.Machine

open Sys2Proof

/-! ## Egress ports (R79, R80) -/

/-- The virtual channel and input port of a packet, as one number (R79). -/
def Packet.vc (p : Packet) : Nat := 4 * p.input + (if p.harvest then 2 else 0) + if p.resp then 1 else 0

/-- The heads of a port's FIFOs, by place: the first packet of each virtual channel and input port. -/
def Port.heads (x : Port) : List Nat :=
  (List.range x.fifo.length).filter fun k =>
    let p := x.fifo.getD k default
    !(x.fifo.take k).any fun q => q.vc == p.vc

/-- How far an input port stands after a winner's in round-robin order (R80). -/
def turnsAfter (last input : Nat) : Nat := (input + 127 - last) % 128

/-- The head of a list that round-robin takes, after input port `last`. -/
def Port.nextTurn (x : Port) (last : Nat) : List Nat → Option Nat
  | [] => none
  | k :: ks =>
    match x.nextTurn last ks with
    | none => some k
    | some j =>
      let d (n : Nat) : Nat := turnsAfter last (x.fifo.getD n default).input
      if d k ≤ d j then some k else some j

/-- The heads of highest priority, and among those the responses if there are any (R80 rule 2). -/
def Port.best (x : Port) (ks : List Nat) : List Nat :=
  let p (k : Nat) : Packet := x.fifo.getD k default
  let top := ks.foldl (fun m k => max m (p k).prio) 0
  let a := ks.filter fun k => (p k).prio == top
  if a.any fun k => (p k).resp then a.filter fun k => (p k).resp else a

/-- The head that a port grants among those with credit, and whether rule 1 grants it (R80). -/
def Port.winner (x : Port) (blocked : List Nat) : Option (Nat × Bool) :=
  let p (k : Nat) : Packet := x.fifo.getD k default
  let ks := x.heads.filter fun k => !blocked.contains (p k).vc
  let sat := ks.filter fun k => (p k).harvest && decide (4096 ≤ (p k).age)
  let g := ks.filter fun k => !(p k).harvest
  let h := ks.filter fun k => (p k).harvest
  if x.sinceSat = 4095 ∧ sat.isEmpty = false then (x.nextTurn x.lastSat sat).map fun k => (k, true)
  else if g.isEmpty then (x.nextTurn x.last (x.best h)).map fun k => (k, false)
  else (x.nextTurn x.last (x.best g)).map fun k => (k, false)

/-- The ages of the heads at these places grow by a cycle (R80). -/
def Port.ageHeads (x : Port) (ks : List Nat) : Port :=
  { x with fifo := ks.foldl (fun l k => l.modify k fun p => { p with age := min (p.age + 1) 4096 }) x.fifo }

/-- A port changed by its identifier. -/
def State.modPort (s : State) (id : Nat) (f : Port → Port) : State :=
  { s with ports := s.ports.map fun x => if x.id = id then f x else x }

/-- PACKET_HOP: one network cycle of an egress port, with the virtual channels without credit: the winner leaves for its
next hop, the other heads age (R79, R80). -/
def execPacketHop (port : Nat) (blocked : List Nat) (s : State) : Host.Outcome State Fault Refusal :=
  .next (
    match s.ports.find? fun x => x.id == port with
    | none => s
    | some x =>
      match x.winner blocked with
      | none => s.modPort port fun y =>
          { y.ageHeads y.heads with sinceSat := min (y.sinceSat + 1) 4095 }
      | some (k, sat) =>
        let p := x.fifo.getD k default
        let s1 := s.modPort port fun y =>
          let z := y.ageHeads (y.heads.filter (· != k))
          { z with
            fifo := z.fifo.eraseIdx k, last := p.input, lastSat := if sat then p.input else z.lastSat
            sinceSat := if sat then 0 else min (z.sinceSat + 1) 4095 }
        s1.packetGo { p with input := port % 128 })

/-- PACKET_AGE_SATURATE at port `sel`: the network cycle in which a head that has aged 4,095 cycles saturates, or wins
(R80). -/
def execPacketAgeSaturate (s : State) : Host.Outcome State Fault Refusal :=
  match s.ports.find? fun x => x.id == s.sel with
  | some x => if x.heads.any fun k => (x.fifo.getD k default).age == 4095 then execPacketHop s.sel [] s else .next s
  | none => .next s

/-! ## At the home (R83, R85, R87, R120, R427) -/

/-- A discarded store or atomic is recorded (R83, R423, R427, R436). -/
def State.recordLost (s : State) (f : Flight) (p : Piece) : State :=
  s.errorRecord (dieOfCore f.core) (recordUnit p.pa) 1 (s.team f.own.team).ctxid p.pa (BitVec.ofNat 64 f.core)

/-- The bytes of a store that a piece carries. -/
def Flight.pieceBytes (f : Flight) (p : Piece) : List Byte := (f.bytes.drop p.off).take p.len

/-- The address space and launch of an access, for REDDOOR (R430). -/
def State.doorOf (s : State) (f : Flight) : Door :=
  { space := { asid := f.asid, root := (s.team f.own.team).xroot }, launch := some (s.team f.own.team).launch }

/-- The L2 holds every byte of a piece (R85). -/
def State.l2Has (s : State) (p : Piece) : Bool :=
  match s.l2Line (lineOf p.addr) with
  | some x => lineMask (p.addr % 128) p.len &&& x.valid == lineMask (p.addr % 128) p.len
  | none => false

/-- A piece must go to its pseudo-channel first: the L2 lacks bytes of it, and its line has not come for it (R85). -/
def State.misses (s : State) (p : Piece) : Bool := spaceOf p.pa == .hbm && !p.fetched && !s.l2Has p

/-- A piece goes to its pseudo-channel (R85, R92). -/
def State.toHbm (s : State) (n k : Nat) : State :=
  let f := s.flights.getD n default
  let p := f.pieces.getD k default
  { s.modPiece n k fun q => { q with stage := .hbm } with
    hbmq := s.hbmq ++ [{ channel := channelOf p.addr, line := lineOf p.addr, harvest := f.harvest, load := .piece n k,
                         aged := false, bytes := 128, since := s.mem8 (dieOfPa p.pa) }] }

/-- What a load of a core leaves in its L1 when its home performs it: a thread's own load of an RC or UO page, or PREF,
fills the line, but for STREAM; another load of a thread, which may have returned something newer, removes it (R73, R120,
R132, R135, R230). -/
def State.l1Loaded (s : State) (f : Flight) (p : Piece) : State :=
  let line := lineOf p.addr
  match f.job with
  | .thread =>
    if p.kind = .so ∨ f.ccls = 1 then (s.l1Renew f.core line).l1Drop f.core line else (s.l1Renew f.core line).l1Fill f.core line f.const
  | .pref fill => if fill then (s.l1Renew f.core line).l1Fill f.core line false else s
  | .record _ => (s.l1Renew f.core line).l1Drop f.core line
  | _ => s

/-- What a store of a core does to its L1 when its home performs it: an engine's is removed only as its command completes
(R74, R121, R132, R138). -/
def State.l1Stored (s : State) (f : Flight) (p : Piece) : State :=
  match f.job with
  | .thread => if p.kind = .so then s.l1Drop f.core (lineOf p.addr) else s.l1Update f.core p.addr (f.pieceBytes p)
  | .record _ => s.l1Drop f.core (lineOf p.addr)
  | _ => s

/-- A load's piece performed at its home. -/
def State.loadPiece (s : State) (n k : Nat) : State :=
  let f := s.flights.getD n default
  let p := f.pieces.getD k default
  match spaceOf p.pa with
  | .device =>
    let x := s.devRead p.pa p.len
    x.1.donePiece n k (x.2.map fun b => (b, false))
  | .hbm =>
    ((s.l2Touch p.pa ((s.homeOf p.pa).getD 0) (lineOf p.addr) f.harvest f.ccls 0).l1Loaded f p).donePiece n k
      (s.imageRead p.addr p.len)
  | _ => (s.l1Loaded f p).donePiece n k (s.imageRead p.addr p.len)

/-- A store's piece performed at its home or interface, with the bytes that it marks as uncorrectable; none while a device
register must wait for it. -/
def State.storePiece (s : State) (n k : Nat) : Option State :=
  let f := s.flights.getD n default
  let p := f.pieces.getD k default
  match spaceOf p.pa with
  | .device => (s.devWrite (some (s.doorOf f)) p.pa (f.pieceBytes p)).map fun x => x.donePiece n k []
  | _ =>
    let s1 := s.homeWrite p.pa p.addr (f.pieceBytes p) f.harvest f.ccls
    let mine := f.marks.filter fun m => decide (p.off ≤ m) && decide (m < p.off + p.len)
    let s2 := mine.foldl (fun x m => x.homePoison (p.addr + (m - p.off)) 1) s1
    some ((s2.l1Stored f p).donePiece n k [])

/-! ### Entries of committed regions (R144, R316, R334) -/

/-- An entry that is not performed is recorded (R316, R436). -/
def State.entryRecord (s : State) (t core : Nat) (unit : Nat) (a : Nat) : State :=
  s.errorRecord (dieOfCore core) unit 1 (s.team t).ctxid a (BitVec.ofNat 64 core)

/-- The old value of an atomic at its home, with the registers of the device space read as they stand. -/
def State.atomOld (s : State) (p : Piece) : State × List (Byte × Bool) :=
  match spaceOf p.pa with
  | .device =>
    let x := s.devRead p.pa p.len
    (x.1, x.2.map fun b => (b, false))
  | _ => (s, s.imageRead p.addr p.len)

/-- A store or atomic entry performed at its home or interface; none while it must wait (R74, R132, R316). -/
def State.entryGlobal (s : State) (t core : Nat) (e : BufEntry) : Option State :=
  let img := e.plinth.getD e.addr
  let door : Door := { space := { asid := e.asid, root := (s.team t).xroot }, launch := some (s.team t).launch }
  match e.op with
  | .store =>
    if spaceOf e.addr != .device && e.parts.any (fun p => (s.imageRead (img + p.off) p.bytes.length).any (·.2)) then
      some (s.entryRecord t core 0x17 e.addr)
    else e.parts.foldl (fun (x : Option State) p => x.bind fun y =>
      if spaceOf e.addr = .device then y.devWrite (some door) (e.addr + p.off) p.bytes
      else
        let z := y.homeWrite (e.addr + p.off) (img + p.off) p.bytes (s.harvest t) 0
        some (if e.kind = .so then z.l1Drop core (lineOf img) else z.l1Update core (img + p.off) p.bytes)) (some s)
  | .atom op wide b tag cmp rm sat =>
    let n := if wide then 8 else 4
    let (s1, old) := s.atomOld { (default : Piece) with pa := e.addr, addr := img, len := n }
    if old.any (·.2) then some (s1.entryRecord t core 0x17 e.addr)
    else
      let bs := leBytes n (atomValue op wide tag rm sat s1.drawn (bytes64 old) b cmp).toNat
      let s2 := { s1 with drawn := s1.drawn + 8 }
      if spaceOf e.addr = .device then s2.devWrite (some door) e.addr bs
      else some ((s2.homeWrite e.addr img bs (s.harvest t) 0).l1Drop core (lineOf img))
  | _ => some s

/-- A deferred drained tile performed as one write or one add-on-store; its conditions enter ESTAT, its lines leave the L1,
and its batches take it (R87, R138, R334). -/
def State.entryDrain (s : State) (t core : Nat) (e : BufEntry) (d : Drain) : State :=
  let plinth := e.plinth != some e.addr
  let (s1, conds) := s.drainPut d e.addr plinth t core
  ((d.lines e.addr plinth).foldl (fun x l => x.l1Drop core (lineOf l)) (s1.orEstat t conds)).endJoins t e.joins none

/-- An entry that does not get through is recorded; a drain's batches take the fault (R83, R316, R333). -/
def State.entryLost (s : State) (t core : Nat) (e : BufEntry) : State :=
  let s1 := s.entryRecord t core 0x13 e.addr
  if e.drain.isNone then s1
  else (s1.estatFault t).endJoins t e.joins (some { poisonFault with acc := 6, va := e.va, info := CmdKind.drain.code })

/-- The access of a group's oldest committed entry is performed, and the entry leaves the drain (R316). -/
def State.entryPiece (s : State) (n k t g : Nat) : State :=
  let f := s.flights.getD n default
  match (s.group t g).draining with
  | [] => s.donePiece n k []
  | e :: rest =>
    let lost := s.pieceLost f (f.pieces.getD k default)
    let done := if lost then some (s.entryLost t f.core e)
      else match e.drain with
        | some d => some (s.entryDrain t f.core e d)
        | none => s.entryGlobal t f.core e
    match done with
    | some x => (x.modGroup t g fun y => { y with draining := rest }).donePiece n k [] lost
    | none => s

/-! ### Loads, stores and atomics -/

/-- SLICE_ACCESS of piece `sel2` of access `sel`, a load or a store: performed at its home slice or interface, or sent to
HBM when the L2 lacks its bytes (R85, R94, R119, R120). An add-on-store is performed by events of its own (R87). -/
def execSliceAccess (s0 : State) : Host.Outcome State Fault Refusal :=
  .next (
    let n := s0.sel
    let k := s0.sel2
    let f := s0.flights.getD n default
    let p := f.pieces.getD k default
    if !s0.served n k || f.op.isAtomic then s0
    else
      let s := s0.noteAged f p
      match f.job, f.op with
      | .entry t g, _ => s.entryPiece n k t g
      | _, .load =>
        if s.pieceLost f p then s.donePiece n k (List.replicate p.len (0, true)) true
        else if s.misses p then s.toHbm n k else s.loadPiece n k
      | _, .store =>
        if s.pieceLost f p then (s.recordLost f p).donePiece n k [] true
        else if p.len = 4096 then s0
        else (s.storePiece n k).getD s0
      | _, _ => s0)

/-- The new value of an atomic or a counter's add, and how many values its rounding may draw (R158, R295). -/
def State.atomNew (s : State) (op : AccOp) (old : BitVec 64) : Option (BitVec 64 × Nat) :=
  match op with
  | .atom p wide b tag cmp rm sat => some (atomValue p wide tag rm sat s.drawn old b cmp, 8)
  | .count inc mark => some ((old + inc) ||| (if mark then BitVec.ofNat 64 (2 ^ 63) else 0), 0)
  | _ => none

/-- FAR_ATOMIC of piece `sel2` of access `sel`: performed at its home slice, in its place of the line's order, or at the
interface; its line leaves the issuing core's L1 (R74, R87, R94, R134, R158, R295 to R297). An uncorrectable old value
stops it and is recorded. -/
def execFarAtomic (s0 : State) : Host.Outcome State Fault Refusal :=
  .next (
    let n := s0.sel
    let k := s0.sel2
    let f := s0.flights.getD n default
    let p := f.pieces.getD k default
    if !s0.served n k || !f.op.isAtomic then s0
    else
      let s := s0.noteAged f p
      let lost := s.pieceLost f p
      if !lost && s.misses p then s.toHbm n k
      else match f.job with
        | .entry t g => s.entryPiece n k t g
        | _ =>
          if lost then (s.recordLost f p).donePiece n k (List.replicate p.len (0, true)) true
          else
            let (s1, old) := s.atomOld p
            if old.any (·.2) then ((s1.recordLost f p).l1Drop f.core (lineOf p.addr)).donePiece n k old
            else match s1.atomNew f.op (bytes64 old) with
              | none => s0
              | some (new, draws) =>
                let s2 := { s1 with drawn := s1.drawn + draws }
                let bs := leBytes p.len new.toNat
                match spaceOf p.pa with
                | .device =>
                  match s2.devWrite (some (s.doorOf f)) p.pa bs with
                  | some x => x.donePiece n k old
                  | none => s0
                | _ => ((s2.homeWrite p.pa p.addr bs f.harvest 0).l1Drop f.core (lineOf p.addr)).donePiece n k old)

/-! ## Pseudo-channels (R91, R92) -/

/-- The place in the queue of the request that a pseudo-channel serves next, and the bytes it takes from the bucket: the
oldest of the guaranteed and of the harvest requests, the latter with tokens or aged, or borrowed (R92). DESIGN CHOICE (log
2): an aged request takes what tokens there are when they are too few. -/
def State.hbmNext (s : State) (ch : Nat) : Option (Nat × Nat) :=
  let x := s.hbmStacks.getD (ch / 128) default
  let mine := (List.range s.hbmq.length).filter fun k => (s.hbmq.getD k default).channel == ch
  let g := mine.find? fun k => !(s.hbmq.getD k default).harvest
  let h := mine.find? fun k => (s.hbmq.getD k default).harvest
  let cost := match h with
    | some k =>
      let q := s.hbmq.getD k default
      if 64 * q.bytes ≤ x.tokens then some (64 * q.bytes) else if q.aged then some x.tokens else none
    | none => none
  match g, h, cost with
  | some a, some b, some c => if a < b then some (a, 0) else some (b, c)
  | some a, _, _ => some (a, 0)
  | none, some b, some c => some (b, c)
  | none, some b, none => if x.borrow then some (b, 0) else none
  | none, none, _ => none

/-- HBM_ACCESS at pseudo-channel `sel`: the line comes into the L2 and its access is next at its home, a block of weights
goes to its plinth engine, a written-back line is stored (R85, R92, R93). -/
def execHbmAccess (s : State) : Host.Outcome State Fault Refusal :=
  .next (
    match s.hbmNext s.sel with
    | none => s
    | some (i, cost) =>
      let q := s.hbmq.getD i default
      let s1 := { s with
        hbmq := s.hbmq.eraseIdx i
        hbmStacks := s.hbmStacks.modify (s.sel / 128) fun x => { x with tokens := x.tokens - cost } }
      match q.load with
      | .piece n k =>
        let f := s.flights.getD n default
        let p := f.pieces.getD k default
        ((s1.l2Touch p.pa ((s.homeOf p.pa).getD 0) q.line f.harvest f.ccls (BitVec.allOnes 128)).findErrors
          fun a => a == q.line).modPiece n k fun x => { x with stage := .slice, fetched := true }
      | .weights n =>
        (s1.findErrors fun a => decide (lineOf q.line ≤ a) && decide (a < q.line + q.bytes)).mmvTake n q.line q.bytes
      | _ => s1)

/-- HBM_AGED_REQUEST at pseudo-channel `sel`: its oldest harvest request, which has waited 4,096 memory cycles, is treated as
holding tokens, once per 4,096 memory cycles (R92). -/
def execHbmAgedRequest (s : State) : Host.Outcome State Fault Refusal :=
  .next (
    let d := s.sel / 512
    let unit := 64 + s.sel % 512
    match (List.range s.hbmq.length).find? fun k =>
      (s.hbmq.getD k default).channel == s.sel && (s.hbmq.getD k default).harvest with
    | some k =>
      let q := s.hbmq.getD k default
      if q.since + 32768 ≤ s.mem8 d ∧ q.aged = false ∧ (s.die d).agedOpen unit = true then
        { s with hbmq := s.hbmq.modify k fun q => { q with aged := true } }.modDie d fun x => x.agedWin unit
      else s
    | none => s)

/-! ## Responses (R74, R181, R293) -/

/-- A command's add to its counter has been answered: the command ends (R158). -/
def State.counted (s : State) (c : Nat) : State :=
  if (s.cmds.getD c default).kind = .mmv then s.mmvFinish c else s.countDone c

/-- The answer of a command's counter waits for room for the report that the command's end makes (R364). -/
def State.answerWaits (s : State) (f : Flight) : Bool :=
  match f.job with
  | .count n =>
    let c := s.cmds.getD n default
    c.kind == .cpb && !s.roomFor c.own.team (s.copyGroups c.own.team c.half)
  | _ => false

/-- What a thread's own access brings back: a load or atomic writes its registers (R290, R293, R295). -/
def Thread.answered (t : Thread) (n : Nat) (f : Flight) : Thread :=
  let u := match f.op with
    | .load => t.loadWrite f.dst f.wcode f.tag (overlay f.loaded f.fwd)
    | .atom .. => t.atomWrite f.dst (f.wcode == 3) (bytes64 f.loaded) f.tag (f.loaded.any (·.2))
    | _ => t
  { u with pending := t.pending.filter fun p => p.2 != n }

/-- The instruction line that a fetch brings (R76). -/
def Flight.iline (f : Flight) : ILine :=
  let p := f.pieces.getD 0 default
  { core := f.core, line := p.addr, data := f.loaded.map Prod.fst,
    bad := ((f.loaded.map Prod.snd).zipIdx.filter Prod.fst).map fun b => p.addr + b.2, filled := p.arr }

/-- MEMORY_RESPONSE of access `sel`, every piece of which has been answered: a thread's writes its registers, an
instruction line enters its cache, an engine goes on (R74, R76, R290, R293, R295). -/
def execMemoryResponse (s : State) : Host.Outcome State Fault Refusal :=
  .next (
    let n := s.sel
    let f := s.flights.getD n default
    if n < s.flights.length ∧ f.returned = false ∧ (f.pieces.all fun p => p.stage == .done) = true ∧
        s.answerWaits f = false then
      let s1 := s.modFlight n fun x => { x with returned := true, performed := true }
      let s2 := match f.job with
        | .thread => s1.modThr f.own fun t => t.answered n f
        | .fetch =>
          s1.ilinePut f.iline
        | .copyRead c k => s1.copyReadDone c k f
        | .count c => s1.counted c
        | .drain c => s1.drainEnd c (f.pieces.any (·.lost))
        | .vector c => s1.modCmd c fun x => { x with vecs := x.vecs ++ f.loaded }
        | .oldY c => s1.modCmd c fun x => { x with oldY := f.loaded }
        | _ => s1
      s2.sendAll
    else s)

/-! ## Fetch fills and walks (R35, R76) -/

/-- FETCH_FILL for thread `sel2` of team `sel`: the line that its fetch misses is asked of its home slice for its core's
instruction cache, once (R76). -/
def execFetchFill (s : State) : Host.Outcome State Fault Refusal :=
  .next (
    let r : Ref := ⟨s.sel, s.sel2⟩
    let c := s.coreOf r
    match s.fetch r with
    | .wait (.fetch pa plinth) =>
      if s.flights.any fun f => f.job == .fetch && f.core == c && !f.returned && f.pieces.any fun p => p.pa == pa then s
      else
        s.launchFlight (s.agentFlight r.team c .fetch .load []
          (cutLines (s.thr r).wordPc { identityLeaf 0 with kind := 0, plinth := plinth } 2 pa 128 0))
    | _ => s)

/-- The page that a thread waits to have walked: for its instruction, else for its fetch (R35). -/
def State.wantsWalk (s : State) (r : Ref) : Option (BitVec 64 × Need) :=
  match (s.thr r).wait with
  | some (.walk va rd wr ex) => some (va, { rd := rd, wr := wr, ex := ex })
  | _ =>
    match s.fetch r with
    | .wait (.walk va rd wr ex) => some (va, { rd := rd, wr := wr, ex := ex })
    | _ => none

/-- A walk covers an address: it is in the leaf's page, or in the page of 64 KiB whose walk has faulted (R35). -/
def WalkEnd.covers (w : WalkEnd) (va other : BitVec 64) : Bool :=
  let k := match w with
    | .leaf l .. => pageBits l.level
    | .fault .. => 16
  clearLow va k == clearLow other k

/-- The threads of a die that wait for the page of a walk of an address space, each with its address and need (R35). -/
def State.mergedWith (s : State) (die : Nat) (asid : BitVec 16) (root va : BitVec 64) (w : WalkEnd) :
    List (Ref × BitVec 64 × Need) :=
  ((List.range s.teams.length).filter fun t => (s.team t).xasid.setWidth 16 == asid && (s.team t).xroot == root).flatMap fun t =>
    (s.allRefs t).filterMap fun r =>
      if s.dieOf r != die then none
      else match s.wantsWalk r with
        | some (x, need) => if w.covers va x then some (r, x, need) else none
        | none => none

/-- A thread's requester of a walk takes its result, which its own permission check then judges (R33, R35). -/
def State.walkTo (s : State) (die : Nat) (asid : BitVec 16) (w : WalkEnd) (x : WalkResult) (q : Ref × BitVec 64 × Need) : State :=
  let (r, va, need) := q
  let s1 := s.modThr r fun t =>
    { t with walked := { x with va := va, wr := !w.passes t.cm need || x.wr } :: t.walked }
  match s1.tlbFind (dieTlb die) asid va with
  | some l => s1.tlbPut (s.coreOf r) asid va l
  | none => s1

/-- WALK_COMPLETE for thread `sel2` of team `sel`: the walk of its page ends, once nothing waits at the homes, and its leaf
or fault is delivered for their retry to all threads of the die that wait for that page (R22, R25, R35, R36). -/
def execWalkComplete (s : State) : Host.Outcome State Fault Refusal :=
  .next (
    let r : Ref := ⟨s.sel, s.sel2⟩
    match s.wantsWalk r with
    | none => s
    | some (va, _) =>
      let m := s.team r.team
      let asid : BitVec 16 := m.xasid.setWidth 16
      let w := s.walk (s.dieOf r) asid m.xroot va
      let qs := s.mergedWith (s.dieOf r) asid m.xroot va w
      let passes (q : Ref × BitVec 64 × Need) : Bool := w.passes (s.thr q.1).cm q.2.2
      let (s1, x) := s.walkEnd (s.coreOf r) asid va w (qs.any passes) (qs.any fun q => passes q && q.2.2.wr)
      s.atHomes (qs.foldl (fun y q => y.walkTo (s.dieOf r) asid w x q) s1))

/-! ## The drain of committed regions (R144, R316) -/

/-- An access as which an entry of a region's buffer is performed, for one of its threads. -/
def State.entryFlight (s : State) (t : Nat) (e : BufEntry) (thr : Nat) : Flight :=
  { (default : Flight) with
    own := ⟨t, thr⟩, seq := (s.thr ⟨t, thr⟩).seq, bundle := s.stamp, op := e.op, ord := e.ord, scope := e.scope }

/-- The piece as which an entry goes to its home: its block of 16 bytes, or the whole 4 KiB of a drain (R87, R315). -/
def BufEntry.piece (e : BufEntry) : Piece :=
  let a := e.plinth.getD e.addr
  { (default : Piece) with
    pa := e.addr, addr := if e.drain.isSome then a / 4096 * 4096 else a, kind := e.kind, stage := .held
    len := if e.drain.isSome then 4096 else 16, va := e.va, level := e.level, glob := e.glob }

/-- Nothing that must come before an entry is still to be performed (R120, R124 to R131, R316). -/
def State.entryMay (s : State) (t : Nat) (e : BufEntry) : Bool :=
  e.parts.all fun p =>
    let f := s.entryFlight t e p.thr
    let fs := s.fencesOf f.own
    s.flights.all fun x => !(x.own == f.own) || x.performed || x.op.isFence ||
      x.pieces.all fun q => q.performed ||
        !(if e.scratch.isSome then mustPrecede fs x { q with addr := 0, len := 0 } f { e.piece with addr := 1, len := 0, kind := .rc }
          else mustPrecede fs x q f e.piece)

/-- A scratch entry performed at its bank (R316). -/
def State.entryScratch (s : State) (t h core : Nat) (e : BufEntry) : State :=
  match e.op with
  | .store =>
    if e.parts.any fun p => ((s.half t h).scratchRead (e.addr + p.off) p.bytes.length).any (·.2) then
      s.entryRecord t core 0x17 e.addr
    else e.parts.foldl (fun x p => x.modHalf t h fun y => y.scratchWrite (e.addr + p.off) p.bytes) s
  | .atom op wide b tag cmp rm sat =>
    let o := (s.half t h).atomAt e.addr (if wide then 8 else 4) fun old => atomValue op wide tag rm sat s.drawn old b cmp
    let s1 := { s.modHalf t h fun _ => o.2 with drawn := s.drawn + 8 }
    if o.1.2 then s1.entryRecord t core 0x17 e.addr else s1
  | _ => s

/-- The oldest committed entry of a group sets out for its home, in its team's class (R78, R316). -/
def State.entrySend (s : State) (t g core : Nat) (e : BufEntry) : State :=
  (s.modGroup t g fun x => { x with draining := x.draining.modify 0 fun y => { y with sent := true } }).launchFlight
    { s.agentFlight t core (.entry t g) e.op [] [e.piece] with asid := e.asid }

/-- REGION_DRAIN_ENTRY of group `sel2` of team `sel`: the oldest committed entry, once the one before it has been performed,
is performed at its bank or sets out for its home (R144, R316, R334). -/
def execRegionDrainEntry (s : State) : Host.Outcome State Fault Refusal :=
  .next (
    let t := s.sel
    let core := s.groupCore t s.sel2
    match (s.group t s.sel2).draining with
    | [] => s
    | e :: rest =>
      if e.sent || !s.entryMay t e then s
      else match e.scratch with
        | some h => ((s.entryScratch t h core e).modGroup t s.sel2 fun g => { g with draining := rest }).sendAll
        | none => s.entrySend t s.sel2 core e)

end Sys2Proof.Machine
end

