-- ==== Sys2Proof/Machine/Predicate.lean ====
section
/-! DEFINITION. Compares, predicates and select (R253 to R255). -/

namespace Sys2Proof.Machine

open Sys2Proof

/-- The conditions of ICMP (R232, R253). -/
def icmpHolds (n : Nat) (c : BitVec 4) (a b : BitVec n) : Bool :=
  match c.toNat with
  | 0 => a == b
  | 1 => a != b
  | 2 => a.slt b
  | 3 => a.sle b
  | 4 => b.slt a
  | 5 => b.sle a
  | 6 => a.ult b
  | 7 => a.ule b
  | 8 => b.ult a
  | _ => b.ule a

/-- ICMP: 32 bits in both streams, or pairs (R253). -/
def execIcmp (g d : BitVec 3) (a b : BitVec 6) (w : BitVec 1) (c : BitVec 4) (s : State) :
    Host.Outcome State Fault Refusal :=
  .next (s.register (.icmp g d a b w c) fun t u =>
    u.setPred d (if w = 1 then icmpHolds 64 c (t.pairVal a.toNat) (t.pairVal b.toNat)
      else icmpHolds 32 c (t.val32 a.toNat) (t.val32 b.toNat)))

/-- PAND (R254). -/
def execPand (g d a b : BitVec 3) (s : State) : Host.Outcome State Fault Refusal :=
  .next (s.register (.pand g d a b) fun t u => u.setPred d (t.pred a && t.pred b))

/-- POR (R254). -/
def execPor (g d a b : BitVec 3) (s : State) : Host.Outcome State Fault Refusal :=
  .next (s.register (.por g d a b) fun t u => u.setPred d (t.pred a || t.pred b))

/-- PXOR (R254). -/
def execPxor (g d a b : BitVec 3) (s : State) : Host.Outcome State Fault Refusal :=
  .next (s.register (.pxor g d a b) fun t u => u.setPred d (t.pred a != t.pred b))

/-- PANDN (R254). -/
def execPandn (g d a b : BitVec 3) (s : State) : Host.Outcome State Fault Refusal :=
  .next (s.register (.pandn g d a b) fun t u => u.setPred d (t.pred a && !t.pred b))

/-- PNOT (R254). -/
def execPnot (g d a : BitVec 3) (s : State) : Host.Outcome State Fault Refusal :=
  .next (s.register (.pnot g d a) fun t u => u.setPred d (!t.pred a))

/-- PMOV (R254). -/
def execPmov (g d a : BitVec 3) (s : State) : Host.Outcome State Fault Refusal :=
  .next (s.register (.pmov g d a) fun t u => u.setPred d (t.pred a))

/-- PGET: bit j is P[j], bit 0 is 1 (R254). -/
def execPget (g : BitVec 3) (d : BitVec 6) (s : State) : Host.Outcome State Fault Refusal :=
  .next (s.register (.pget g d) fun t u =>
    u.setReg d.toNat { val := (t.preds ||| 1#8).setWidth 64, tag := tagI32 })

/-- PPUT: P1 to P7 from bits 1 to 7 (R254). -/
def execPput (g : BitVec 3) (a : BitVec 6) (s : State) : Host.Outcome State Fault Refusal :=
  .next (s.register (.pput g a) fun t u =>
    { u with preds := ((t.reg a.toNat).val.setWidth 8 &&& 0xFE#8) ||| (u.preds &&& 1#8) })

/-- SEL: data and tag of the selected source (R255). -/
def execSel (g : BitVec 3) (d a b : BitVec 6) (p : BitVec 3) (s : State) : Host.Outcome State Fault Refusal :=
  .next (s.register (.sel g d a b p) fun t u =>
    u.setReg d.toNat (if t.pred p then t.reg a.toNat else t.reg b.toNat))

end Sys2Proof.Machine
end

