-- ==== Sys2Proof/Machine/Dispatch.lean ====
section
/-! DEFINITION. One arm per instruction and event: a direct call of its meaning. -/

namespace Sys2Proof.Machine

open Sys2Proof

/-- The meaning of an instruction or event. -/
def exec (i : Instr) (s : State) : Host.Outcome State Fault Refusal :=
  match i with
  | .iadd g d a b => Sys2Proof.Machine.execIadd g d a b s
  | .isub g d a b => Sys2Proof.Machine.execIsub g d a b s
  | .imul g d a b => Sys2Proof.Machine.execImul g d a b s
  | .imulh g d a b => Sys2Proof.Machine.execImulh g d a b s
  | .imulhu g d a b => Sys2Proof.Machine.execImulhu g d a b s
  | .idiv g d a b => Sys2Proof.Machine.execIdiv g d a b s
  | .idivu g d a b => Sys2Proof.Machine.execIdivu g d a b s
  | .irem g d a b => Sys2Proof.Machine.execIrem g d a b s
  | .iremu g d a b => Sys2Proof.Machine.execIremu g d a b s
  | .imin g d a b => Sys2Proof.Machine.execImin g d a b s
  | .imax g d a b => Sys2Proof.Machine.execImax g d a b s
  | .iminu g d a b => Sys2Proof.Machine.execIminu g d a b s
  | .imaxu g d a b => Sys2Proof.Machine.execImaxu g d a b s
  | .iadds g d a b => Sys2Proof.Machine.execIadds g d a b s
  | .isubs g d a b => Sys2Proof.Machine.execIsubs g d a b s
  | .iabs g d a => Sys2Proof.Machine.execIabs g d a s
  | .and g d a b => Sys2Proof.Machine.execAnd g d a b s
  | .or g d a b => Sys2Proof.Machine.execOr g d a b s
  | .xor g d a b => Sys2Proof.Machine.execXor g d a b s
  | .andn g d a b => Sys2Proof.Machine.execAndn g d a b s
  | .orn g d a b => Sys2Proof.Machine.execOrn g d a b s
  | .xnor g d a b => Sys2Proof.Machine.execXnor g d a b s
  | .shl g d a b => Sys2Proof.Machine.execShl g d a b s
  | .shr g d a b => Sys2Proof.Machine.execShr g d a b s
  | .sar g d a b => Sys2Proof.Machine.execSar g d a b s
  | .rol g d a b => Sys2Proof.Machine.execRol g d a b s
  | .rot g d a b => Sys2Proof.Machine.execRot g d a b s
  | .popc g d a => Sys2Proof.Machine.execPopc g d a s
  | .clz g d a => Sys2Proof.Machine.execClz g d a s
  | .ctz g d a => Sys2Proof.Machine.execCtz g d a s
  | .brev g d a => Sys2Proof.Machine.execBrev g d a s
  | .bfe g d a b => Sys2Proof.Machine.execBfe g d a b s
  | .bfi g d a b => Sys2Proof.Machine.execBfi g d a b s
  | .mov g d a => Sys2Proof.Machine.execMov g d a s
  | .iaddi g d a x_i => Sys2Proof.Machine.execIaddi g d a x_i s
  | .imuli g d a x_i => Sys2Proof.Machine.execImuli g d a x_i s
  | .andi g d a x_i => Sys2Proof.Machine.execAndi g d a x_i s
  | .ori g d a x_i => Sys2Proof.Machine.execOri g d a x_i s
  | .xori g d a x_i => Sys2Proof.Machine.execXori g d a x_i s
  | .shli g d a c => Sys2Proof.Machine.execShli g d a c s
  | .shri g d a c => Sys2Proof.Machine.execShri g d a c s
  | .sari g d a c => Sys2Proof.Machine.execSari g d a c s
  | .movi g d x_i => Sys2Proof.Machine.execMovi g d x_i s
  | .aadd g d a b => Sys2Proof.Machine.execAadd g d a b s
  | .asub g d a b => Sys2Proof.Machine.execAsub g d a b s
  | .aadds g d a b => Sys2Proof.Machine.execAadds g d a b s
  | .aaddu g d a b => Sys2Proof.Machine.execAaddu g d a b s
  | .amov g d a => Sys2Proof.Machine.execAmov g d a s
  | .amuls g d a b => Sys2Proof.Machine.execAmuls g d a b s
  | .amulu g d a b => Sys2Proof.Machine.execAmulu g d a b s
  | .aaddi g d a x_i => Sys2Proof.Machine.execAaddi g d a x_i s
  | .icmp g d a b w c => Sys2Proof.Machine.execIcmp g d a b w c s
  | .pand g d a b => Sys2Proof.Machine.execPand g d a b s
  | .por g d a b => Sys2Proof.Machine.execPor g d a b s
  | .pxor g d a b => Sys2Proof.Machine.execPxor g d a b s
  | .pandn g d a b => Sys2Proof.Machine.execPandn g d a b s
  | .pnot g d a => Sys2Proof.Machine.execPnot g d a s
  | .pmov g d a => Sys2Proof.Machine.execPmov g d a s
  | .pget g d => Sys2Proof.Machine.execPget g d s
  | .pput g a => Sys2Proof.Machine.execPput g a s
  | .sel g d a b p => Sys2Proof.Machine.execSel g d a b p s
  | .voteAny g d a => Sys2Proof.Machine.execVoteAny g d a s
  | .voteAll g d a => Sys2Proof.Machine.execVoteAll g d a s
  | .voteBal g d a => Sys2Proof.Machine.execVoteBal g d a s
  | .shflIdx g d a b => Sys2Proof.Machine.execShflIdx g d a b s
  | .shflUp g d a b => Sys2Proof.Machine.execShflUp g d a b s
  | .shflDown g d a b => Sys2Proof.Machine.execShflDown g d a b s
  | .shflXor g d a b => Sys2Proof.Machine.execShflXor g d a b s
  | .bra g o => Sys2Proof.Machine.execBra g o s
  | .call g o => Sys2Proof.Machine.execCall g o s
  | .ret g a => Sys2Proof.Machine.execRet g a s
  | .jmpr g a => Sys2Proof.Machine.execJmpr g a s
  | .callr g a => Sys2Proof.Machine.execCallr g a s
  | .brx g a b => Sys2Proof.Machine.execBrx g a b s
  | .exit g => Sys2Proof.Machine.execExit g s
  | .nop g => Sys2Proof.Machine.execNop g s
  | .yield g => Sys2Proof.Machine.execYield g s
  | .schsel g d a b => Sys2Proof.Machine.execSchsel g d a b s
  | .fadd g d a b => Sys2Proof.Machine.execFadd g d a b s
  | .fsub g d a b => Sys2Proof.Machine.execFsub g d a b s
  | .fmul g d a b => Sys2Proof.Machine.execFmul g d a b s
  | .fdiv g d a b => Sys2Proof.Machine.execFdiv g d a b s
  | .fmin g d a b => Sys2Proof.Machine.execFmin g d a b s
  | .fmax g d a b => Sys2Proof.Machine.execFmax g d a b s
  | .fsqrt g d a => Sys2Proof.Machine.execFsqrt g d a s
  | .fabs g d a => Sys2Proof.Machine.execFabs g d a s
  | .fneg g d a => Sys2Proof.Machine.execFneg g d a s
  | .fcpys g d a b => Sys2Proof.Machine.execFcpys g d a b s
  | .frcp g d a => Sys2Proof.Machine.execFrcp g d a s
  | .frsq g d a => Sys2Proof.Machine.execFrsq g d a s
  | .fexp2 g d a => Sys2Proof.Machine.execFexp2 g d a s
  | .flog2 g d a => Sys2Proof.Machine.execFlog2 g d a s
  | .fsin g d a => Sys2Proof.Machine.execFsin g d a s
  | .fcos g d a => Sys2Proof.Machine.execFcos g d a s
  | .ftanh g d a => Sys2Proof.Machine.execFtanh g d a s
  | .ffma g d a b => Sys2Proof.Machine.execFfma g d a b s
  | .ffnma g d a b => Sys2Proof.Machine.execFfnma g d a b s
  | .fdot2 g d a b => Sys2Proof.Machine.execFdot2 g d a b s
  | .fdot4 g d a b => Sys2Proof.Machine.execFdot4 g d a b s
  | .fcmp g d a b c => Sys2Proof.Machine.execFcmp g d a b c s
  | .fclass g d a => Sys2Proof.Machine.execFclass g d a s
  | .frint g d a => Sys2Proof.Machine.execFrint g d a s
  | .fstat g d => Sys2Proof.Machine.execFstat g d s
  | .cvt g d a b t => Sys2Proof.Machine.execCvt g d a b t s
  | .cvti g d a b u t => Sys2Proof.Machine.execCvti g d a b u t s
  | .pack g d a b => Sys2Proof.Machine.execPack g d a b s
  | .unpkLo g d a => Sys2Proof.Machine.execUnpkLo g d a s
  | .unpkHi g d a => Sys2Proof.Machine.execUnpkHi g d a s
  | .tagset g d a t => Sys2Proof.Machine.execTagset g d a t s
  | .tagchk g d a t => Sys2Proof.Machine.execTagchk g d a t s
  | .tagrd g d a => Sys2Proof.Machine.execTagrd g d a s
  | .ld g d a o w => Sys2Proof.Machine.execLd g d a o w s
  | .st g x_s a o w => Sys2Proof.Machine.execSt g x_s a o w s
  | .lds g d a o w => Sys2Proof.Machine.execLds g d a o w s
  | .sts g x_s a o w => Sys2Proof.Machine.execSts g x_s a o w s
  | .ldc g d a o w => Sys2Proof.Machine.execLdc g d a o w s
  | .atom g d a b w p => Sys2Proof.Machine.execAtom g d a b w p s
  | .atoms g d a b w p => Sys2Proof.Machine.execAtoms g d a b w p s
  | .red g w p a b => Sys2Proof.Machine.execRed g w p a b s
  | .pref g a => Sys2Proof.Machine.execPref g a s
  | .fence g => Sys2Proof.Machine.execFence g s
  | .ifence g => Sys2Proof.Machine.execIfence g s
  | .mona g a => Sys2Proof.Machine.execMona g a s
  | .mwait g => Sys2Proof.Machine.execMwait g s
  | .bar g n l => Sys2Proof.Machine.execBar g n l s
  | .bara g n l => Sys2Proof.Machine.execBara g n l s
  | .barw g n l => Sys2Proof.Machine.execBarw g n l s
  | .barredOr g d a n l => Sys2Proof.Machine.execBarredOr g d a n l s
  | .barredAnd g d a n l => Sys2Proof.Machine.execBarredAnd g d a n l s
  | .barredMax g d a n l => Sys2Proof.Machine.execBarredMax g d a n l s
  | .cvset g d x_i => Sys2Proof.Machine.execCvset g d x_i s
  | .qput g a => Sys2Proof.Machine.execQput g a s
  | .qget g d => Sys2Proof.Machine.execQget g d s
  | .flagSet g a => Sys2Proof.Machine.execFlagSet g a s
  | .flagClr g a => Sys2Proof.Machine.execFlagClr g a s
  | .fwaitAny g d a => Sys2Proof.Machine.execFwaitAny g d a s
  | .fwaitAll g d a => Sys2Proof.Machine.execFwaitAll g d a s
  | .rgnc g => Sys2Proof.Machine.execRgnc g s
  | .rgnx g => Sys2Proof.Machine.execRgnx g s
  | .rgnb g a x_i => Sys2Proof.Machine.execRgnb g a x_i s
  | .rgnn g a x_i => Sys2Proof.Machine.execRgnn g a x_i s
  | .cpb g x y z => Sys2Proof.Machine.execCpb g x y z s
  | .cps g x y z => Sys2Proof.Machine.execCps g x y z s
  | .cpg g x y z => Sys2Proof.Machine.execCpg g x y z s
  | .cpt g x y z => Sys2Proof.Machine.execCpt g x y z s
  | .cpseal g d => Sys2Proof.Machine.execCpseal g d s
  | .cpwait g a => Sys2Proof.Machine.execCpwait g a s
  | .cpctrG g d a b => Sys2Proof.Machine.execCpctrG g d a b s
  | .cpctrT g d a b => Sys2Proof.Machine.execCpctrT g d a b s
  | .cpctrC g d a b => Sys2Proof.Machine.execCpctrC g d a b s
  | .cpctrD g d a b => Sys2Proof.Machine.execCpctrD g d a b s
  | .cpctrV g d a b => Sys2Proof.Machine.execCpctrV g d a b s
  | .cpctrS g d a b => Sys2Proof.Machine.execCpctrS g d a b s
  | .slotx g x y => Sys2Proof.Machine.execSlotx g x y s
  | .slotw g x p => Sys2Proof.Machine.execSlotw g x p s
  | .slotr g x => Sys2Proof.Machine.execSlotr g x s
  | .slotq g x y => Sys2Proof.Machine.execSlotq g x y s
  | .msend g x y z => Sys2Proof.Machine.execMsend g x y z s
  | .msendNb g x y z => Sys2Proof.Machine.execMsendNb g x y z s
  | .mringSet g r a => Sys2Proof.Machine.execMringSet g r a s
  | .mringOff g r => Sys2Proof.Machine.execMringOff g r s
  | .mringPop g r a => Sys2Proof.Machine.execMringPop g r a s
  | .mringWatch g r => Sys2Proof.Machine.execMringWatch g r s
  | .mringQ g r d => Sys2Proof.Machine.execMringQ g r d s
  | .mma g x y z t x_s k => Sys2Proof.Machine.execMma g x y z t x_s k s
  | .mmas g x y z t x_s k => Sys2Proof.Machine.execMmas g x y z t x_s k s
  | .mmaq g x y z q k => Sys2Proof.Machine.execMmaq g x y z q k s
  | .mzero g x => Sys2Proof.Machine.execMzero g x s
  | .mlda g x y => Sys2Proof.Machine.execMlda g x y s
  | .mdrnS g x y f => Sys2Proof.Machine.execMdrnS g x y f s
  | .mdrnSadd g x y f => Sys2Proof.Machine.execMdrnSadd g x y f s
  | .mdrnG g x y f => Sys2Proof.Machine.execMdrnG g x y f s
  | .mdrnGadd g x y f => Sys2Proof.Machine.execMdrnGadd g x y f s
  | .mmv g y z w => Sys2Proof.Machine.execMmv g y z w s
  | .oadam g x y z => Sys2Proof.Machine.execOadam g x y z s
  | .osgd g x y z => Sys2Proof.Machine.execOsgd g x y z s
  | .vredAdd g x y z => Sys2Proof.Machine.execVredAdd g x y z s
  | .vredMax g x y z => Sys2Proof.Machine.execVredMax g x y z s
  | .splkg g x y => Sys2Proof.Machine.execSplkg g x y s
  | .splkq g x y => Sys2Proof.Machine.execSplkq g x y s
  | .splld g x y z => Sys2Proof.Machine.execSplld g x y z s
  | .splst g x y z => Sys2Proof.Machine.execSplst g x y z s
  | .splrf g x => Sys2Proof.Machine.execSplrf g x s
  | .splev g x y z => Sys2Proof.Machine.execSplev g x y z s
  | .spldr g x y z => Sys2Proof.Machine.execSpldr g x y z s
  | .splgr g x y z => Sys2Proof.Machine.execSplgr g x y z s
  | .srd g d n => Sys2Proof.Machine.execSrd g d n s
  | .clkq g d => Sys2Proof.Machine.execClkq g d s
  | .clkreq g a b => Sys2Proof.Machine.execClkreq g a b s
  | .trap g c => Sys2Proof.Machine.execTrap g c s
  | .brkpt g c => Sys2Proof.Machine.execBrkpt g c s
  | .probe g d => Sys2Proof.Machine.execProbe g d s
  | .csrr g d n => Sys2Proof.Machine.execCsrr g d n s
  | .csrw g a n => Sys2Proof.Machine.execCsrw g a n s
  | .eret g => Sys2Proof.Machine.execEret g s
  | .halt g => Sys2Proof.Machine.execHalt g s
  | .tlbinv g x_s e y z => Sys2Proof.Machine.execTlbinv g x_s e y z s
  | .accsave g x y => Sys2Proof.Machine.execAccsave g x y s
  | .accrest g x y => Sys2Proof.Machine.execAccrest g x y s
  | .accsaveV g y => Sys2Proof.Machine.execAccsaveV g y s
  | .accrestV g y => Sys2Proof.Machine.execAccrestV g y s
  | .hwide p => Sys2Proof.Machine.execHwide p s
  | .hmod p => Sys2Proof.Machine.execHmod p s
  | .hsched p => Sys2Proof.Machine.execHsched p s
  | .qtailWrite q tail => Sys2Proof.Machine.execQtailWrite q tail s
  | .teamPlacement die ctx => Sys2Proof.Machine.execTeamPlacement die ctx s
  | .packetHop port blocked => Sys2Proof.Machine.execPacketHop port blocked s
  | .routerFailure die router => Sys2Proof.Machine.execRouterFailure die router s
  | .galleryFailure gallery => Sys2Proof.Machine.execGalleryFailure gallery s
  | .registerWrite addr size value => Sys2Proof.Machine.execRegisterWrite addr size value s
  | .belfrycfgWrite value => Sys2Proof.Machine.execBelfrycfgWrite value s
  | .powerMeasurement pnow s0 s1 a0 a1 => Sys2Proof.Machine.execPowerMeasurement pnow s0 s1 a0 a1 s
  | .thermalLimit die hot => Sys2Proof.Machine.execThermalLimit die hot s
  | .dbgdataWrite die value => Sys2Proof.Machine.execDbgdataWrite die value s
  | .reductionDoorbell die value => Sys2Proof.Machine.execReductionDoorbell die value s
  | .hostAccess bar write off size value => Sys2Proof.Machine.execHostAccess bar write off size value s
  | .peerAccess peer write addr size value => Sys2Proof.Machine.execPeerAccess peer write addr size value s
  | .fabricLinkChange link up => Sys2Proof.Machine.execFabricLinkChange link up s
  | .selfTestComplete bit ok => Sys2Proof.Machine.execSelfTestComplete bit ok s
  | .unassignedEncoding w => Sys2Proof.Machine.execUnassignedEncoding w s
  | .launch => Sys2Proof.Machine.execLaunch s
  | .gang => Sys2Proof.Machine.execGang s
  | .gangCommit => Sys2Proof.Machine.execGangCommit s
  | .gangTimeout => Sys2Proof.Machine.execGangTimeout s
  | .wait => Sys2Proof.Machine.execWait s
  | .waitRelease => Sys2Proof.Machine.execWaitRelease s
  | .waitPoll => Sys2Proof.Machine.execWaitPoll s
  | .signal => Sys2Proof.Machine.execSignal s
  | .nopPacket => Sys2Proof.Machine.execNopPacket s
  | .qcreate => Sys2Proof.Machine.execQcreate s
  | .qdestroy => Sys2Proof.Machine.execQdestroy s
  | .queueDisable => Sys2Proof.Machine.execQueueDisable s
  | .qprio => Sys2Proof.Machine.execQprio s
  | .qreset => Sys2Proof.Machine.execQreset s
  | .regwrite => Sys2Proof.Machine.execRegwrite s
  | .partition => Sys2Proof.Machine.execPartition s
  | .preempt => Sys2Proof.Machine.execPreempt s
  | .adminResume => Sys2Proof.Machine.execAdminResume s
  | .adminHalt => Sys2Proof.Machine.execAdminHalt s
  | .adminEnd => Sys2Proof.Machine.execAdminEnd s
  | .fwload => Sys2Proof.Machine.execFwload s
  | .svncommit => Sys2Proof.Machine.execSvncommit s
  | .curatorRestartComplete => Sys2Proof.Machine.execCuratorRestartComplete s
  | .dispatchDraw => Sys2Proof.Machine.execDispatchDraw s
  | .guaranteedTeamRelease => Sys2Proof.Machine.execGuaranteedTeamRelease s
  | .granuleZeroed => Sys2Proof.Machine.execGranuleZeroed s
  | .teamRetire => Sys2Proof.Machine.execTeamRetire s
  | .launchRetire => Sys2Proof.Machine.execLaunchRetire s
  | .teamPreempt => Sys2Proof.Machine.execTeamPreempt s
  | .teamWake => Sys2Proof.Machine.execTeamWake s
  | .teamRestore => Sys2Proof.Machine.execTeamRestore s
  | .deferredReport => Sys2Proof.Machine.execDeferredReport s
  | .accownClaim => Sys2Proof.Machine.execAccownClaim s
  | .copyCommandStart => Sys2Proof.Machine.execCopyCommandStart s
  | .bulkCommandStart => Sys2Proof.Machine.execBulkCommandStart s
  | .slotBytesArrive => Sys2Proof.Machine.execSlotBytesArrive s
  | .slotReadComplete => Sys2Proof.Machine.execSlotReadComplete s
  | .copyCommandComplete => Sys2Proof.Machine.execCopyCommandComplete s
  | .matrixEngineStep => Sys2Proof.Machine.execMatrixEngineStep s
  | .plinthMmvComplete => Sys2Proof.Machine.execPlinthMmvComplete s
  | .regionDrainEntry => Sys2Proof.Machine.execRegionDrainEntry s
  | .tlbinvComplete => Sys2Proof.Machine.execTlbinvComplete s
  | .walkComplete => Sys2Proof.Machine.execWalkComplete s
  | .sliceAccess => Sys2Proof.Machine.execSliceAccess s
  | .farAtomic => Sys2Proof.Machine.execFarAtomic s
  | .addOnStore => Sys2Proof.Machine.execAddOnStore s
  | .addOnStoreRelease => Sys2Proof.Machine.execAddOnStoreRelease s
  | .hbmAccess => Sys2Proof.Machine.execHbmAccess s
  | .hbmAgedRequest => Sys2Proof.Machine.execHbmAgedRequest s
  | .memoryResponse => Sys2Proof.Machine.execMemoryResponse s
  | .fetchFill => Sys2Proof.Machine.execFetchFill s
  | .packetAgeSaturate => Sys2Proof.Machine.execPacketAgeSaturate s
  | .messageAppend => Sys2Proof.Machine.execMessageAppend s
  | .cpctrPoll => Sys2Proof.Machine.execCpctrPoll s
  | .spirePowerDown => Sys2Proof.Machine.execSpirePowerDown s
  | .spirePowerUp => Sys2Proof.Machine.execSpirePowerUp s
  | .spirePowerDone => Sys2Proof.Machine.execSpirePowerDone s
  | .belfryEvaluation => Sys2Proof.Machine.execBelfryEvaluation s
  | .powerOverCap => Sys2Proof.Machine.execPowerOverCap s
  | .grantChange => Sys2Proof.Machine.execGrantChange s
  | .dbgdataRead => Sys2Proof.Machine.execDbgdataRead s
  | .reductionEnd => Sys2Proof.Machine.execReductionEnd s
  | .reductionTimeout => Sys2Proof.Machine.execReductionTimeout s
  | .flitReplay => Sys2Proof.Machine.execFlitReplay s
  | .functionLevelReset => Sys2Proof.Machine.execFunctionLevelReset s
  | .moduleReset => Sys2Proof.Machine.execModuleReset s
  | .archiveCommit => Sys2Proof.Machine.execArchiveCommit s
  | .orderlyPowerDown => Sys2Proof.Machine.execOrderlyPowerDown s
  | .scrubPass => Sys2Proof.Machine.execScrubPass s
  | .watchdogProbe => Sys2Proof.Machine.execWatchdogProbe s
  | .timeSliceRequest => Sys2Proof.Machine.execTimeSliceRequest s
  | .powerLoss => Sys2Proof.Machine.execPowerLoss s
  | .curatorMemoryError => Sys2Proof.Machine.execCuratorMemoryError s

end Sys2Proof.Machine
end

