-- ==== Sys2Proof/Machine/Issue.lean ====
section
/-! DEFINITION. Fetching a word, which threads are ready, the issue order, the bundles of a core cycle (R76, R140,
R173, R181 to R184, R211). -/

namespace Sys2Proof.Machine

open Sys2Proof

/-- One fetched word issues for the bundle `s.cur`: an instruction, a word with a bad field, or a hint of the reserved
kind. -/
def State.runWord (s : State) (w : Word) : Host.Outcome State Fault Refusal :=
  match decode w with
  | .ok i => exec i s
  | .error (.field i rsv idx) => execBadField i rsv idx s
  | .error (.hintKind _) => execHintKind s
  | .error .tooShort => .next s

/-- The bundle `s.cur` issues its word, or takes its fetch fault (R227, R358). -/
def State.issueBundle (s : State) : Host.Outcome State Fault Refusal :=
  match s.cur with
  | [] => .next s
  | r :: _ =>
    match s.fetch r with
    | .word w => s.runWord w
    | .fail f => .next (s.perform (fun _ => .fail f) fun x _ => x)
    | .wait _ => .next s

/-! ## Ready threads (R181) -/

/-- Threads in ascending slot order (R182). -/
def State.insertSlot (s : State) (r : Ref) : List Ref → List Ref
  | [] => [r]
  | q :: qs => if (s.thr r).slot < (s.thr q).slot then r :: q :: qs else q :: s.insertSlot r qs
/-- A list of threads in ascending slot order (R182). -/
def State.bySlot (s : State) (rs : List Ref) : List Ref := rs.foldr s.insertSlot []

/-- Some threads of a bundle that wait would no longer wait for the same thing, or go on, if the bundle issued now. -/
def State.waitMoves (s : State) (bundle : List Ref) : Bool :=
  match { s with cur := s.bySlot bundle }.issueBundle with
  | .next x => bundle.any fun q =>
      (x.thr q).wait != (s.thr q).wait || (x.thr q).pc != (s.thr q).pc || (x.thr q).hint != (s.thr q).hint
  | _ => false

/-- A thread may be considered by its core: its team is resident and not halted, and it is not exited, parked or held
off (R181, R231, R260). -/
def State.mayIssue (s : State) (r : Ref) : Bool :=
  let t := s.thr r
  let m := s.team r.team
  m.status == .resident && !m.isHalted && !t.exited && !t.parked && t.holdoff == 0 && !s.reportDue r

/-- A thread's word and registers are there (R181). -/
def State.threadReady (s : State) (r : Ref) : Bool :=
  s.mayIssue r &&
    match s.fetch r with
    | .word w => (s.thr r).settled w
    | .fail _ => true
    | .wait _ => false

/-- What a thread issues next is fragment-collective (R183). -/
def State.nextColl (s : State) (r : Ref) : Bool :=
  match s.fetch r with
  | .word w => (wordInfo w).coll
  | _ => false

/-- A fragment can issue a word as a whole: its threads have all come to one unit, or past its hint, and are ready (R183). -/
def State.fragReady (s : State) (r : Ref) : Bool :=
  (s.fragOf r).all fun q =>
    s.threadReady q && (s.thr q).path.isEmpty && (s.thr q).pc == (s.thr r).pc && (s.thr q).hint == (s.thr r).hint

/-- The threads that must issue with a thread: its fragment for a fragment-collective word, else itself (R182, R183). -/
def State.unitWith (s : State) (r : Ref) : List Ref := if s.nextColl r then s.fragOf r else [r]

/-- A thread is ready: its word can issue, for the whole fragment if it is fragment-collective, and what it waits for is
over (R181). -/
def State.canIssue (s : State) (r : Ref) : Bool :=
  (if s.nextColl r then s.fragReady r else s.threadReady r) &&
    (((s.unitWith r).all fun q => (s.thr q).wait.isNone) || s.waitMoves (s.unitWith r))

/-! ## The issue order (R173, R211) -/

/-- A thread is saturated (R211). -/
def Thread.saturated (t : Thread) : Bool := decide (256 ≤ t.age)

/-- The comparison of R211. -/
def State.ranksAbove (s : State) (x y : Ref) : Bool :=
  let a := s.thr x
  let b := s.thr y
  let ra := (s.group x.team a.group).retired
  let rb := (s.group y.team b.group).retired
  if s.harvest x.team != s.harvest y.team then !s.harvest x.team
  else if a.saturated != b.saturated then a.saturated
  else if !a.saturated && ra != rb then decide (ra < rb)
  else if a.age != b.age then decide (b.age < a.age)
  else decide (a.slot < b.slot)

/-- A thread joins a ranked list. -/
def State.insertRank (s : State) (r : Ref) : List Ref → List Ref
  | [] => [r]
  | q :: qs => if s.ranksAbove r q then r :: q :: qs else q :: s.insertRank r qs
/-- Threads ranked for the picker (R211). -/
def State.ranked (s : State) (rs : List Ref) : List Ref := rs.foldr s.insertRank []

/-- The control thread that a control unit takes: guaranteed first, then the longest ready (R173). -/
def State.ctlFirst (s : State) : List Ref → Option Ref
  | [] => none
  | r :: rs =>
    match s.ctlFirst rs with
    | none => some r
    | some q =>
      if s.harvest r.team != s.harvest q.team then (if s.harvest r.team then some q else some r)
      else if (s.thr r).age < (s.thr q).age then some q else some r

/-! ## Bundles (R182, R183) -/

/-- Home lane of a thread (R170). -/
def State.homeLane (s : State) (r : Ref) : Nat := (s.thr r).slot % 64

/-- A thread may join a bundle: same launch, unit, hint and word as its lead, a word that is not fragment-collective, and a
free home lane (R182). -/
def State.joins (s : State) (lead : Ref) (bundle : List Ref) (q : Ref) : Bool :=
  let a := s.thr lead
  let b := s.thr q
  (s.team q.team).launch == (s.team lead.team).launch && b.pc == a.pc && b.hint == a.hint && s.fetch q == s.fetch lead &&
    decide (bundle.length < 64) && !bundle.any fun y => s.homeLane q == s.homeLane y

/-- The bundle of a lead among the ready threads, in rank order (R182). -/
def State.bundleOf (s : State) (lead : Ref) (ready : List Ref) : List Ref :=
  if s.nextColl lead then s.fragOf lead
  else ready.foldl (fun bundle q => if s.joins lead bundle q then bundle ++ [q] else bundle) [lead]

/-- The bundles of the issue ports from the ready threads, ranked; what no port takes is left (R182). -/
def State.fillPorts (s : State) : Nat → List Ref → List (List Ref) × List Ref
  | 0, ready => ([], ready)
  | _ + 1, [] => ([], [])
  | ports + 1, lead :: rest =>
    let bundle := s.bundleOf lead rest
    let (more, left) := s.fillPorts ports ((lead :: rest).filter fun r => !bundle.contains r)
    (bundle :: more, left)

/-- The threads of a core (R51, R173). -/
def State.coreRefs (s : State) (core : Nat) : List Ref :=
  (List.range s.teams.length).flatMap fun t =>
    if (s.team t).status = .resident ∧ (s.team t).halves.any (fun h => h.core == core) then
      (s.allRefs t).filter fun r => s.coreOf r == core && !(s.thr r).exited
    else []

/-! ## What takes effect first in a core cycle (R175, R264, R309) -/

/-- The instruction that a bundle issues. -/
def State.bundleInstr (s : State) (b : List Ref) : Option Instr :=
  match s.fetch (b.headD default) with
  | .word w => (decode w).toOption
  | _ => none

/-- FLAG, QPUT or QGET: what R175 and R309 serve in an order of their own. -/
def servedFirst : Option Instr → Bool
  | some (.flagSet ..) => true
  | some (.flagClr ..) => true
  | some (.qput ..) => true
  | some (.qget ..) => true
  | _ => false
/-- FLAG. -/
def isFlag : Option Instr → Bool
  | some (.flagSet ..) => true
  | some (.flagClr ..) => true
  | _ => false
/-- SRD (R171). -/
def isSrd : Option Instr → Bool
  | some (.srd ..) => true
  | _ => false
/-- SRD of CPSTAT, whose read clears (R264). -/
def isCpstat : Option Instr → Bool
  | some (.srd _ _ n) => n == 0x13
  | _ => false

/-- Where a bundle stands among those of its core cycle: the lanes' FLAG, QPUT and QGET by fragment number and then group,
the control thread's FLAG, the other lanes by port, the lanes' SRD by slot, what else the control thread issues (R175, R264,
R309; log 9). -/
def State.serveKey (s : State) (b : List Ref) : Nat × Nat × Nat :=
  let r := b.headD default
  let t := s.thr r
  let i := s.bundleInstr b
  if t.ctl then (if isFlag i then (1, 0, 0) else (4, 0, 0))
  else if servedFirst i then (0, t.frag, t.group)
  else if isSrd i then (3, ((s.bySlot b).head?.map fun q => (s.thr q).slot).getD 0, 0)
  else (2, 0, 0)

/-- One place before another, in the order of three numbers. -/
def keyBefore (x y : Nat × Nat × Nat) : Bool :=
  decide (x.1 < y.1) || (x.1 == y.1 && (decide (x.2.1 < y.2.1) || (x.2.1 == y.2.1 && decide (x.2.2 < y.2.2))))

/-- A bundle takes its place in a list in serving order, before those that come later in the order of ports. -/
def State.insertServed (s : State) (b : List Ref) : List (List Ref) → List (List Ref)
  | [] => [b]
  | c :: cs => if keyBefore (s.serveKey c) (s.serveKey b) then c :: s.insertServed b cs else b :: c :: cs

/-- The bundles of a core cycle in the order in which they take effect; the threads of one that reads CPSTAT go one by one. -/
def State.inOrder (s : State) (bs : List (List Ref)) : List (List Ref) :=
  (bs.flatMap fun b => if isCpstat (s.bundleInstr b) then b.map fun r => [r] else [b]).foldr s.insertServed []

/-! ## A core cycle -/

/-- A core cycle begins: its ready threads are ranked and its issue ports filled, its control unit takes a thread, and
held-off threads count the cycle (R173, R181, R182, R211, R231). -/
def State.cycleStart (s : State) (core : Nat) : State :=
  let all := s.coreRefs core
  let ready := all.filter s.canIssue
  let (ports, left) := s.fillPorts 8 (s.ranked (ready.filter fun r => !(s.thr r).ctl))
  let ctls := ready.filter fun r => (s.thr r).ctl
  let ctl := s.ctlFirst ctls
  let s1 := (all.filter fun r => decide (0 < (s.thr r).holdoff)).foldl (fun x r =>
    x.modThr r fun t => { t with holdoff := t.holdoff - 1 }) s
  { s1 with
    turn := core + 1
    issue := some { core := core, todo := s.inOrder (ports ++ ctl.toList.map fun r => [r]),
                    left := left ++ ctls.filter fun r => ctl != some r } }

/-- The teams on a core. -/
def State.coreTeams (s : State) (core : Nat) : List Nat :=
  (List.range s.teams.length).filter fun t => (s.team t).status == .resident && (s.team t).halves.any fun h => h.core == core

/-- A core cycle ends: what was ready and did not issue ages; the barriers are judged on the arrivals and exits of the cycle,
and the convergence registers fire (R173, R189, R211, R307). -/
def State.cycleEnd (s : State) (u : Issue) : State :=
  let s1 := (u.left.filter s.mayIssue).foldl (fun x r => x.modThr r fun t => { t with age := min (t.age + 1) 65535 }) s
  let s2 := (s.coreTeams u.core).foldl (fun x t =>
    (List.range (x.team t).groups.length).foldl (fun x g => x.fireCv t g) (x.judgeAllPhases t)) s1
  { s2 with issue := none, cur := [] }

/-- What is left to issue of a bundle of the cycle: the threads that nothing of the cycle has stopped, and of a
fragment-collective word all or nothing (R182, R183). -/
def State.stillReady (s : State) (b : List Ref) : List Ref :=
  match b with
  | [] => []
  | r :: _ =>
    if s.nextColl r then (if s.fragReady r && (s.fragOf r).all b.contains && b.all s.threadReady then b else [])
    else b.filter s.threadReady

/-- One bundle of the core cycle issues, or the cycle ends (R173, R182, R211). -/
def State.issueStep (s : State) (u : Issue) : Host.Outcome State Fault Refusal :=
  match u.todo with
  | [] => .next (s.cycleEnd u)
  | b :: bs =>
    let go := s.bySlot (s.stillReady b)
    let s1 := go.foldl (fun (x : State) r => x.modThr r fun t => { t with age := 0 }) s
    { s1 with cur := go, issue := some { u with todo := bs } }.issueBundle

end Sys2Proof.Machine
end

