-- ==== Sys2Proof/Machine/Agenda.lean ====
section
/-! DEFINITION. What the agenda asks for, and what happens by default: events, core cycles, time, errors of storage and the
outside's own actions (log 3; R33, R44, R92, R139, R143, R263, R434, R437). -/

namespace Sys2Proof.Machine

open Sys2Proof

/-! ## Time (R11, R92, R263, R437) -/

/-- A granted ratio of a die: 0 matrix, 1 core, 2 network, 3 memory (R215). -/
def State.ratio (s : State) (d k : Nat) : Nat := (ratiosOf (s.die d).grant).getD k 4

/-- A stack's bucket gains what its memory cycles of a time bring, up to its depth (R92). -/
def Stack.refill (x : Stack) (ns ratio : Nat) : Stack :=
  { x with tokens := min (x.tokens + x.rate.toNat * ratio * ns * 125) (x.burst.toNat * 65536) }

/-- Time passes: GTIME, the core and memory clocks, the buckets, the seconds powered (R11, R92, R94, R263, R437). -/
def State.tick (s : State) (ns : Nat) : State :=
  let secs := (s.gtime + ns) / 1000000000 - s.gtime / 1000000000
  { s with
    gtime := s.gtime + ns
    cores := s.cores.zipIdx.map fun (p : Core × Nat) => { p.1 with ccount16 := p.1.ccount16 + 2 * ns * s.ratio (p.2 / 128) 1 }
    dies := s.dies.zipIdx.map fun (p : Die × Nat) => { p.1 with mem8 := p.1.mem8 + ns * s.ratio p.2 3 }
    hbmStacks := s.hbmStacks.zipIdx.map fun (p : Stack × Nat) => p.1.refill ns (s.ratio (p.2 / 4) 3)
    archive := if secs = 0 then s.archive else archiveAdd 0x500 secs s.archive }

/-- A bin of a histogram of 16, the first and last open (R437). -/
def bin (low width x : Nat) : Nat := min 15 ((x - low) / width)

/-- A 10 ms interval joins the three histograms (R437). -/
def State.interval (s : State) (watts t0 t1 : Nat) : State :=
  ((s.count (0x600 + 8 * bin 0 150 watts)).count (0x680 + 8 * bin 30 5 t0)).count (0x700 + 8 * bin 30 5 t1)

/-! ## Errors of storage (R53, R61, R70, R71, R434) -/

/-- An uncorrectable error at places of the coherent image: a line dirty in its slice is poisoned whole and recorded, a
clean one only recorded, since it is fetched again; in HBM4E the 32-byte blocks are lost, and detected later (R434). -/
def State.memError (s : State) (addr len : Nat) : State :=
  let line := lineOf addr
  if spaceOf addr ≠ .hbm then s
  else match s.l2.find? fun x => x.line == line with
    | some x =>
      let s1 := if x.dirty.isSome then s.homePoison line 128 else { s with l2 := s.l2.filter fun y => y.line != line }
      s1.errorRecord x.die 0x07 1 0 x.pa (BitVec.ofNat 64 x.slice)
    | none =>
      let base := addr / 32 * 32
      { s.homePoison base ((addr + len + 31) / 32 * 32 - base) with latent := (line, true) :: s.latent }

/-- A half's record of an error of its storage: its die, its team's context and its core (R436). -/
def State.poolError (s : State) (team half unit : Nat) (addr : Nat) : State :=
  let c := (s.half team half).core
  s.errorRecord (dieOfCore c) unit 1 (s.team team).ctxid addr (BitVec.ofNat 64 c)

/-- An uncorrectable error of a register, which takes POISON and data 0 (R53, R104, R434). -/
def State.regError (s : State) (r : Ref) (n : Nat) : State :=
  (s.modThr r fun t => t.setReg n (taggedReg 0 tagPOISON)).poolError r.team (s.thr r).half 0x01 n

/-- An uncorrectable error in an L1 line: a miss, recorded as corrected (R75, R434). -/
def State.dropL1 (s : State) (n : Nat) : State :=
  match s.l1[n]? with
  | some x =>
    { s with l1 := s.l1.eraseIdx n }.errorRecord (dieOfCore x.core) 0x05 0 0 x.line (BitVec.ofNat 64 x.core)
  | none => s

/-- An uncorrectable error in an instruction line: a miss, recorded as corrected (R76, R434). -/
def State.dropILine (s : State) (n : Nat) : State :=
  match s.icache[n]? with
  | some x =>
    { s with icache := s.icache.eraseIdx n }.errorRecord (dieOfCore x.core) 0x06 0 0 x.line (BitVec.ofNat 64 x.core)
  | none => s

/-- A TLB entry leaves: replaced, or bad and recorded as a corrected error of unit 0x09 with its place (R33, R434). -/
def State.dropTlb (s : State) (n : Nat) (parity : Bool) : State :=
  match s.tlb[n]? with
  | some x =>
    let s1 := { s with tlb := s.tlb.eraseIdx n }
    if parity then s1.errorRecord (if x.loc < 256 then dieOfCore x.loc else x.loc % 2) 0x09 0 0 n (BitVec.ofNat 64 (x.loc % 256))
    else s1
  | none => s

/-- A walk-cache entry leaves, as `State.dropTlb` says (R33, R434). -/
def State.dropWalk (s : State) (n : Nat) (parity : Bool) : State :=
  match s.walkCache[n]? with
  | some x =>
    let s1 := { s with walkCache := s.walkCache.eraseIdx n }
    if parity then s1.errorRecord x.die 0x09 0 0 n 0 else s1
  | none => s

/-- The host fails a piece of an access to its memory: a load's bytes read POISON, a store or atomic is discarded and
recorded, once the piece is served (R423). -/
def State.hostAbort (s : State) (n k : Nat) : State :=
  { s with
    flights := s.flights.modify n fun f =>
      { f with pieces := f.pieces.modify k fun p => if spaceOf p.pa = .host ∧ p.performed = false then p.lose else p } }

/-- Both copies of an entry of a launch are bad: the launch ends with STATE_LOST (R434, R435). -/
def State.tableError (s : State) (unit : BitVec 8) (l : Nat) : State :=
  let x := s.launches.getD l default
  if decide (l < s.launches.length) && x.status != .retired && (unit == 0x0A || unit == 0x0C || unit == 0x16) then
    (s.errorRecord x.home unit.toNat 2 0 0 0).endLaunch l 0x27
  else s

/-! ## The agenda (log 3) -/

/-- The firmware performs an ADMIN operation of its own (R408, R409, R441). -/
def State.firmware (s : State) (p : List Byte) : State :=
  if s.homesOpen && s.curator.running.isSome && !s.curator.restarting && pktType p == tAdmin && !pktBad p && decide (p.length = 64) then
    (s.adminOp p).state
  else s

/-- What one entry of the agenda does. -/
def State.act (s : State) (a : Act) : Host.Outcome State Fault Refusal :=
  match a with
  | .event i sel sel2 => exec i { s with sel := sel, sel2 := sel2 }
  | .cycle core => if core < 256 then .next (s.cycleStart core) else .fault (.noSuchCore core)
  | .tick ns => .next (s.tick ns)
  | .ownWrite pa bytes =>
    .next (if (spaceOf pa == .host || spaceOf pa == .peer) && spaceOf (pa + bytes.length) == spaceOf pa then
      s.homeWrite pa pa bytes false 0 else s)
  | .memError addr len => .next (s.memError addr len)
  | .softError addr => .next (if spaceOf addr = .hbm then { s with latent := (lineOf addr, false) :: s.latent } else s)
  | .scratchError t h off =>
    .next ((s.modHalf t h fun x => x.scratchPoison (off / 4 * 4) 4).poolError t h 0x02 off)
  | .tileError t h tile elem =>
    .next ((s.modHalf t h fun x => { x with tiles := x.tiles.modify tile fun y => { y with bad := setAdd elem y.bad } }).poolError
      t h 0x03 tile)
  | .vitError t h cell => .next ((s.modHalf t h fun x => { x with vitBad := setAdd cell x.vitBad }).poolError t h 0x04 cell)
  | .regError r n => .next (s.regError r n)
  | .tableError unit l => .next (s.tableError unit l)
  | .corrected die unit addr => .next (s.errorRecord (die % 2) unit.toNat 0 0 addr.toNat 0)
  | .dropTlb n parity => .next (s.dropTlb n parity)
  | .dropWalk n parity => .next (s.dropWalk n parity)
  | .hostAbort n k => .next (s.hostAbort n k)
  | .dropL1 n => .next (s.dropL1 n)
  | .dropILine n => .next (s.dropILine n)
  | .spurious r => .next (s.modThr r fun t => { t with watch := t.watch.map fun w => { w with triggered := true } })
  | .firmware p => .next (s.firmware p)
  | .interval watts t0 t1 => .next (s.interval watts t0 t1)
  | .contribute c => .next { s with contributions := s.contributions ++ [{ c with time := s.gtime }] }

/-! ## The default order (log 3) -/

/-- An event with no operand of its own. -/
def ev (i : Instr) (sel : Nat := 0) (sel2 : Nat := 0) : Act := .event i sel sel2

/-- Events of the accesses in flight. -/
def State.flightActs (s : State) : List Act :=
  ((List.range s.flights.length).filter fun n => !(s.flights.getD n default).returned).flatMap fun n =>
    ((List.range (s.flights.getD n default).pieces.length).flatMap fun k => [ev .sliceAccess n k, ev .farAtomic n k]) ++
      [ev .memoryResponse n]

/-- A thread waits for something, or for its next word. -/
def State.stuck (s : State) (r : Ref) : Bool :=
  !(s.thr r).exited && ((s.thr r).wait.isSome ||
    match s.fetch r with
    | .wait _ => true
    | _ => false)

/-- Events of the threads: walks and fills that they wait for, claims and polls. -/
def State.threadActs (s : State) : List Act :=
  ((List.range s.teams.length).filter fun t => (s.team t).status == .resident).flatMap fun t =>
    ((s.allRefs t).filter s.stuck).flatMap fun r =>
      (if s.canIssue r then [] else [ev .walkComplete t r.thr, ev .fetchFill t r.thr]) ++
        [ev .accownClaim t r.thr, ev .cpctrPoll t r.thr]

/-- Events of the engines and of the network. -/
def State.engineActs (s : State) : List Act :=
  (s.ports.filter fun x => !x.fifo.isEmpty).map (fun x => ev (.packetHop x.id [])) ++
    (s.hbmq.map fun q => ev .hbmAccess q.channel) ++
    ((List.range s.cmds.length).flatMap fun c =>
      [ev .bulkCommandStart c, ev .copyCommandStart c, ev .addOnStore c, ev .addOnStoreRelease c, ev .slotBytesArrive c,
       ev .plinthMmvComplete c, ev .copyCommandComplete c]) ++
    (s.engine.map fun e => ev .matrixEngineStep e.core) ++
    ((List.range s.slotReads.length).map fun n => ev .slotReadComplete n) ++
    ((List.range s.messages.length).map fun n => ev .messageAppend n) ++
    ((List.range s.tlbinvs.length).map fun n => ev .tlbinvComplete n) ++
    ((List.range s.redq.length).map fun n => ev .reductionEnd n) ++
    ([0, 1].flatMap fun d => (List.range 8).flatMap fun k => [ev .spirePowerDown d k, ev .spirePowerUp d k]) ++
    ([0, 1].map fun d => ev .spirePowerDone d) ++ ([0, 1].map fun d => ev .grantChange d)

/-- Events of teams, launches and queues. -/
def State.teamActs (s : State) : List Act :=
  ((List.range s.teams.length).flatMap fun t =>
    ((List.range (s.team t).groups.length).flatMap fun g => [ev .regionDrainEntry t g, ev .deferredReport t g]) ++
      [ev .guaranteedTeamRelease t, ev .teamRetire t, ev .teamPreempt t, ev .teamWake t, ev .teamRestore t]) ++
    ((List.range s.zeroing.length).map fun n => ev .granuleZeroed n) ++
    ((List.range s.launches.length).flatMap fun l => [ev .launchRetire l, ev .dispatchDraw l 0, ev .dispatchDraw l 1]) ++
    ((List.range s.gangs.length).map fun g => ev .gangCommit g) ++
    ([0, 1].map fun d => ev (.teamPlacement (BitVec.ofNat 1 d) (s.freeCtx 1 65536))) ++
    ((List.range s.queues.length).filter fun q => (s.queue q).en).flatMap fun q =>
      [Instr.launch, .gang, .wait, .waitRelease, .waitPoll, .signal, .nopPacket, .qcreate, .qdestroy, .queueDisable, .qprio,
       .qreset, .regwrite, .partition, .preempt, .adminResume, .adminHalt, .adminEnd, .fwload, .svncommit].map fun i => ev i q

/-- A core cycle would change something: a thread of the core is ready, or is held off for some cycles yet (R231, R260). -/
def State.coreMoves (s : State) (c : Nat) : Bool :=
  (s.coreRefs c).any fun r => decide (0 < (s.thr r).holdoff) || s.canIssue r

/-- Core cycles of the cores on which something moves, from the core whose turn it is. -/
def State.cycleActs (s : State) : List Act :=
  ((((List.range 256).map fun k => (s.turn + k) % 256).find? s.coreMoves).toList).map .cycle

/-- The first act of a list that changes the state. -/
def State.firstChange (s : State) : List Act → Option State
  | [] => none
  | a :: as =>
    match s.act a with
    | .next x => if { x with sel := s.sel, sel2 := s.sel2 } = s then s.firstChange as else some x
    | _ => s.firstChange as

/-- The first act of five lists that changes the state: accesses, threads, engines, teams, core cycles. -/
def State.firstOf (s : State) : Option State :=
  (s.firstChange s.flightActs).or ((s.firstChange s.threadActs).or ((s.firstChange s.engineActs).or
    ((s.firstChange s.teamActs).or (s.firstChange s.cycleActs))))

/-- What happens when the agenda asks for nothing: the first event that changes something, else a core cycle, else
nothing. -/
def State.byDefault (s : State) : Host.Outcome State Fault Refusal :=
  .next { s.firstOf.getD s with sel := 0, sel2 := 0 }

/-- What happens next: the bundle of the core cycle in progress, else the head of the agenda, else the default. -/
def State.advance (s : State) : Host.Outcome State Fault Refusal :=
  match s.issue with
  | some u => s.issueStep u
  | none =>
    match s.agenda with
    | a :: as => { s with agenda := as }.act a
    | [] => s.byDefault

/-! ## A state that issues one word next (log 7) -/

/-- The role that the group of that state has: the one that may issue the word's instruction (R178). -/
def probeRole (w : Word) : BitVec 2 :=
  match decode w with
  | .ok i =>
    match (infoOf i).role with
    | .copy => 1
    | .matrix => 2
    | _ => 0
  | .error _ => 0

/-- The launch block of that state: one team of 16 lanes, with some of every table. -/
def probeBlock (role : BitVec 2) : Block :=
  { version := 1, kflags := 0x80, lanepc := 0x10000, ctlpc := 0, tsize := 16, nteam := 1, partword := 0x53, regs := 64,
    scrg := 4, slots := 8, tiles := 8, cvreg := 8, kgreg := 8, tbar := 8, rings := 0, cbar := 0, gbar := 0, cohp := 0,
    cohf := 0, clkwant := 0, crit := 0, argptr := 0, catptr := 0, ctrptr := 0, ctrinc := 0, stkbase := 0, stksize := 0,
    spillptr := 0, roles := [role] }

/-- The launch of that state. -/
def probeLaunch (role : BitVec 2) : Launch :=
  { queue := 0, seq := 0, block := probeBlock role, harvest := false, prio := 0, home := 0, part := 0, tenant := 0, asid := 0,
    root := 0, tvec := 0, saveptr := 0, savestride := 0, statusPtr := 0, status := .running, code := 0, counter := 1,
    placed := 1, retired := 0, clkwant := 0, crit := 0, gbars := [], cohorts := [], order := 0, gang := none, nclass := 0,
    started := true, laneLine := (0, []), ctlLine := (0, []) }

/-- The team of that state, resident on core 0, of launch `l`. -/
def probeTeamOf (role : BitVec 2) (l : Nat) : Team :=
  let b := probeBlock role
  { Team.start (probeLaunch role) l 0 0 with
    status := .resident
    ctxid := 1
    halves := [Half.start b 0 [0] [0, 1, 2, 3] [0, 1, 2, 3, 4, 5, 6, 7] ((List.range 18).map fun k => 8 + k) [0, 1, 2, 3] [] []]
    threads := startThreads b 0 fun _ => [0] }

/-- The leaf of the page that holds that state's program: readable, writable and executable, at the address itself. -/
def probeLeaf : Leaf :=
  { level := 3, base := 0x10000, rd := true, wr := true, ex := true, cust := false, glob := false, dirty := true, kind := 0,
    plinth := false }

/-- A state in which one more team stands on core 0 with its first word `w` in memory and in the instruction cache, and core
0's cycle is about to issue it (log 7). -/
def State.aboutToIssue (s : State) (w : Word) : State :=
  let t := s.teams.length
  let role := probeRole w
  let bs := leBytes 4 w.toNat
  { s with
    launches := s.launches ++ [probeLaunch role]
    teams := s.teams ++ [probeTeamOf role s.launches.length]
    cores := s.cores.modify 0 fun c => { c with partition := 0x53 }
    mem := writeBytes s.mem 0x10000 bs
    tlb := { loc := 0, asid := 0, vpage := 0x10000, leaf := probeLeaf } :: s.tlb
    icache := { core := 0, line := 0x10000, data := bs ++ List.replicate 124 0, bad := [] } :: s.icache
    issue := some { core := 0, todo := [(List.range 16).map fun k => ⟨t, k⟩], left := [] } }

end Sys2Proof.Machine
end

