-- ==== Sys2Proof/Machine/Step.lean ====
section
/-! DEFINITION. One step of the machine, and the placing of a word where the next step fetches it (log 3, 7). -/

namespace Sys2Proof.Machine

open Sys2Proof

/-- One step: one bundle of the core cycle in progress, else one entry of the agenda, else what happens by default. -/
def step (s : State) : Host.Outcome State Fault Refusal := s.advance

/-- The word `w` stored where the next step fetches: one of `nbits` bits, the bits above them zero. -/
def State.withFetchWord (s : State) (nbits w : Nat) : State := s.aboutToIssue (BitVec.ofNat 32 (w % 2 ^ min nbits 32))

end Sys2Proof.Machine
end

