-- ==== Sys2Proof/Safety.lean ====
section
/-! DEFINITION. The terms that claims are stated in: well-formed states, bundles that can issue, a lane's word accepted by
the shared checks, and what an instruction that acts on its lanes alone leaves as it was. -/

namespace Sys2Proof.Machine

open Sys2Proof

/-! ## Well-formed states -/

/-- A thread of that name exists. -/
def State.has (s : State) (r : Ref) : Prop := r.team < s.teams.length ∧ r.thr < (s.team r.team).threads.length

/-- The bundle being issued names threads that exist, each once. -/
def State.bundled (s : State) : Prop := s.cur.Nodup ∧ ∀ r ∈ s.cur, s.has r

/-! ## The same but for the fragments -/

/-- A thread without its fragment number, its parking, the addresses it has gone to since its fragment was last whole, and the
time since when it stands where it is, which R185 and R189 change after any instruction. -/
def Thread.veil (t : Thread) : Thread := { t with frag := 0, parked := false, path := [], since := 0 }
/-- A group without its count of retired instructions, which any instruction advances (R211). -/
def Group.veil (g : Group) : Group := { g with retired := 0 }
/-- A team so. -/
def Team.veil (x : Team) : Team := { x with threads := x.threads.map Thread.veil, groups := x.groups.map Group.veil }
/-- A state so, and without the count of free values, which is the model's own (log 8). -/
def State.veil (s : State) : State := { s with teams := s.teams.map Team.veil, drawn := 0 }

/-! ## A word that the shared checks accept (R235) -/

/-- The shared checks of R235 find nothing against a word in a lane: its hint and modifiers suit it and, where its guard is
true, no reserved field is set, the registers it names exist, it is not privileged outside custodian mode, the role permits
it and so do the region rules. -/
def State.accepts (s : State) (i : Instr) (r : Ref) : Bool :=
  let f := infoOf i
  let t := s.thr r
  !badHint f t.hint && !badWide f t.hint && !badMods f t.ctl t.hint &&
    (!t.pred f.g || (!(if t.ctl then f.rsvCtl else f.rsvLane) && !noOrd f t.hint && (s.headFault f false r).isNone &&
      !s.regionBad f r))

/-- A word's guard is true in a thread (R223). -/
def Thread.active (i : Instr) (t : Thread) : Bool := t.pred (infoOf i).g

/-- The bundle names threads that exist, the word passes the shared checks in each, and each whose guard is true meets `p`. -/
def State.issues (s : State) (i : Instr) (p : Thread → Prop) : Prop :=
  s.bundled ∧ ∀ r ∈ s.cur, s.accepts i r = true ∧ ((s.thr r).active i = true → p (s.thr r))

/-- No register that the word reads is poisoned (R104, R244). -/
def Clean (i : Instr) (t : Thread) : Prop := t.poisoned (infoOf i).reads = false

/-! ## What an instruction that acts on its lanes alone does -/

/-- A thread without what the word of a lane may write: its registers, predicates, FPSTAT and PC, its hint, its wait and
its walks, its age and the cycles it is held off, and its place among the fragments. -/
def Thread.rest (t : Thread) : Thread :=
  { t with frag := 0, parked := false, path := [], since := 0, pc := 0, hint := none, regs := Vector.replicate 64 zeroReg, preds := 0, fpstat := 0,
           wait := none, walked := [], age := 0, holdoff := 0 }

/-- Thread `v` is `u` after a word: its registers are those of `w` where `w` gives one, register 0 reads zero, the other
registers are as before; its predicates, FPSTAT and PC are those given; its hint is used up; all else is as it was. -/
structure Lane (u v : Thread) (w : Nat → Option Reg) (preds : BitVec 3 → Bool) (fpstat : BitVec 32) (pc : BitVec 64) : Prop where
  reg : ∀ n, v.reg n = if n = 0 then zeroReg else (w n).getD (u.reg n)
  preds : ∀ q, v.pred q = preds q
  fpstat : v.fpstat = fpstat
  pc : v.pc = pc
  hint : v.hint = none
  rest : v.rest = u.rest

/-- One register. -/
def one (d : BitVec 6) (x : Reg) (n : Nat) : Option Reg := if n = d.toNat then some x else none
/-- The two registers of a pair in the lane stream, one register in the control stream (R6, R225). -/
def pair (ctl : Bool) (d : BitVec 6) (x : BitVec 64) (g : Tag) (n : Nat) : Option Reg :=
  if ctl then one d { val := x, tag := g } n
  else if n = d.toNat then some { val := x &&& 0xFFFFFFFF, tag := g }
  else if n = d.toNat + 1 then some { val := x >>> 32, tag := g } else none
/-- No register. -/
def nothing (_ : Nat) : Option Reg := none

/-- The lane writes registers and goes on to the next word. -/
def Writes (w : Thread → Nat → Option Reg) (u v : Thread) : Prop := Lane u v (w u) u.pred u.fpstat u.nextPc
/-- The lane writes one register. -/
def Gives (d : BitVec 6) (x : Thread → Reg) : Thread → Thread → Prop := Writes fun u => one d (x u)
/-- The predicates with one written; P0 stays true (R172, R226). -/
def predsWith (u : Thread) (p : BitVec 3) (b : Bool) (q : BitVec 3) : Bool := if q = p ∧ q ≠ 0 then b else u.pred q
/-- The lane writes one predicate. -/
def Sets (p : BitVec 3) (b : Thread → Bool) (u v : Thread) : Prop := Lane u v nothing (predsWith u p (b u)) u.fpstat u.nextPc
/-- The lane goes on to another address. -/
def Jumps (w : Thread → Nat → Option Reg) (pc : Thread → BitVec 64) (u v : Thread) : Prop :=
  Lane u v (w u) u.pred u.fpstat (pc u)
/-- A lane whose guard is false retires the word with no effect (R223). -/
def Idle : Thread → Thread → Prop := Writes fun _ => nothing

/-- What an instruction that acts on its lanes alone leaves as it was: every other thread, but for the fragment it stands in;
every byte of memory; each team's registers, queues, barriers, slots, convergence registers, tiles, vitrine, scratch and
claims, but for the counts of retired instructions; and everything else the module holds. (The count of
free values is the model's own.) -/
structure LanesOnly (s t : State) : Prop where
  threads : ∀ r, r ∉ s.cur → (t.thr r).veil = (s.thr r).veil
  memory : ∀ a, readByte t.mem a = readByte s.mem a
  teams : ∀ n, { (t.team n).veil with threads := [] } = { (s.team n).veil with threads := [] }
  rest : { t with teams := s.teams, drawn := s.drawn } = s

/-- The instruction completes: the next state differs in the lanes of the bundle alone; each lane whose guard is true has
done what `p` says of it, each other retired the word with no effect. -/
def CompletesAt (i : Instr) (s : State) (p : Ref → Thread → Thread → Prop) : Prop :=
  ∃ t, exec i s = .next t ∧ LanesOnly s t ∧
    ∀ r ∈ s.cur, if (s.thr r).active i then p r (s.thr r) (t.thr r) else Idle (s.thr r) (t.thr r)

/-- So, where `p` is the same for every lane. -/
def Completes (i : Instr) (s : State) (p : Thread → Thread → Prop) : Prop := CompletesAt i s fun _ => p

/-- Every lane of the bundle has retired the word. -/
def State.passed (s : State) : State := s.cur.foldl (fun x r => x.modThr r Thread.retire) s

/-- The instruction completes, and the next state is `x` but for the places of the fragments and the counts of retired
instructions. -/
def Becomes (i : Instr) (s x : State) : Prop := ∃ t, exec i s = .next t ∧ t.veil = x.veil

end Sys2Proof.Machine
end

