-- ==== Sys2Proof/WellFormed.lean ====
section
/-! DEFINITION. Which terms of `Instr` are instructions: the codes that the opcode map assigns (R232 to R234) and, for
the events that bring values from outside, the sizes those values may have. -/

namespace Sys2Proof

/-- The word has an unassigned major or minor (R232). -/
def isUnassigned (w : Word) : Bool :=
  match decode w with
  | .ok (.unassignedEncoding _) => true
  | _ => false

/-- A width that a register access may have, in bytes (R88). -/
def accessSize (n : Nat) : Bool := n == 1 || n == 2 || n == 4 || n == 8

/-- The instruction is one that the opcode map assigns. -/
def Instr.wellFormed : Instr → Bool
  | .icmp _ _ _ _ _ c => decide (c.toNat ≤ 9)
  | .cvt _ _ _ _ t => decide (2 ≤ t.toNat) && decide (t.toNat ≤ 6)
  | .cvti _ _ _ _ u t => cvtiOk u t
  | .atom _ _ _ _ w p => atomOk w p
  | .atoms _ _ _ _ w p => atomOk w p
  | .red _ w p _ _ => redOk w p
  | .bar _ _ l | .bara _ _ l | .barw _ _ l | .barredOr _ _ _ _ l | .barredAnd _ _ _ _ l | .barredMax _ _ _ _ l => l != 3
  | .mma _ _ _ _ _ _ k | .mmas _ _ _ _ _ _ k => k != 3
  | .mmaq _ _ _ _ q k => q != 3 && k != 3
  | .csrr _ d _ => d != 0
  | .unassignedEncoding w => isUnassigned w
  | .registerWrite _ size _ => accessSize size
  | .powerMeasurement _ _ _ a0 a1 => a0.length == 4 && a1.length == 4
  | .hostAccess n _ _ size _ => decide (1 ≤ size) && decide (size ≤ 16) && (n == 0 || n == 2 || n == 4)
  | .peerAccess _ _ _ size _ => decide (1 ≤ size) && decide (size ≤ 16)
  | _ => true

end Sys2Proof
end

