-- ==== Sys2Proof/Certificates/Slice0/Obligations.lean ====
section
/-! DEFINITION. The statements for the provers, in the order of the manual's files. Each docstring names the rules that its
statement formalises. -/

open Sys2Proof Sys2Proof.Machine

/-! ## Integer, address, predicate and control instructions (R243 to R262) -/

namespace Sys2Proof.Machine

/-- An N-bit result tagged I32: 32 bits zero-extended in a G register, 64 bits in an S register (R243, R244). -/
def intReg (u : Thread) (f : (n : Nat) → BitVec n) : Reg :=
  { val := if u.ctl then f 64 else (f 32).setWidth 64, tag := tagI32 }
/-- `bits(N)` of a register (R243). -/
def bitsN (u : Thread) (n : Nat) (a : BitVec 6) : BitVec n := (u.reg a.toNat).val.setWidth n
/-- An operation on N-bit values. -/
abbrev Op1 := (n : Nat) → BitVec n → BitVec n
/-- An operation on two N-bit values. -/
abbrev Op2 := (n : Nat) → BitVec n → BitVec n → BitVec n
/-- The word writes to D the result of an operation on A, tagged I32. -/
def Int1 (d a : BitVec 6) (f : Op1) : Thread → Thread → Prop := Gives d fun u => intReg u fun n => f n (bitsN u n a)
/-- The word writes to D the result of an operation on A and B, tagged I32. -/
def Int2 (d a b : BitVec 6) (f : Op2) : Thread → Thread → Prop :=
  Gives d fun u => intReg u fun n => f n (bitsN u n a) (bitsN u n b)
/-- The immediate of a word at 32 bits: the wide hint's payload above IMM11, else IMM11 sign-extended (R250). -/
def imm (u : Thread) (i : BitVec 11) : BitVec 32 :=
  match u.hint with
  | some (.wide p) => p.extractLsb' 0 21 ++ i
  | _ => i.signExtend 32
/-- The word writes to D the result of an operation on A and its immediate, tagged I32. -/
def IntImm (d a : BitVec 6) (i : BitVec 11) (f : Op2) : Thread → Thread → Prop :=
  Gives d fun u => intReg u fun n => f n (bitsN u n a) ((imm u i).signExtend n)
/-- Shift count: the low five bits of b in the lane stream, the low six in the control stream (R248). -/
def cnt (n : Nat) (b : BitVec n) : Nat := b.toNat % n
/-- The mask of a bit field: its position in the low bits of b and its length from bit 8 up (R249). -/
def field (n : Nat) (b : BitVec n) : BitVec n := BitVec.ofNat n ((2 ^ (b.toNat / 2 ^ 8 % n) - 1) * 2 ^ cnt n b)
/-- Number of leading zero bits of the `k` low bits of a value. -/
def leading (x : Nat) : Nat → Nat
  | 0 => 0
  | k + 1 => if x.testBit k then 0 else leading x k + 1

end Sys2Proof.Machine

/-- R247, R244: the sixteen integer instructions, in both streams: the result written to D, its tag, and the frame. -/
def Obligations.IntegerResults : Prop :=
  ∀ (s : State) (g : BitVec 3) (d a b : BitVec 6),
    (∀ i f, (i, f) ∈ ([
        (.iadd g d a b, fun _ x y => x + y),
        (.isub g d a b, fun _ x y => x - y),
        (.imul g d a b, fun _ x y => x * y),
        (.imulh g d a b, fun n x y => BitVec.ofInt n (x.toInt * y.toInt / 2 ^ n)),
        (.imulhu g d a b, fun n x y => BitVec.ofNat n (x.toNat * y.toNat / 2 ^ n)),
        (.idiv g d a b, fun n x y =>
          if y = 0 then BitVec.allOnes n
          else if x.toInt = -2 ^ (n - 1) ∧ y.toInt = -1 then x else BitVec.ofInt n (x.toInt.tdiv y.toInt)),
        (.idivu g d a b, fun n x y => if y = 0 then BitVec.allOnes n else BitVec.ofNat n (x.toNat / y.toNat)),
        (.irem g d a b, fun n x y =>
          if y = 0 then x
          else if x.toInt = -2 ^ (n - 1) ∧ y.toInt = -1 then 0
          else BitVec.ofInt n (x.toInt - y.toInt * x.toInt.tdiv y.toInt)),
        (.iremu g d a b, fun n x y => if y = 0 then x else BitVec.ofNat n (x.toNat - y.toNat * (x.toNat / y.toNat))),
        (.imin g d a b, fun _ x y => if x.toInt < y.toInt then x else y),
        (.imax g d a b, fun _ x y => if x.toInt < y.toInt then y else x),
        (.iminu g d a b, fun _ x y => if x.toNat < y.toNat then x else y),
        (.imaxu g d a b, fun _ x y => if x.toNat < y.toNat then y else x),
        (.iadds g d a b, fun n x y =>
          BitVec.ofInt n (max (-2 ^ (n - 1)) (min (x.toInt + y.toInt) (2 ^ (n - 1) - 1)))),
        (.isubs g d a b, fun n x y =>
          BitVec.ofInt n (max (-2 ^ (n - 1)) (min (x.toInt - y.toInt) (2 ^ (n - 1) - 1))))] : List (Instr × Op2)) →
      s.issues i (Clean i) → Completes i s (Int2 d a b f)) ∧
    (s.issues (.iabs g d a) (Clean (.iabs g d a)) →
      Completes (.iabs g d a) s (Int1 d a fun n x => BitVec.ofInt n x.toInt.natAbs))

/-- R248, R249, R244: logic, shifts, rotations, counts, bit fields and MOV, in both streams. -/
def Obligations.LogicShiftAndFieldResults : Prop :=
  ∀ (s : State) (g : BitVec 3) (d a b : BitVec 6),
    (∀ i f, (i, f) ∈ ([
        (.and g d a b, fun _ x y => x &&& y),
        (.or g d a b, fun _ x y => x ||| y),
        (.xor g d a b, fun _ x y => x ^^^ y),
        (.andn g d a b, fun _ x y => x &&& ~~~y),
        (.orn g d a b, fun _ x y => x ||| ~~~y),
        (.xnor g d a b, fun _ x y => ~~~(x ^^^ y)),
        (.shl g d a b, fun n x y => x <<< cnt n y),
        (.shr g d a b, fun n x y => x >>> cnt n y),
        (.sar g d a b, fun n x y => x.sshiftRight (cnt n y)),
        (.rol g d a b, fun n x y => x.rotateLeft (cnt n y)),
        (.rot g d a b, fun n x y => x.rotateRight (cnt n y)),
        (.bfe g d a b, fun n x y => (x &&& field n y) >>> cnt n y)] : List (Instr × Op2)) →
      s.issues i (Clean i) → Completes i s (Int2 d a b f)) ∧
    (∀ i f, (i, f) ∈ ([
        (.popc g d a, fun n x => BitVec.ofNat n ((List.range n).countP fun k => x.getLsbD k)),
        (.clz g d a, fun n x => BitVec.ofNat n (leading x.toNat n)),
        (.ctz g d a, fun n x => BitVec.ofNat n (leading x.reverse.toNat n)),
        (.brev g d a, fun _ x => x.reverse)] : List (Instr × Op1)) →
      s.issues i (Clean i) → Completes i s (Int1 d a f)) ∧
    (s.issues (.bfi g d a b) (Clean (.bfi g d a b)) → Completes (.bfi g d a b) s (Gives d fun u => intReg u fun n =>
      (bitsN u n d &&& ~~~field n (bitsN u n b)) |||
        ((bitsN u n a <<< cnt n (bitsN u n b)) &&& field n (bitsN u n b)))) ∧
    (s.issues (.mov g d a) (Clean (.mov g d a)) → Completes (.mov g d a) s (Gives d fun u => u.reg a.toNat))

/-- R250, R251, R228: the immediate forms, with and without a wide hint, and the immediate shifts. -/
def Obligations.ImmediateResults : Prop :=
  ∀ (s : State) (g : BitVec 3) (d a : BitVec 6) (v : BitVec 11),
    (∀ i f, (i, f) ∈ ([
        (.iaddi g d a v, fun _ x y => x + y),
        (.imuli g d a v, fun _ x y => x * y),
        (.andi g d a v, fun _ x y => x &&& y),
        (.ori g d a v, fun _ x y => x ||| y),
        (.xori g d a v, fun _ x y => x ^^^ y)] : List (Instr × Op2)) →
      s.issues i (Clean i) → Completes i s (IntImm d a v f)) ∧
    (s.issues (.movi g d v) (Clean (.movi g d v)) →
      Completes (.movi g d v) s (Gives d fun u => intReg u fun n => (imm u v).signExtend n)) ∧
    (∀ i f, (i, f) ∈ ([
        (.shli g d a v, fun n x => x <<< (v.toNat % n)),
        (.shri g d a v, fun n x => x >>> (v.toNat % n)),
        (.sari g d a v, fun n x => x.sshiftRight (v.toNat % n))] : List (Instr × Op1)) →
      s.issues i (Clean i) → Completes i s (Int1 d a f))

/-- R252, R225: 64-bit address pairs in the lane stream, S registers in the control stream. -/
def Obligations.AddressPairResults : Prop :=
  ∀ (s : State) (g : BitVec 3) (d a b : BitVec 6) (v : BitVec 11),
    (∀ i f, (i, f) ∈ ([
        (.aadd g d a b, fun u => u.pairVal a.toNat + u.pairVal b.toNat),
        (.asub g d a b, fun u => u.pairVal a.toNat - u.pairVal b.toNat),
        (.aadds g d a b, fun u => u.pairVal a.toNat + (bitsN u 32 b).signExtend 64),
        (.aaddu g d a b, fun u => u.pairVal a.toNat + (bitsN u 32 b).setWidth 64),
        (.amuls g d a b, fun u => BitVec.ofInt 64 ((bitsN u 32 a).toInt * (bitsN u 32 b).toInt)),
        (.amulu g d a b, fun u => BitVec.ofNat 64 ((bitsN u 32 a).toNat * (bitsN u 32 b).toNat)),
        (.aaddi g d a v, fun u => u.pairVal a.toNat + (imm u v).signExtend 64)] : List (Instr × (Thread → BitVec 64))) →
      s.issues i (Clean i) → Completes i s (Writes fun u => pair u.ctl d (f u) tagI32)) ∧
    (s.issues (.amov g d a) (Clean (.amov g d a)) → Completes (.amov g d a) s (Writes fun u n =>
      if n = d.toNat then some (u.reg a.toNat)
      else if ¬u.ctl ∧ n = d.toNat + 1 then some (u.reg (a.toNat + 1)) else none))

/-! ## The front end and the curator (R196 to R201, R368, R401 to R420) -/

namespace Sys2Proof.Machine

/-- Nothing waits at the homes, and queue `sel`'s head is the good packet `p` of a type, ready to be judged (R403, R404). -/
def Ready (s : State) (p : List Byte) (type : Nat) : Prop :=
  s.homesOpen = true ∧ s.readyHead s.sel = some (some p) ∧ pktBad p = false ∧ pktType p = type

/-- The packet `p` is ready, and its STATUS can be written: `x` is the state once that is known (R404, R406). -/
def Taken (s : State) (p : List Byte) (type : Nat) (x : State) : Prop :=
  Ready s p type ∧ s.statusOk s.sel (pktStatus p) = (x, true)

/-- The administrative queue's head is a good ADMIN packet and the curator is running (R408, R409). -/
def AdminTaken (s : State) (p : List Byte) (x : State) : Prop :=
  Taken s p 0x10 x ∧ (s.queue s.sel).admin = true ∧ s.curator.running.isSome = true ∧ s.curator.restarting = false

end Sys2Proof.Machine

/-- R404, R406: NOP, SIGNAL and WAIT packets; a WAIT whose counter is not reached holds its queue, and is taken later when
the counter is reached, its STATUS checked then; an add that faults or is lost is recorded. -/
def Obligations.FrontEndPackets : Prop :=
  ∀ (s x : State) (p : List Byte),
    let n := s.sel
    let q := x.queue n
    let mode := q.homedie.toNat
    (Taken s p 5 x → exec .nopPacket s = .next (x.finishHead n p 0 0)) ∧
    (Taken s p 4 x → (pktWord p 16).toNat % 8 = 0 →
      (∀ y, x.agentCheck mode q.space { rd := true, wr := true } 3 (pktWord p 16) 8 = (y, none) →
        exec .signal s =
          .next ((y.finishHead n p 0 0).frontAdd mode q.space q.harvest (pktWord p 16) (pktWord p 24) false)) ∧
      (∀ y f, x.agentCheck mode q.space { rd := true, wr := true } 3 (pktWord p 16) 8 = (y, some f) →
        exec .signal s = .next (y.stopQueue n 0x29))) ∧
    (∀ y f, x.agentAdd mode q.space q.harvest (pktWord p 16) (pktWord p 24) false = (y, f) →
      x.frontAdd mode q.space q.harvest (pktWord p 16) (pktWord p 24) false =
        if f.isSome then y.errorRecord mode 0x19 1 0 (pktWord p 16).toNat 0 else y) ∧
    (Ready s p 3 → (pktWord p 16).toNat % 8 = 0 →
      (∀ y, s.waitReached n p = (y, .yes) →
        let z := y.modQueue n fun q => { q with held := false }
        (z.statusOk n (pktStatus p) = (x, true) → exec .wait s = .next (x.finishHead n p 0 0)) ∧
        (z.statusOk n (pktStatus p) = (x, false) → exec .wait s = .next (x.stopQueue n 0x10))) ∧
      (∀ y, s.waitReached n p = (y, .no) → exec .wait s = .next (y.modQueue n fun q => { q with held := true })) ∧
      (∀ y, s.waitReached n p = (y, .fault) →
        exec .wait s = .next ((y.modQueue n fun q => { q with held := false }).stopQueue n 0x29))) ∧
    (s.homesOpen = true → (s.queue n).held = true → (s.queue n).en = true → (s.queue n).stopped = false →
      s.headPacket n = some p →
      ∀ y l pa, s.agentAt (s.queue n).homedie.toNat (s.queue n).space (pktWord p 16) { rd := true } 1 = (y, .ok (l, pa)) →
        exec .waitRelease s = .next (if spaceOf pa ≠ .host then y.judgeWait n p else s) ∧
        exec .waitPoll s = .next (if spaceOf pa = .host then y.judgeWait n p else s)) ∧
    (∀ code extra, pktStatus p = 0 → x.finishHead n p code extra =
      { x with queues := x.queues.modify n fun q => { q with head := q.head + 1 } })

/-- R406: a bad packet stops its queue with the head in place, and raises QUEUEERR; a reserved type is a bad packet. -/
def Obligations.BadPacketStopsQueue : Prop :=
  ∀ (s : State) (p : List Byte), s.homesOpen = true → s.readyHead s.sel = some (some p) → pktBad p = true →
    (s.queue s.sel).homedie.toNat < s.dies.length → s.sel < s.queues.length →
    (∀ i ∈ [Instr.launch, .gang, .wait, .signal, .nopPacket, .qcreate, .qdestroy, .qprio, .qreset, .regwrite, .partition,
        .preempt, .adminResume, .adminHalt, .adminEnd, .fwload, .svncommit],
      ∃ t, exec i s = .next t ∧ (t.queue s.sel).stopped = true ∧ (t.queue s.sel).errcode = 0x10 ∧
        (t.queue s.sel).head = (s.queue s.sel).head ∧
        (t.die (s.queue s.sel).homedie.toNat).intcause.getLsbD 0 = true ∧ (∀ a, readByte t.mem a = readByte s.mem a) ∧
        t.teams = s.teams ∧ t.launches = s.launches)

/-- R408, R409: each ADMIN operation is performed by the curator, writes its status and passes the head; what QDESTROY,
QPRIO, PARTITION, RESUME, HALT, END and PREEMPT do; BAD_OP changes nothing. -/
def Obligations.AdminOperations : Prop :=
  ∀ (s x : State) (p : List Byte), AdminTaken s p x →
    (∀ i op f, (i, op, f) ∈ ([
        (.qcreate, 1, fun x => x.opQcreate p), (.qdestroy, 2, fun x => x.opQdestroy p), (.qprio, 3, fun x => x.opQprio p),
        (.qreset, 4, fun x => x.opQreset p), (.regwrite, 5, fun x => x.opRegwrite p),
        (.partition, 6, fun x => x.opPartition p), (.preempt, 7, fun x => x.opPreempt p),
        (.adminResume, 8, fun x => x.opResume p), (.adminHalt, 9, fun x => x.opHalt p),
        (.adminEnd, 10, fun x => x.opEnd p), (.fwload, 11, fun x => x.opFwload p),
        (.svncommit, 12, fun x => x.opSvncommit)] : List (Instr × Nat × (State → AdminResult))) →
      pktOp p = op → exec i s = .next ((f x).state.finishHead s.sel p (f x).code (f x).extra)) ∧
    (∀ n, pktQueue p = some n →
      ((x.queue n).en = true →
        x.opQdestroy p = { state := x.modQueue n fun q => { q with destroying := true }, code := 0 }) ∧
      (recNum p 22 1 ≤ 15 → x.opQprio p =
        { state := x.modQueue n fun q => { q with prio := BitVec.ofNat 4 (recNum p 22 1) }, code := 0 }) ∧
      (15 < recNum p 22 1 → x.opQprio p = { state := x, code := 0x13 })) ∧
    (recNum p 20 1 ∈ [1, 2, 4, 8, 16] → (∀ l ∈ x.launches, l.status = .retired) →
      x.opPartition p = { state := { x with npart := recNum p 20 1 }, code := 0 }) ∧
    (∀ l, x.namedLaunches p = [l] →
      x.opEnd p = { state := x.endOne l 0x24, code := 0 } ∧
      x.opResume p = { state := (x.teamsOf l).foldl State.resumeTeam x, code := 0 } ∧
      ((x.launches.getD l default).harvest = true → x.opPreempt p = { state := x, code := 0x13 })) ∧
    (x.namedLaunches p = [] → x.opEnd p = { state := x, code := 0x13 } ∧ x.opResume p = { state := x, code := 0x13 } ∧
      x.opHalt p = { state := x, code := 0x13 } ∧ x.opPreempt p = { state := x, code := 0x13 }) ∧
    (∀ n, x.curator.running = some n → (x.curator.slot (1 - n)).length < 352 →
      x.opSvncommit = { state := { x with curator := { x.curator with
        fuses := max x.curator.fuses (imgSvn (x.curator.slot n)) } }, code := 0 })

/-- R196, R197, R404: a LAUNCH packet at its queue's turn becomes a running launch with its queue's context and a draw
counter of 0, or is rejected with its check's code; a GANG packet whose table cannot be read is rejected with LB_FAULT. -/
def Obligations.LaunchPackets : Prop :=
  ∀ (s x : State) (p : List Byte),
    let n := s.sel
    let q := x.queue n
    s.nextQueue (s.queue n).homedie.toNat = some n →
    (Taken s p 1 x → ∀ y c, x.takeBlock q q.space q.part.toNat (pktWord p 16) = (y, c) →
      (c.code = 0 → exec .launch s = .next (State.evaluate { (y.noteServed n).passHead n with
        launches := y.launches ++ [Launch.taken q n p c q.part.toNat q.homedie.toNat y.stamp none]
        stamp := y.stamp + 1 })) ∧
      (c.code ≠ 0 → exec .launch s = .next ((y.noteServed n).rejectLaunch n p c)) ∧
      (let l := Launch.taken q n p c q.part.toNat q.homedie.toNat y.stamp none
       l.status = .running ∧ l.counter = 0 ∧ l.block = c.block ∧ l.asid = q.asid ∧ l.root = q.root ∧ l.tvec = q.tvec ∧
         l.seq = q.head ∧ l.statusPtr = pktStatus p ∧ l.prio ≤ q.prio.toNat ∧ l.harvest = q.harvest)) ∧
    (Taken s p 2 x → exec .gang s = .next (x.takeGang n p) ∧
      ∀ y f, x.agentLoad q.homedie.toNat q.space (pktWord p 16) (16 * recNum p 24 4) = (y, .error f) →
        exec .gang s = .next ((y.noteServed n).rejectGang n p 0x28))

/-- R201, R218, R405, R412, R413: a gang whose reservations are all whole commits and every part runs and starts; a broken
one ends its parts with GANG_ABORT; one whose time has run ends them with GANG_TIMEOUT; a launch whose teams have all retired
retires: its status record, its counter add, then the belfry. -/
def Obligations.GangsAndLaunchesEnd : Prop :=
  ∀ (s : State),
    (∀ y : Gang, s.gangs[s.sel]? = some y → y.committed = false → y.done = false →
    (s.gangBroken y = true → exec .gangCommit s = .next (y.parts.foldl (fun x l => x.endOne l 0x26) s)) ∧
    (s.gangBroken y = false → (∀ l ∈ y.parts, s.gridWhole l = true) → ∃ t, exec .gangCommit s = .next t ∧
      t.gangs[s.sel]? = some { y with committed := true } ∧
      (∀ l ∈ y.parts, l < s.launches.length →
        (t.launches.getD l default).status = .running ∧ (t.launches.getD l default).started = true) ∧
      (∀ a, readByte t.mem a = readByte s.mem a)) ∧
    (y.code = 0 → (∃ l ∈ y.parts, s.gridWhole l = false) → y.started + 1000 * y.timeout ≤ s.gtime →
      exec .gangTimeout s = .next (y.parts.foldl (fun x l => x.endOne l 0x25)
        { s with gangs := s.gangs.modify s.sel fun x => { x with code := 0x25 } })) ∧
    (s.gtime < y.started + 1000 * y.timeout → exec .gangTimeout s = .next s)) ∧
    (∀ l : Launch, s.launches[s.sel]? = some l →
    (s.launchDone s.sel = true → s.homesOpen = true → l.gang = none → exec .launchRetire s = .next (State.evaluate
      (((s.modLaunch s.sel fun x => { x with status := .retired }).writeStatus l.home l.space l.harvest l.statusPtr
        (leBytes 8 (l.code.toNat + 2 ^ 8 * (l.queue % 256) + 2 ^ 16 * min 0xFFFF l.placed + 2 ^ 32 * l.seq.toNat))).finalAdd
          l.home l.space l.harvest l.block.ctrptr (BitVec.ofNat 64 l.block.ctrinc) (l.code != 0)))) ∧
    (s.launchDone s.sel = false → exec .launchRetire s = .next s))

/-- R194, R203 to R205, R209, R210: draws, placement, the start of a placed team, the zeroing of one granule, and a team's
retirement. -/
def Obligations.TeamsDrawnPlacedAndRetired : Prop :=
  ∀ (s : State),
    (let x := s.launches.getD s.sel default
     s.sel < s.launches.length → s.placing s.sel = true → s.sel2 ∈ s.partDies x.part →
       (∀ t ∈ s.teams, t.launch = s.sel → t.disp = s.sel2 → t.status ≠ .drawn ∧ t.status ≠ .evicted) →
       x.counter < x.block.nteam → ∃ k t, exec .dispatchDraw s = .next t ∧ k ≤ 16 ∧
         t.teams.length = s.teams.length + k ∧ (t.launches.getD s.sel default).counter = x.counter + k ∧
         (∀ j, j < k → (t.team (s.teams.length + j)).index = x.counter + j ∧
           (t.team (s.teams.length + j)).status = .drawn ∧ (t.team (s.teams.length + j)).launch = s.sel) ∧
         (∀ j, j < s.teams.length → t.team j = s.team j) ∧ (∀ a, readByte t.mem a = readByte s.mem a)) ∧
    (∀ (d : BitVec 1) (c : BitVec 16), c ≠ 0 → s.ctxUsed c = false → s.homesOpen = true → ∀ l x ts, s.placeOrder d.toNat = [l] →
      s.mayPlace l = true → s.returnFirst d.toNat l = false → s.placeNext d.toNat l c = some (x, ts) → x.gridsKept = true →
      exec (.teamPlacement d c) s = .next (ts.foldl (fun y t => y.tryStart t) x)) ∧
    ((s.launchOf s.sel).status = .running → (s.launchOf s.sel).block.gbar = 0 → (s.team s.sel).canStart = true →
      exec .guaranteedTeamRelease s = .next (s.modTeam s.sel fun t => { t with status := .resident })) ∧
    (∀ z p, s.zeroing[s.sel]? = some z → z.pos = [p] → s.zeroMay z = true →
      (∀ y ∈ s.zeroing, y.core = z.core → z.store.rank ≤ y.store.rank ∧ (y.store = z.store → p ≤ y.pos.headD 0)) →
      ∃ t, exec .granuleZeroed s = .next t ∧ t.zeroing = s.zeroing.eraseIdx s.sel ∧
        t.cores = s.cores.modify z.core (fun c => { c with gained := s.gtime }) ∧ (∀ a, readByte t.mem a = readByte s.mem a) ∧ (∀ r, t.thr r = s.thr r)) ∧
    (s.sel < s.teams.length → s.teamDone s.sel = true → ∃ t, exec .teamRetire s = .next t ∧
      (t.team s.sel).status = .retired ∧ (t.team s.sel).up = [] ∧ (t.team s.sel).down = [] ∧
      (∀ x ∈ t.rings, x.team ≠ s.sel) ∧ (∀ x ∈ t.monitors, x.team ≠ s.sel) ∧
      ((s.team s.sel).launch < s.launches.length → (t.launchOf s.sel).retired = (s.launchOf s.sel).retired + 1) ∧
      (∀ a, readByte t.mem a = readByte s.mem a))

/-- R368, R370 to R373, R408: the time slice requests a pre-emption; a blocked team with a request is pre-empted, wakes when
the wake condition of one of its threads holds, and comes back where seats for it are found. -/
def Obligations.PreemptionAndReturn : Prop :=
  ∀ (s : State),
    ((s.team s.sel).onCore = true → s.harvest s.sel = false → (s.launchOf s.sel).saves = true →
      s.curator.running.isSome = true → s.curator.restarting = false →
      exec .timeSliceRequest s = .next (s.modTeam s.sel fun t => { t with preemptReq := true })) ∧
    (s.mayPreempt s.sel = true → s.homesOpen = true → exec .teamPreempt s = .next
      ((((List.range (s.team s.sel).halves.length).foldl (fun x k => x.holdAcc s.sel k) (s.writeSave s.sel)).modTeam s.sel
        fun x => { x with status := .preempted, preemptReq := false, leftGrant := (s.die (s.team s.sel).die).grant
                          threads := x.threads.zipIdx.map fun p => s.savedThread ⟨s.sel, p.2⟩ p.1 }).freeHalves
          ((s.team s.sel).halves.map fun h => { h with accTiles := [], vitTiles := [] }) (some s.sel))) ∧
    (s.mayPreempt s.sel = false → exec .teamPreempt s = .next s) ∧
    ((s.team s.sel).status = .preempted →
      (∃ r ∈ s.allRefs s.sel, (s.thr r).exited = false ∧ ∃ w, (s.thr r).wait = some w ∧ s.wakes r w = true) →
      exec .teamWake s = .next (s.modTeam s.sel fun x => { x with status := .runnable })) ∧
    ((s.team s.sel).status = .runnable → s.returnSeats s.sel = none → exec .teamRestore s = .next s) ∧
    (∀ seats, (s.team s.sel).status = .runnable → s.homesOpen = true → s.sel < s.teams.length → s.returnSeats s.sel = some (seats, []) →
      (∀ l ∈ s.launches, l.openGrid = false) → ∃ t, exec .teamRestore s = .next t ∧
        ((t.team s.sel).status = .placed ∨ (t.team s.sel).status = .resident) ∧ t.launches = s.launches ∧
        (∀ a, readByte t.mem a = readByte s.mem a))

/-! ## The memory path (R33 to R46, R73 to R95, R119 to R145, R289 to R300) -/

/-- R85, R120, R293: a store is performed at its home: exactly its bytes change there, every other byte of memory is as it
was. (A deferred entry of a region is performed as its buffer holds it, and a drained tile by events of its own.) -/
def Obligations.StoreChangesItsBytesAlone : Prop :=
  ∀ (s : State) (f : Flight) (p : Piece), s.flights[s.sel]? = some f → f.pieces[s.sel2]? = some p → f.op = .store →
    (∀ t g, f.job ≠ .entry t g) → p.len ≠ 4096 → s.served s.sel s.sel2 = true → s.pieceLost f p = false → Memory.wf s.mem = true →
    (spaceOf (s.loopPa p.pa) = .hbm ∨ spaceOf (s.loopPa p.pa) = .host ∨ spaceOf (s.loopPa p.pa) = .peer) →
    spaceOf p.pa ≠ .device → ∃ t, exec .sliceAccess s = .next t ∧ ∀ a, readByte t.mem a =
      if s.loopPa p.addr ≤ a ∧ a < s.loopPa p.addr + (f.pieceBytes p).length then
        (f.pieceBytes p).getD (a - s.loopPa p.addr) 0
      else readByte s.mem a

/-- R85, R92, R295: a load's piece takes the bytes of memory and changes none; a line that its slice does not hold is asked
of HBM4E; an atomic's piece takes the old bytes, and the new ones stand in memory, all in one step. -/
def Obligations.LoadsAndAtomicsAtTheirHome : Prop :=
  ∀ (s : State) (f : Flight) (p : Piece), s.flights[s.sel]? = some f → f.pieces[s.sel2]? = some p →
    s.served s.sel s.sel2 = true → s.pieceLost f p = false →
    (f.op = .load → f.harvest = false → spaceOf p.pa = .hbm → s.l2Has p = false → p.fetched = false →
      (∀ t g, f.job ≠ .entry t g) → exec .sliceAccess s = .next (s.toHbm s.sel s.sel2)) ∧
    (f.op = .load → spaceOf p.pa = .host → (∀ t g, f.job ≠ .entry t g) → exec .sliceAccess s =
      .next ((s.l1Loaded f p).donePiece s.sel s.sel2 (s.imageRead p.addr p.len))) ∧
    (f.op = .load → spaceOf p.pa ≠ .device → (∀ t g, f.job ≠ .entry t g) → ∃ t, exec .sliceAccess s = .next t ∧
      ∀ a, readByte t.mem a = readByte s.mem a) ∧
    (∀ op wide b tag cmp rm sat, f.op = .atom op wide b tag cmp rm sat → spaceOf p.pa = .hbm → s.l2Has p = true →
      (∀ t g, f.job ≠ .entry t g) → (∀ k, k < p.len → (p.addr + k) ∉ s.poison) → s.reaches p.addr = true → Memory.wf s.mem = true → s.loopPa p.pa = p.pa → s.loopPa p.addr = p.addr →
      ∃ t, exec .farAtomic s = .next t ∧ ∀ a, readByte t.mem a =
        if p.addr ≤ a ∧ a < p.addr + p.len then
          (leBytes p.len (atomValue op wide tag rm sat s.drawn (bytes64 ((readBytes s.mem p.addr p.len).map fun b => (b, false)))
            b cmp).toNat).getD (a - p.addr) 0
        else readByte s.mem a) ∧
    (∀ a n, s.reaches a = true → (s.imageRead a n).map (·.1) = readBytes s.mem (s.loopPa a) n)

/-- R92: a pseudo-channel takes its next request and pays for it; its oldest harvest request, once it has waited 4,096 memory
cycles, counts as holding tokens, once per 4,096 memory cycles. -/
def Obligations.HbmRequests : Prop :=
  ∀ (s : State),
    (s.hbmNext s.sel = none → exec .hbmAccess s = .next s) ∧
    (∀ i c, s.hbmNext s.sel = some (i, c) → i < s.hbmq.length → ∃ t, exec .hbmAccess s = .next t ∧
        (∃ back, t.hbmq = s.hbmq.eraseIdx i ++ back ∧ ∀ q ∈ back, q.load = .writeBack) ∧
        t.hbmStacks = s.hbmStacks.modify (s.sel / 128) (fun x => { x with tokens := x.tokens - c }) ∧
        (∀ a, readByte t.mem a = readByte s.mem a)) ∧
    (let d := s.sel / 512
     let win : Prop := ∀ p ∈ (s.die d).aged, p.1 = 64 + s.sel % 512 → p.2 + 8 * 4096 ≤ (s.die d).mem8
     ∀ k q, s.hbmq[k]? = some q → q.channel = s.sel → q.harvest = true → q.aged = false →
      (∀ j x, j < k → s.hbmq[j]? = some x → ¬(x.channel = s.sel ∧ x.harvest = true)) →
      (q.since + 8 * 4096 ≤ (s.die d).mem8 → win → ∃ t, exec .hbmAgedRequest s = .next t ∧
        t.hbmq = s.hbmq.modify k (fun q => { q with aged := true }) ∧ t.mem = s.mem ∧ t.flights = s.flights ∧
        (d < s.dies.length → (64 + s.sel % 512, (s.die d).mem8) ∈ (t.die d).aged)) ∧
      (¬(q.since + 8 * 4096 ≤ (s.die d).mem8 ∧ win) → exec .hbmAgedRequest s = .next s))

/-- R123, R181, R290, R293, R295: when every piece of a thread's access is done, its response is taken: a load writes its
registers, an atomic its old value, a store only counts as performed. -/
def Obligations.ResponsesAreTaken : Prop :=
  ∀ (s : State) (f : Flight), s.flights[s.sel]? = some f → f.job = .thread → f.returned = false →
    (∀ p ∈ f.pieces, p.stage = .done) →
    let s1 := s.modFlight s.sel fun x => { x with returned := true, performed := true }
    let freed (t : Thread) : Thread := { t with pending := t.pending.filter fun p => p.2 != s.sel }
    (f.op = .load → exec .memoryResponse s = .next
      (s1.modThr f.own fun t => freed (t.loadWrite f.dst f.wcode f.tag (overlay f.loaded f.fwd))).sendAll) ∧
    (∀ op wide b tag cmp rm sat, f.op = .atom op wide b tag cmp rm sat → exec .memoryResponse s = .next
      (s1.modThr f.own fun t =>
        freed (t.atomWrite f.dst (f.wcode == 3) (bytes64 f.loaded) f.tag (f.loaded.any (·.2)))).sendAll) ∧
    (f.op = .store → exec .memoryResponse s = .next (s1.modThr f.own freed).sendAll) ∧
    (∀ (t : Thread) (d : BitVec 6) (g : Tag) (b0 b1 b2 b3 : Byte) (n : Nat),
      (t.loadWrite d 2 g [(b0, false), (b1, false), (b2, false), (b3, false)]).reg n =
        if n = 0 then zeroReg
        else if n = d.toNat then { val := (b3 ++ b2 ++ b1 ++ b0 : BitVec 32).setWidth 64, tag := g }
        else t.reg n)

/-- R78 to R80: a network cycle of an egress port sends its winner on, to its home or to its next port, or lets its heads age
where it has none; one in which a head of age 4,095 saturates or wins is such a cycle. -/
def Obligations.PacketsHopAndAge : Prop :=
  ∀ (s : State) (x : Port) (n : Nat) (blocked : List Nat), (s.ports.find? fun y => y.id == n) = some x →
    (x.winner blocked = none → exec (.packetHop n blocked) s =
      .next (s.modPort n fun y => { y.ageHeads y.heads with sinceSat := min (y.sinceSat + 1) 4095 })) ∧
    (∀ k sat p, x.winner blocked = some (k, sat) → x.fifo[k]? = some p →
      (∀ a b q, p.route = [] → p.load = .piece a b → p.resp = false →
        ((s.flights.getD a default).pieces)[b]? = some q → ∃ t,
        exec (.packetHop n blocked) s = .next t ∧ t.stamp = s.stamp + 1 ∧ (∀ y ∈ t.ports, y.id = n → y.last = p.input) ∧
          ((t.flights.getD a default).pieces.getD b default).stage = .slice ∧
          ((t.flights.getD a default).pieces.getD b default).arr = s.stamp ∧ t.mem = s.mem ∧ t.teams = s.teams) ∧
      (∀ m rest, p.route = m :: rest → m ≠ n → ∃ t, exec (.packetHop n blocked) s = .next t ∧
        (∀ y ∈ t.ports, y.id = n → y.last = p.input) ∧
        (∃ y ∈ t.ports, y.id = m ∧ y.fifo.getLast? = some { p with input := n % 128, route := rest, age := 0 }) ∧
        t.mem = s.mem ∧ t.teams = s.teams ∧ t.flights = s.flights)) ∧
    (s.sel = n → exec .packetAgeSaturate s =
      if ∃ k ∈ x.heads, (x.fifo.getD k default).age = 4095 then exec (.packetHop n []) s else .next s)

/-- R33 to R37, R76: a page walk of a waiting thread leaves its result with the thread, and with every other thread of the die
that waits for the page; an instruction line is asked of its home once, and enters the cache as it comes back. -/
def Obligations.WalksAndFills : Prop :=
  ∀ (s : State),
    let r : Ref := ⟨s.sel, s.sel2⟩
    (∀ va need, s.wantsWalk r = some (va, need) → s.homesOpen = true → ∃ t, exec .walkComplete s = .next t ∧
      ∀ q vq nq, s.has q → s.wantsWalk q = some (vq, nq) → s.dieOf q = s.dieOf r → clearLow vq 16 = clearLow va 16 →
        (s.team q.team).xroot = (s.team r.team).xroot →
        ((s.team q.team).xasid.setWidth 16 : BitVec 16) = (s.team r.team).xasid.setWidth 16 →
        ∃ x y, (t.thr q).walked = x :: y ∧ x.va = vq) ∧
    (s.wantsWalk r = none → exec .walkComplete s = .next s) ∧
    (∀ pa pl, s.fetch r = .wait (.fetch pa pl) →
      ((∃ f ∈ s.flights, f.job = .fetch ∧ f.core = s.coreOf r ∧ f.returned = false ∧ ∃ p ∈ f.pieces, p.pa = pa) →
        exec .fetchFill s = .next s) ∧
      ((∀ f ∈ s.flights, f.job = .fetch → f.core = s.coreOf r → f.returned = false → ∀ p ∈ f.pieces, p.pa ≠ pa) →
        ∃ t f, exec .fetchFill s = .next t ∧ t.flights = s.flights ++ [f] ∧ f.job = .fetch ∧ f.core = s.coreOf r ∧
          f.op = .load ∧ t.icache = s.icache ∧ t.mem = s.mem)) ∧
    (∀ f p, s.flights[s.sel]? = some f → f.job = .fetch → f.returned = false → f.pieces = [p] → p.stage = .done →
      p.bad.length = p.bytes.length → ∃ t x y, exec .memoryResponse s = .next t ∧ t.icache = x :: y ∧ x.core = f.core ∧
        x.line = p.addr ∧ x.data = p.bytes ∧ t.mem = s.mem)

/-! ## Compares, predicates, control transfer (R253 to R260, R301, R302) -/

namespace Sys2Proof.Machine

/-- The ten conditions of ICMP on N-bit values (R253). -/
def icmpConds (n : Nat) (x y : BitVec n) : List Bool :=
  [x = y, x ≠ y, x.toInt < y.toInt, x.toInt ≤ y.toInt, y.toInt < x.toInt, y.toInt ≤ x.toInt,
    x.toNat < y.toNat, x.toNat ≤ y.toNat, y.toNat < x.toNat, y.toNat ≤ x.toNat]

/-- A target of a control transfer is aligned to a word and canonical (R16, R256). -/
def goodTarget (a : BitVec 64) : Prop := a.toNat % 4 = 0 ∧ canonical a = true

end Sys2Proof.Machine

/-- R253, R254, R255: compares, predicate logic, PGET, PPUT and SEL. -/
def Obligations.CompareAndPredicateResults : Prop :=
  ∀ (s : State) (g d p q : BitVec 3) (a b e : BitVec 6) (w : BitVec 1) (c : BitVec 4),
    (c.toNat < 10 → s.issues (.icmp g d a b w c) (Clean (.icmp g d a b w c)) → Completes (.icmp g d a b w c) s (Sets d fun u =>
      (if w = 1 then icmpConds 64 (u.pairVal a.toNat) (u.pairVal b.toNat)
        else icmpConds 32 (bitsN u 32 a) (bitsN u 32 b)).getD c.toNat false)) ∧
    (∀ i f, (i, f) ∈ ([
        (.pand g d p q, fun u => u.pred p && u.pred q),
        (.por g d p q, fun u => u.pred p || u.pred q),
        (.pxor g d p q, fun u => u.pred p ^^ u.pred q),
        (.pandn g d p q, fun u => u.pred p && !u.pred q),
        (.pnot g d p, fun u => !u.pred p),
        (.pmov g d p, fun u => u.pred p)] : List (Instr × (Thread → Bool))) →
      s.issues i (Clean i) → Completes i s (Sets d f)) ∧
    (s.issues (.pget g e) (Clean (.pget g e)) → Completes (.pget g e) s (Gives e fun u =>
      { val := BitVec.ofNat 64 ((List.range 8).foldl (fun n k => n + if u.pred (BitVec.ofNat 3 k) then 2 ^ k else 0) 0),
        tag := tagI32 })) ∧
    (s.issues (.pput g a) (Clean (.pput g a)) → Completes (.pput g a) s fun u v =>
      Lane u v nothing (fun k => k = 0 || (u.reg a.toNat).val.getLsbD k.toNat) u.fpstat u.nextPc) ∧
    (s.issues (.sel g e a b p) (Clean (.sel g e a b p)) → Completes (.sel g e a b p) s
      (Gives e fun u => if u.pred p then u.reg a.toNat else u.reg b.toNat))

/-- R301, R302, R104: VOTE over the active threads of the fragment; the ballot has one bit for each thread's index in its
group. Each form of SHFL: a thread takes register A, data and tag, of the active thread whose index the form gives, and its
own where there is none. -/
def Obligations.VotesAndShuffles : Prop :=
  ∀ (s : State) (g p d : BitVec 3) (e a b : BitVec 6),
    (s.issues (.voteAny g d p) (fun _ => True) → Completes (.voteAny g d p) s (Sets d fun _ =>
      (s.active (.voteAny g d p)).any fun r => (s.thr r).pred p)) ∧
    (s.issues (.voteAll g d p) (fun _ => True) → Completes (.voteAll g d p) s (Sets d fun _ =>
      (s.active (.voteAll g d p)).all fun r => (s.thr r).pred p)) ∧
    (s.issues (.voteBal g e p) (fun _ => True) → Completes (.voteBal g e p) s (Writes fun u => pair u.ctl e
      (((s.active (.voteBal g e p)).filter fun r => (s.thr r).pred p).foldl
        (fun m r => m ||| BitVec.ofNat 64 (2 ^ s.idx r)) 0) tagI32)) ∧
    (∀ i (j : Ref → Int), (i, j) ∈ ([
        (.shflIdx g e a b, fun r => ((bitsN (s.thr r) 32 b).toNat % s.width r.team : Nat)),
        (.shflUp g e a b, fun r => (s.idx r : Int) - (bitsN (s.thr r) 32 b).toNat),
        (.shflDown g e a b, fun r => (s.idx r : Int) + (bitsN (s.thr r) 32 b).toNat),
        (.shflXor g e a b, fun r => (s.idx r ^^^ ((bitsN (s.thr r) 32 b).toNat % 64) : Nat))] : List (Instr × (Ref → Int))) →
      s.issues i (fun _ => True) → (∀ r ∈ s.active i, ((s.thr r).reg b.toNat).tag ≠ tagPOISON ∧
        ((s.thr (s.shflFrom i r (j r))).reg a.toNat).tag ≠ tagPOISON) →
      CompletesAt i s fun r => Gives e fun _ => (s.thr (s.shflFrom i r (j r))).reg a.toNat) ∧
    (∀ i r n, n < s.width r.team → (⟨r.team, (s.thr r).group * s.width r.team + n⟩ : Ref) ∈ s.active i →
      s.shflFrom i r n = ⟨r.team, (s.thr r).group * s.width r.team + n⟩) ∧
    (∀ i r n, n < s.width r.team → (⟨r.team, (s.thr r).group * s.width r.team + n⟩ : Ref) ∉ s.active i →
      s.shflFrom i r n = r) ∧
    (∀ i r n, (n < 0 ∨ (s.width r.team : Int) ≤ n) → s.shflFrom i r n = r)

/-- R256, R258: branches, calls with their link, returns and indexed branches, to targets that are aligned and canonical. -/
def Obligations.ControlTransfers : Prop :=
  ∀ (s : State) (g : BitVec 3) (a b : BitVec 6) (o : BitVec 23),
    (∀ i f, (i, f) ∈ ([
        (.bra g o, fun u => u.wordPc + 4 * o.signExtend 64),
        (.ret g a, fun u => u.pairVal a.toNat),
        (.jmpr g a, fun u => u.pairVal a.toNat),
        (.brx g a b, fun u => u.pairVal a.toNat +
          4 * (bitsN u 32 b).setWidth 64)] : List (Instr × (Thread → BitVec 64))) →
      s.issues i (fun u => Clean i u ∧ goodTarget (f u)) → Completes i s (Jumps (fun _ => nothing) f)) ∧
    (∀ i f, (i, f) ∈ ([
        (.call g o, fun u => u.wordPc + 4 * o.signExtend 64),
        (.callr g a, fun u => u.pairVal a.toNat)] : List (Instr × (Thread → BitVec 64))) →
      s.issues i (fun u => Clean i u ∧ goodTarget (f u)) →
      Completes i s (Jumps (fun u => pair u.ctl (if u.ctl then 31 else 62) (u.wordPc + 4) tagI32) f))

/-- R177, R227 to R231, R259, R260: NOP and YIELD write nothing and hold the thread off, 16 cycles for YIELD, as many as its
scheduling hint asks for NOP; EXIT ends the threads whose guard is true; a hint word is held for the next word and nothing
else happens; with a reserved payload it is not held. -/
def Obligations.ExitNopYieldAndHints : Prop :=
  ∀ (s : State) (g : BitVec 3) (n : BitVec 24),
    (s.issues (.nop g) (fun _ => True) → Completes (.nop g) s fun u v =>
      Writes (fun _ => nothing) u v ∧ v.holdoff = u.hintHold) ∧
    (s.issues (.yield g) (fun _ => True) → Completes (.yield g) s fun u v =>
      Writes (fun _ => nothing) u v ∧ v.holdoff = max u.hintHold 16) ∧
    (s.issues (.exit g) (fun _ => True) → ∃ t, exec (.exit g) s = .next t ∧
      (∀ r ∈ s.active (.exit g), (t.thr r).exited = true) ∧
      (∀ r, r ∉ s.active (.exit g) → (t.thr r).exited = (s.thr r).exited) ∧
      (∀ a, readByte t.mem a = readByte s.mem a)) ∧
    (let f (a k : Nat) : Nat := (n.extractLsb' a k).toNat
     let mods : Prop := f 0 3 ≤ 4 ∧ f 4 3 ≤ 4 ∧ f 7 3 ≤ 5 ∧ f 10 2 ≠ 3 ∧ f 12 4 ≤ 12 ∧ f 17 7 = 0
     ∀ i h good, (i, h, good) ∈ ([(.hwide n, .wide n, True), (.hmod n, .mods n, mods), (.hsched n, .sched n, f 8 16 = 0)] :
         List (Instr × Hint × Prop)) → s.bundled → (∀ r ∈ s.cur, (s.thr r).hint = none) →
       (good → ∃ t, exec i s = .next t ∧ LanesOnly s t ∧ ∀ r ∈ s.cur, let u := s.thr r; let v := t.thr r
         v.hint = some h ∧ v.pc = u.pc ∧ v.regs = u.regs ∧ v.preds = u.preds ∧ v.fpstat = u.fpstat ∧ v.rest = u.rest) ∧
       (¬good → ∃ t, exec i s = .next t ∧ (∀ r ∈ s.cur, (t.thr r).hint ≠ some h) ∧
         ∀ a, readByte t.mem a = readByte s.mem a))

/-- R223: a word whose guard is false in every lane retires in each with no effect. (The count `stamp`, which orders events
and may advance, is the model's own, log 3.) -/
def Obligations.FalseGuardHasNoEffect : Prop :=
  ∀ (s : State) (g p : BitVec 3) (d a b : BitVec 6) (o : BitVec 8) (w : BitVec 3) (v n : BitVec 11) (k : BitVec 23) (i : Instr),
    i ∈ ([.iadd g d a b, .movi g d v, .pand g p p p, .ld g d a o w, .st g d a o w, .lds g d a o w, .exit g, .trap g a,
      .brkpt g a, .bra g k, .fadd g d a b, .csrr g d n, .csrw g a n, .eret g, .halt g, .fence g, .qput g a,
      .slotr g d] : List Instr) →
    s.issues i (fun _ => True) → (∀ r ∈ s.cur, (s.thr r).active i = false) → ∃ m, Becomes i s { s.passed with stamp := m }

/-! ## Floating point, conversions and tags (R267 to R288) -/

namespace Sys2Proof.Machine

/-- The word writes D with a result that is rounded under RM and SAT of its hint, and its conditions join FPSTAT. Where the
mode is stochastic the result rests on a free value, and the statement holds for every value of it (R106, R108, R273). -/
def Rounds (d : BitVec 6) (x : Rounding → Thread → BitVec 32 × Conds) (g : Thread → Tag) (u v : Thread) : Prop :=
  ∃ m : Rounding, m.rm = u.rm ∧ m.sat = u.sat ∧
    Lane u v (one d { val := (x m u).1.setWidth 64, tag := g u }) u.pred (u.fpstat ||| (x m u).2.setWidth 32) u.nextPc

/-- No source is poisoned and the tags are those the word accepts (R104, R268, R269). -/
def Tagged (i : Instr) (ok : Thread → Bool) (u : Thread) : Prop := Clean i u ∧ ok u = true

/-- A word of results of the elements of A's format, each rounded once (R269, R275). -/
def roundedElems (a : BitVec 6) (op : Thread → Fmt → Nat → Mode → Res) (m : Rounding) (u : Thread) : BitVec 32 × Conds :=
  u.mapElems a fun f e =>
    let x := op u f e (m.mode e)
    let y := round f (m.mode e) x.1
    (y.1, y.2 ||| x.2)

end Sys2Proof.Machine

/-- R275, R276, R277: element-wise arithmetic and fused multiply-add, one rounding each, and their conditions in FPSTAT. -/
def Obligations.FloatArithmeticResults : Prop :=
  ∀ (s : State) (g : BitVec 3) (d a b : BitVec 6) (i : Instr) (rs : List (BitVec 6)) (f : Thread → Fmt → Nat → Mode → Res),
    (i, rs, f) ∈ ([
      (.fadd g d a b, [a, b], fun u f e m => addNum m (u.num f a e) (u.num f b e)),
      (.fsub g d a b, [a, b], fun u f e m => addNum m (u.num f a e) (u.num f b e).neg),
      (.fmul g d a b, [a, b], fun u f e _ => mulRes (u.num f a e) (u.num f b e)),
      (.fdiv g d a b, [a, b], fun u f e _ => divRes (u.num f a e) (u.num f b e)),
      (.fsqrt g d a, [a], fun u f e _ => sqrtRes (u.num f a e)),
      (.ffma g d a b, [a, b, d], fun u f e m => fmaRes m (u.num f d e) (u.num f a e) (u.num f b e) false),
      (.ffnma g d a b, [a, b, d], fun u f e m => fmaRes m (u.num f d e) (u.num f a e) (u.num f b e) true)] :
        List (Instr × List (BitVec 6) × (Thread → Fmt → Nat → Mode → Res))) →
    s.issues i (Tagged i fun u => u.oneTag [tagF32, tagBF16, tagF16] rs) →
    Completes i s (Rounds d (roundedElems a f) fun u => u.tagAt a)

/-- R275, R278, R281 to R284: FMIN and FMAX choose a source bit for bit; FABS, FNEG and FCPYS change sign bits alone; none
sets a condition. FCMP, FCLASS, FRINT, and FSTAT, which reads FPSTAT and clears it. -/
def Obligations.FloatMovesTestsAndStatus : Prop :=
  ∀ (s : State) (g p c : BitVec 3) (d a b : BitVec 6),
    (∀ i less, (i, less) ∈ ([(.fmin g d a b, true), (.fmax g d a b, false)] : List (Instr × Bool)) →
      s.issues i (Tagged i fun u => u.oneTag [tagF32, tagBF16, tagF16] [a, b]) → Completes i s (Gives d fun u =>
        { val := (u.mapElems a fun f e =>
            (minMaxElem f less (elemOf f.width (u.val32 a.toNat) e) (elemOf f.width (u.val32 b.toNat) e), 0)).1.setWidth 64,
          tag := u.tagAt a })) ∧
    (∀ i rs f, (i, rs, f) ∈ ([
        (.fabs g d a, [a], fun u m => u.val32 a.toNat &&& ~~~m),
        (.fneg g d a, [a], fun u m => u.val32 a.toNat ^^^ m),
        (.fcpys g d a b, [a, b], fun u m => (u.val32 a.toNat &&& ~~~m) ||| (u.val32 b.toNat &&& m))] :
          List (Instr × List (BitVec 6) × (Thread → BitVec 32 → BitVec 32))) →
      s.issues i (Tagged i fun u => u.oneTag [tagF32, tagBF16, tagF16, tagE4M3, tagE5M2] rs) →
      Completes i s (Gives d fun u => { val := (f u (signBits (u.tagAt a))).setWidth 64, tag := u.tagAt a })) ∧
    (s.issues (.fcmp g p a b c) (Tagged (.fcmp g p a b c) fun u => u.oneTag [tagF32] [a, b]) →
      Completes (.fcmp g p a b c) s (Sets p fun u => fcmpHolds c (u.num .f32 a 0) (u.num .f32 b 0))) ∧
    (s.issues (.fclass g d a) (Tagged (.fclass g d a) fun u => u.oneTag [tagF32] [a]) →
      Completes (.fclass g d a) s (Gives d fun u =>
        { val := BitVec.ofNat 64 (2 ^ classBit .f32 (u.val32 a.toNat).toNat), tag := tagI32 })) ∧
    (s.issues (.frint g d a) (Tagged (.frint g d a) fun u => u.oneTag [tagF32, tagBF16, tagF16] [a]) →
      Completes (.frint g d a) s (Rounds d (fun m u =>
        u.mapElems a fun f e => frintElem f (m.mode e) (elemOf f.width (u.val32 a.toNat) e)) fun u => u.tagAt a)) ∧
    (s.issues (.fstat g d) (fun _ => True) → Completes (.fstat g d) s fun u v =>
      Lane u v (one d { val := u.fpstat.setWidth 64, tag := tagI32 }) u.pred 0 u.nextPc)

/-- R277, R279, R280: the packed dot products and the seven functions of FP32. -/
def Obligations.DotProductsAndFunctions : Prop :=
  ∀ (s : State) (g : BitVec 3) (d a b : BitVec 6),
    (∀ i ts n fm, (i, ts, n, fm) ∈ ([
        (.fdot2 g d a b, tagBF16, 2, .bf16), (.fdot2 g d a b, tagF16, 2, .f16),
        (.fdot4 g d a b, tagE4M3, 4, .e4m3), (.fdot4 g d a b, tagE5M2, 4, .e5m2)] : List (Instr × Tag × Nat × Fmt)) →
      s.issues i (Tagged i fun u => u.tagAt a == ts && u.tagAt b == ts && u.tagAt d == tagF32 && !u.ctl) →
      Completes i s (Rounds d (fun m u =>
        let ps := (List.range n).map fun e => (u.num fm a e, u.num fm b e)
        let x := round .f32 (m.mode 0) (exactSum (u.num .f32 d 0 :: ps.map fun p => mulNum p.1 p.2))
        (BitVec.ofNat 32 x.1, x.2 ||| (if dotInvalid (u.num .f32 d 0) ps then cINV else 0))) fun _ => tagF32)) ∧
    (∀ i f, (i, f) ∈ ([
        (.frcp g d a, .rcp), (.frsq g d a, .rsq), (.fexp2 g d a, .exp2), (.flog2 g d a, .log2), (.fsin g d a, .sin),
        (.fcos g d a, .cos), (.ftanh g d a, .tanh)] : List (Instr × Fun)) →
      s.issues i (Tagged i fun u => u.oneTag [tagF32] [a]) → Completes i s (Rounds d (fun m u =>
        let x := funResult f (u.val32 a.toNat) (m.mode 0)
        (BitVec.ofNat 32 x.1, x.2)) fun _ => tagF32))

/-- R285 to R288: conversions, packing, widening, and the tag instructions; a register that TAGSET tags POISON holds 0. -/
def Obligations.ConversionsAndTags : Prop :=
  ∀ (s : State) (g p : BitVec 3) (d a b : BitVec 6) (t : BitVec 4) (un : BitVec 1),
    (∀ (l : Thread → List Machine.Num) (f : Fmt) (n : Nat), tagFmt t = some (f, n) → s.issues (.cvt g d a b t) (fun u => Clean (.cvt g d a b t) u ∧ u.cvtSrc a b t = some (l u)) →
      Completes (.cvt g d a b t) s (Rounds d (fun m u => roundList m f (l u)) fun _ => t)) ∧
    (s.issues (.cvti g d a b un t) (Tagged (.cvti g d a b un t) fun u => u.cvtiOk a b t && !u.ctl) →
      Completes (.cvti g d a b un t) s (Rounds d (fun m u => u.cvtiRes m a b (un == 1) t) fun _ => t)) ∧
    (s.issues (.pack g d a b) (Tagged (.pack g d a b) fun u =>
        u.tagAt a == u.tagAt b && decide (3 ≤ (u.tagAt a).toNat) && decide ((u.tagAt a).toNat ≤ 9)) →
      Completes (.pack g d a b) s (Gives d fun u =>
        { val := ((u.val32 b.toNat).setWidth 16 ++ (u.val32 a.toNat).setWidth 16 : BitVec 32).setWidth 64,
          tag := u.tagAt a })) ∧
    (∀ i k fm ts, (i, k, fm, ts) ∈ ([
        (.unpkLo g d a, 0, .bf16, tagBF16), (.unpkHi g d a, 1, .bf16, tagBF16),
        (.unpkLo g d a, 0, .f16, tagF16), (.unpkHi g d a, 1, .f16, tagF16)] : List (Instr × Nat × Fmt × Tag)) →
      s.issues i (Tagged i fun u => u.tagAt a == ts && !u.ctl) → Completes i s (Gives d fun u =>
        { val := BitVec.ofNat 64 (round .f32 Mode.rne (u.num fm a k).exact).1, tag := tagF32 })) ∧
    (tagsetOk false t = true → s.issues (.tagset g d a t) (fun u => Clean (.tagset g d a t) u ∧ u.ctl = false) →
      Completes (.tagset g d a t) s (Gives d fun u =>
        { val := if t = tagPOISON then 0 else (u.reg a.toNat).val, tag := t })) ∧
    (t.toNat < 14 → s.issues (.tagchk g p a t) (fun _ => True) →
      Completes (.tagchk g p a t) s (Sets p fun u => (u.reg a.toNat).tag == t)) ∧
    (s.issues (.tagrd g d a) (Clean (.tagrd g d a)) → Completes (.tagrd g d a) s (Gives d fun u =>
      { val := (u.reg a.toNat).tag.setWidth 64, tag := tagI32 }))

/-! ## Special and control registers, the clock words, schedules (R214, R261 to R266, R356, R385) -/

namespace Sys2Proof.Machine

/-- A word of 32 bits in one register, or of 64 bits in a pair or S register, tagged I32 (R263, R385). -/
def wordReg (ctl wide : Bool) (d : BitVec 6) (x : BitVec 64) : Nat → Option Reg :=
  if wide then pair ctl d x tagI32 else one d { val := x &&& 0xFFFFFFFF, tag := tagI32 }

/-- The table of R263 without CPSTAT: number, 64 bits wide, contents for a thread. -/
def srdTable (s : State) (r : Ref) : List (BitVec 6 × Bool × BitVec 64) :=
  let t := s.thr r
  let m := s.team r.team
  let b := s.block r.team
  let nat (n : Nat) : BitVec 64 := BitVec.ofNat 64 n
  [(0x00, false, t.tidx.setWidth 64), (0x01, false, if t.ctl then 0xFFFFFFFF else nat t.group), (0x02, false, nat b.width),
   (0x03, false, nat (t.tidx.toNat % 64)), (0x04, false, if t.ctl then 0 else nat t.frag), (0x05, true, s.siblings r), (0x06, false, nat m.index),
   (0x07, false, nat b.nteam), (0x08, false, nat b.tsize), (0x09, false, m.cohort.elim 0xFFFFFFFF nat),
   (0x0A, false, nat m.csize), (0x0B, false, nat m.crank), (0x0C, false, nat (s.coreOf r)),
   (0x0D, false, nat (s.coreOf r / 128)), (0x0E, false, if t.ctl then 3 else (s.group r.team t.group).role.setWidth 64),
   (0x0F, false, if s.harvest r.team then 1 else 0), (0x10, false, (s.core (s.coreOf r)).partition.setWidth 64),
   (0x11, false, m.tflags.setWidth 64), (0x12, false, m.clkcnt.setWidth 64), (0x14, true, b.stkbase),
   (0x15, true, nat ((s.core (s.coreOf r)).ccount16 / 16)), (0x16, true, nat s.gtime), (0x17, false, nat b.regs)]

/-- The table of R18 and R356 without ESTAT, in the same form. -/
def csrTable (s : State) (r : Ref) : List (BitVec 11 × Bool × BitVec 64) :=
  let m := s.team r.team
  let x := (s.thr r).tr
  let c := s.core (s.coreOf r)
  [(0x011, false, m.ctxid.setWidth 64), (0x020, true, m.tvec), (0x021, true, x.epc), (0x022, false, x.trsum.setWidth 64),
   (0x023, true, x.trmask), (0x024, true, x.trsib), (0x025, true, x.traddr), (0x026, false, x.trlane.setWidth 64),
   (0x027, true, x.trva), (0x028, true, x.trinfo), (0x029, true, x.trinfo2), (0x02A, true, x.tscr0), (0x02B, true, x.tscr1),
   (0x030, false, c.owner.setWidth 64 + if c.held then 0x10000 else 0), (0x038, false, m.dbgctl.setWidth 64),
   (0x040, true, m.xroot), (0x041, true, m.xasid)]

end Sys2Proof.Machine

/-- R263, R264, R356, R385: SRD and CSRR write the register's contents to D, tagged I32; CPSTAT and ESTAT are cleared by the
lane that reads them first, and the later lanes of the bundle read 0. -/
def Obligations.SpecialRegisterReads : Prop :=
  ∀ (s : State) (g : BitVec 3) (d : BitVec 6),
    (∀ n, srdExists n = true → n ≠ 0x13 → s.issues (.srd g d n) (fun _ => True) →
      CompletesAt (.srd g d n) s fun r => Writes fun u => wordReg u.ctl (srdWide n) d (s.srdVal r n)) ∧
    (∀ r n wide x, (n, wide, x) ∈ srdTable s r → srdWide n = wide ∧ s.srdVal r n = x) ∧
    (∀ n, csrExists n = true → n ≠ 0x010 → s.issues (.csrr g d n) (fun _ => True) →
      CompletesAt (.csrr g d n) s fun r => Writes fun u => wordReg u.ctl (csrWide n) d (s.csrVal r n)) ∧
    (∀ r n wide x, (n, wide, x) ∈ csrTable s r → csrWide n = wide ∧ s.csrVal r n = x) ∧
    (∀ i (get : Team → BitVec 32) (clear : Team → Team), (i, get, clear) ∈ ([
        (.srd g d 0x13, Team.cpstat, fun m => { m with cpstat := 0 }),
        (.csrr g d 0x010, Team.estat, fun m => { m with estat := 0 })] : List (Instr × (Team → BitVec 32) × (Team → Team))) →
      s.issues i (fun _ => True) → ∀ r rs, s.active i = r :: rs → (∀ q ∈ rs, q.team = r.team) →
      Becomes i s (rs.foldl (fun x q => x.modThr q fun u => u.set32 d.toNat 0 tagI32)
        ((s.passed.modThr r fun u => u.set32 d.toNat (get (s.team r.team)) tagI32).modTeam r.team clear)))

/-- R18, R356, R382, R385: CSRW writes the registers that can be written, and leaves the others and all else as they were. -/
def Obligations.ControlRegisterWrites : Prop :=
  ∀ (s : State) (g : BitVec 3) (a : BitVec 6) (r : Ref),
    let v := (s.thr r).pairVal a.toNat
    let w := (s.thr r).val32 a.toNat
    let team (f : Team → Team) : State := s.passed.modTeam r.team f
    let own (f : TrapRegs → TrapRegs) : State := s.passed.modThr r fun u => { u with tr := f u.tr }
    (∀ n, s.cur = [r] → s.issues (.csrw g a n) (fun u => Clean (.csrw g a n) u ∧ u.active (.csrw g a n) = true) →
      (∀ x, (n, x) ∈ ([
          (0x02A, own fun x => { x with tscr0 := v }), (0x02B, own fun x => { x with tscr1 := v }),
          (0x040, team fun m => { m with xroot := v &&& 0x0000FFFFFFFF8001 }),
          (0x041, team fun m => { m with xasid := v &&& 0xFFFF }),
          (0x010, s.passed), (0x011, s.passed), (0x022, s.passed), (0x023, s.passed), (0x024, s.passed), (0x025, s.passed),
          (0x026, s.passed), (0x027, s.passed), (0x028, s.passed), (0x029, s.passed), (0x031, s.passed)] :
            List (BitVec 11 × State)) → (s.thr r).active (.csrw g a n) = true → Becomes (.csrw g a n) s x) ∧
      ((s.thr r).active (.csrw g a n) = true →
        (n = 0x020 → v.toNat % 128 = 0 → canonical v = true → Becomes (.csrw g a n) s (team fun m => { m with tvec := v })) ∧
        (n = 0x021 → v.toNat % 4 = 0 → canonical v = true → Becomes (.csrw g a n) s (own fun x => { x with epc := v })) ∧
        (n = 0x030 → (w.getLsbD 17 = false ∨ s.accOwned r = false) → Becomes (.csrw g a n) s s.passed) ∧
        (n = 0x038 → ∃ t, exec (.csrw g a n) s = .next t ∧
          (t.team r.team).dbgctl.getLsbD 0 = w.getLsbD 0 ∧
          (t.team r.team).dbgctl.getLsbD 2 = ((s.team r.team).dbgctl.getLsbD 2 && !w.getLsbD 2) ∧
          (∀ k, k ≠ 0 → k ≠ 2 → (t.team r.team).dbgctl.getLsbD k = (s.team r.team).dbgctl.getLsbD k) ∧
          ∀ b, readByte t.mem b = readByte s.mem b)))

/-- R214, R261, R262, R265, R266: CLKQ, CLKREQ and SCHSEL. -/
def Obligations.ClockWordsAndSelection : Prop :=
  ∀ (s : State) (g : BitVec 3) (d a b : BitVec 6),
    (s.issues (.clkq g d) (fun _ => True) → CompletesAt (.clkq g d) s fun r => Gives d fun _ =>
      { val := (s.die (s.coreOf r / 128)).grant.setWidth 64, tag := tagI32 }) ∧
    (s.issues (.clkreq g a b) (fun u => Clean (.clkreq g a b) u ∧ (u.val32 b.toNat).toNat < 16 ∧
        u.val32 a.toNat &&& 0xE0E0E0E0 = 0 ∧
        ∀ k, k < 4 → let x := (u.val32 a.toNat).toNat / 2 ^ (8 * k) % 32; x = 0 ∨ (4 ≤ x ∧ x ≤ 16)) →
      Becomes (.clkreq g a b) s ((s.active (.clkreq g a b)).foldl (fun x r => x.modLaunch (s.team r.team).launch fun l =>
        { l with clkwant := (s.thr r).val32 a.toNat, crit := ((s.thr r).val32 b.toNat).setWidth 4 }) s.passed)) ∧
    (∀ sel : Ref → Selected, s.issues (.schsel g d a b) (Clean (.schsel g d a b)) →
      (∀ r ∈ s.active (.schsel g d a b),
        s.schSelect r ((s.thr r).val32 a.toNat) ((s.thr r).val32 b.toNat) = .found (sel r)) →
      Becomes (.schsel g d a b) s ((s.active (.schsel g d a b)).foldl (fun x r =>
        x.modThr r fun u => u.setSelected d.toNat (sel r)) s.passed)) ∧
    (∀ r k l, s.issues (.schsel g d a b) (Clean (.schsel g d a b)) → s.cur = [r] → (s.thr r).active (.schsel g d a b) = true →
      s.schSelect r ((s.thr r).val32 a.toNat) ((s.thr r).val32 b.toNat) = .read k l → ∃ t f, exec (.schsel g d a b) s = .next t ∧
        t.flights = s.flights ++ [f] ∧ f.op = .load ∧ f.own = r ∧ f.const = true ∧ (t.thr r).pc = (s.thr r).pc ∧
        (t.thr r).regs = (s.thr r).regs ∧ (t.thr r).wait = some (.catalog k s.flights.length) ∧ t.mem = s.mem) ∧
    (∀ r c n k f x, c.toNat < (s.launchOf r.team).nclass → (s.thr r).wait = some (.catalog k f) →
      (s.flights.getD f default).returned = true → schEntry n k (s.flights.getD f default).loaded = some x →
      s.schSelect r c n = .found x) ∧
    (∀ (n limit knob : BitVec 32) (target : BitVec 64) k, schEntry n k
        ((leBytes 4 limit.toNat ++ leBytes 4 knob.toNat ++ leBytes 8 target.toNat).map fun b => (b, false)) =
      if target ≠ 0 ∧ n.toNat ≤ limit.toNat then some (.entry k knob target) else none) ∧
    (∀ (u : Thread) x n, d.toNat % 4 = 0 → u.ctl = false → (u.setSelected d.toNat x).reg n =
      if n = 0 then zeroReg else
      let ⟨i, k, t, tag⟩ : Nat × BitVec 32 × BitVec 64 × Tag := match x with
        | .entry i k t => (i, k, t, tagI32)
        | .nothing => (8, 0, 0, tagI32)
        | .poison => (0, 0, 0, tagPOISON)
      if n = d.toNat then { val := BitVec.ofNat 64 (i % 2 ^ 32), tag := tag }
      else if n = d.toNat + 1 then { val := k.setWidth 64, tag := tag }
      else if n = d.toNat + 2 then { val := t &&& 0xFFFFFFFF, tag := tag }
      else if n = d.toNat + 3 then { val := t >>> 32, tag := tag } else u.reg n) ∧
    (∀ r c n, (s.launchOf r.team).nclass ≤ c.toNat → s.schSelect r c n = .found .nothing)

/-! ## Traps and the return from them (R355 to R363, R380 to R386) -/

namespace Sys2Proof.Machine

/-- The bundle is one whole fragment of lane threads, at one address. -/
def State.oneFragment (s : State) : Prop :=
  s.bundled ∧ s.cur ≠ [] ∧ ∀ r ∈ s.cur, s.fragOf r = s.cur ∧ (s.thr r).ctl = false ∧
    ∀ q ∈ s.cur, s.sameFrag q r = true ∧ (s.thr q).pc = (s.thr r).pc

/-- What a thread that is to trap has not begun: it has not arrived at a barrier in the unit at its PC, and none of its messages
waits for an answer (R163, R367). -/
def State.fresh (s : State) (r : Ref) : Prop :=
  (∀ lv n ph d o, (s.thr r).wait ≠ some (.bar lv n ph d o)) ∧ ∀ m ∈ s.messages, m.own = r → m.done = true

/-- The lowest index in its group among some threads (R185). -/
def State.lowest (s : State) (rs : List Ref) : Nat := s.leastIdx rs (fun _ => true) 64

/-- The lanes `bad` of the bundle fail with one cause, reason and access, and each lane has taken the trap: it performed
nothing of its word, its record is written, and it is at its handler in custodian mode (R358 to R360). -/
def Entered (s t : State) (f : LaneFault) (bad : Ref → Bool) (va : Ref → BitVec 64) : Prop :=
  LanesOnly s t ∧ ∀ r ∈ s.cur,
    let u := s.thr r
    (t.thr r).veil = ({ u with
      pc := (s.team r.team).tvec, cm := true, hint := none, wait := none, walked := []
      tr := { u.tr with
        epc := u.pc, traddr := u.pc, trva := if bad r then va r else 0
        trsib := ((s.liveRefs r.team u.group).filter fun q => !s.cur.contains q).foldl
          (fun m q => m ||| BitVec.ofNat 64 (2 ^ s.lowest (s.fragOf q))) 0
        trmask := (s.cur.filter bad).foldl (fun m q => m ||| BitVec.ofNat 64 (2 ^ s.idx q)) 0
        trlane := BitVec.ofNat 32 (if bad r then
          f.cause.code + 16 * f.reason.toNat + 2 ^ 10 * f.acc.toNat + 2 ^ 13 * f.level.toNat else 16 * 0x3F)
        trsum := BitVec.ofNat 32 (f.cause.code + 2 ^ 6 * (s.lowest s.cur % 128) + 2 ^ 13 * (u.group % 128) + 2 ^ 20 * f.reason.toNat)
        trinfo := f.info, trinfo2 := f.info2 } } : Thread).veil

/-- The words that always trap in the lanes whose guard is true, with what each records (R232, R235, R236, R384, R386). -/
def trapping (g : BitVec 3) (c : BitVec 6) : List (Instr × LaneFault) :=
  [(.trap g c, { cause := .software, info := c.setWidth 64 }),
   (.brkpt g c, { cause := .breakpoint, info := c.setWidth 64 }),
   (.unassignedEncoding (0x3E#6 ++ g ++ 0#23), { cause := .illegal, reason := 0x20 }),
   (.unassignedEncoding (0x3D#6 ++ g ++ 0x1F#23), { cause := .illegal, reason := 0x21 }),
   (.eret g, { cause := .illegal, reason := 0x28 }), (.halt g, { cause := .illegal, reason := 0x28 })]

/-- What they trap on: BRKPT where HALTBP is clear, ERET and HALT outside custodian mode. -/
def State.traps (s : State) (i : Instr) (r : Ref) : Prop :=
  (s.thr r).hint = none ∧ s.fresh r ∧ ((s.group r.team (s.thr r).group).open_ = false ∧ s.harvest r.team = false) ∧
    (∀ g c, i = .brkpt g c → (s.team r.team).dbgctl.getLsbD 0 = false)

end Sys2Proof.Machine

/-- R232, R236, R355 to R361, R384, R386: TRAP, BRKPT, an unassigned encoding, and ERET and HALT outside custodian mode send
their fragment to its handler; a trap in custodian mode or without a handler ends the launch. -/
def Obligations.TrapEntry : Prop :=
  ∀ (s : State) (g : BitVec 3) (c : BitVec 6) (i : Instr) (f : LaneFault), (i, f) ∈ trapping g c →
    s.oneFragment → (∀ r ∈ s.cur, s.traps i r) → (∃ r ∈ s.cur, (s.thr r).pred g = true) →
    ((∀ r ∈ s.cur, (s.thr r).cm = false ∧ (s.team r.team).tvec ≠ 0) →
      ∃ t, exec i s = .next t ∧ Entered s t f (fun r => (s.thr r).pred g) fun _ => 0) ∧
    (∀ r ∈ s.cur, let l := (s.team r.team).launch
      l < s.launches.length → (s.launchOf r.team).status = .running →
      ((∀ q ∈ s.cur, (s.thr q).cm = false ∧ (s.team q.team).tvec = 0) → ∃ t, exec i s = .next t ∧
        (t.launches.getD l default).status = .ending ∧ (t.launches.getD l default).code = 0x20) ∧
      ((∀ q ∈ s.cur, (s.thr q).cm = true) → i ≠ .eret g → i ≠ .halt g → ∃ t, exec i s = .next t ∧
        (t.launches.getD l default).status = .ending ∧ (t.launches.getD l default).code = 0x21))

/-- R31, R104, R184, R269, R291, R308: a word that fails in some lanes performs nothing in any lane of its group and the
fragment traps: misaligned and out-of-window addresses, operands of a tag that the word does not accept, poisoned operands,
and a team queue without a partner. -/
def Obligations.FailingWordsTrap : Prop :=
  ∀ (s : State) (g p : BitVec 3) (d a b : BitVec 6) (o : BitVec 8) (w : BitVec 3) (k : BitVec 4) (i : Instr),
    s.oneFragment → (∀ r ∈ s.cur, s.accepts i r = true ∧ (s.thr r).cm = false ∧ (s.team r.team).tvec ≠ 0 ∧ s.fresh r ∧
      (s.group r.team (s.thr r).group).open_ = false) →
    (∀ f bad va, (i, f, bad, va) ∈ ([
        (.lds g d a o w, { cause := .misaligned, acc := 1 },
          fun r => decide (((s.thr r).scratchSa a o w).toNat % sizeW w ≠ 0), fun _ => 0),
        (.sts g d a o w, { cause := .misaligned, acc := 2 },
          fun r => decide (((s.thr r).scratchSa a o w).toNat % sizeW w ≠ 0), fun _ => 0),
        (.lds g d a o w, { cause := .scratchBounds, acc := 1 },
          fun r => decide (((s.thr r).scratchSa a o w).toNat % sizeW w = 0) &&
            (s.scratchAt r ((s.thr r).scratchSa a o w) (sizeW w)).isNone, fun _ => 0),
        (.atom g d a b 0 (k % 10), { cause := .misaligned, acc := 3 },
          fun r => decide (((s.thr r).pairVal a.toNat).toNat % 4 ≠ 0), fun r => (s.thr r).pairVal a.toNat),
        (.fadd g d a b, { cause := .format },
          fun r => !(s.thr r).oneTag [tagF32, tagBF16, tagF16] [a, b], fun _ => 0),
        (.qput g a, { cause := .illegal, reason := 0x2A }, fun r => !s.hasCtl r.team, fun _ => 0),
        (.qget g d, { cause := .illegal, reason := 0x2A }, fun r => !s.hasCtl r.team, fun _ => 0)] :
          List (Instr × LaneFault × (Ref → Bool) × (Ref → BitVec 64))) →
      s.active i ≠ [] → (∀ r ∈ s.active i, Clean i (s.thr r) ∧ bad r = true) →
      ∃ t, exec i s = .next t ∧ Entered s t f (fun r => (s.thr r).active i) va) ∧
    (i ∈ ([.iadd g d a b, .mov g d a, .aadd g d a b, .sel g d a b p] : List Instr) →
      (∃ r ∈ s.active i, ¬Clean i (s.thr r)) → ∃ t, exec i s = .next t ∧
        Entered s t { cause := .poison }
          (fun r => (s.thr r).active i && (s.thr r).poisoned (infoOf i).reads) fun _ => 0)

/-- R363, R380 to R382, R386: ERET returns each active thread to its EPC outside custodian mode; HALT, and BRKPT where
HALTBP is set, halt the team with the issuing threads past the word; a control thread's trap halts its team. -/
def Obligations.ReturnAndHalt : Prop :=
  ∀ (s : State) (g : BitVec 3) (c : BitVec 6),
    (s.issues (.eret g) (fun _ => True) → Becomes (.eret g) s ((s.active (.eret g)).foldl (fun x r =>
      x.modThr r fun u => { u with pc := u.tr.epc, cm := false }) s.passed)) ∧
    (∀ i, i ∈ [Instr.halt g, .brkpt g c] → s.issues i (fun _ => True) →
      (i = .brkpt g c → ∀ r ∈ s.active i, (s.team r.team).dbgctl.getLsbD 0 = true) →
      ∃ t, exec i s = .next t ∧
        (∀ r ∈ s.active i, (t.team r.team).isHalted = true ∧ (t.thr r).pc = (s.thr r).nextPc ∧
          (i = .brkpt g c → (t.team r.team).dbgctl.getLsbD 2 = true ∧
            (t.team r.team).dbgctl.extractLsb' 8 6 = c)) ∧
        (∀ q, (t.thr q).regs = (s.thr q).regs ∧ (t.thr q).cm = (s.thr q).cm) ∧
        (∀ a, readByte t.mem a = readByte s.mem a)) ∧
    (∀ i f r, (i, f) ∈ ([(.trap g c, { cause := .software, info := c.setWidth 64 }),
        (.brkpt g c, { cause := .breakpoint, info := c.setWidth 64 })] : List (Instr × LaneFault)) →
      s.cur = [r] → s.bundled → (s.thr r).ctl = true → s.fresh r → (s.thr r).hint = none → (s.thr r).pred g = true →
      (s.thr r).exited = false → (s.team r.team).dbgctl.getLsbD 0 = false → ∃ t, exec i s = .next t ∧
        (t.team r.team).isHalted = true ∧ (t.thr r).pc = (s.thr r).pc ∧ (t.thr r).cm = (s.thr r).cm ∧
        (t.thr r).tr.epc = (s.thr r).pc ∧ (t.thr r).tr.trinfo = f.info ∧
        (t.thr r).tr.trsum = BitVec.ofNat 32 (f.cause.code + 2 ^ 5 + 2 ^ 13 * 0x7F + 2 ^ 20 * 0x3F) ∧
        (t.thr r).regs = (s.thr r).regs ∧ (∀ a, readByte t.mem a = readByte s.mem a))

/-! ## Loads, stores, atomics, fences and monitors (R119 to R139, R289 to R300, R315) -/

namespace Sys2Proof.Machine

/-- A translated access: its parts of one page each, with their leaves and physical addresses. -/
abbrev Parts := List (BitVec 64 × Nat × Leaf × Nat)

/-- There is room for `need` more entries where the thread's stores are buffered, and nothing of its earlier regions is still
to be performed where they are not (R315, R316). -/
def State.hasRoom (s : State) (r : Ref) (need : Nat) : Prop :=
  let g := s.group r.team (s.thr r).group
  if s.buffers r then g.buf.length + g.draining.length + need ≤ 64 else s.drainsOwn r = false

/-- The access that a lane's word makes: its bytes, its order, its place in the thread's program order. -/
def State.access (s : State) (r : Ref) (op : AccOp) (va : BitVec 64) (n : Nat) (bytes : List Byte) (l : Parts)
    (ord scope : BitVec 3) : Flight :=
  { own := r, core := s.coreOf r, seq := (s.thr r).seq, bundle := s.stamp, op := op, va := va, size := n, bytes := bytes,
    ord := ord, scope := scope, harvest := s.harvest r.team, prio := (s.launchOf r.team).prio, ccls := 0, dst := 0,
    wcode := 0, tag := tagI32, pieces := piecesOf l, performed := false, returned := false, const := false,
    asid := (s.team r.team).xasid.setWidth 16, glob := l.any fun p => p.2.2.1.glob,
    level := (l.head?.map fun p => p.2.2.1.level).getD 3, fwd := [] }

/-- The words have retired and the bundle has its stamp. -/
def State.issued (s : State) : State := { s.passed with stamp := s.stamp + 1 }

/-- A scratch access may be performed: aligned, in the window, its place not held by an eviction, and in order. -/
def State.scratchGo (s : State) (r : Ref) (sa : BitVec 32) (n : Nat) (wr : Bool) (p : Nat × Nat) : Prop :=
  sa.toNat % n = 0 ∧ s.scratchAt r sa n = some p ∧ (s.half r.team p.1).scratchAway p.2 n = false ∧
    s.scratchMay r (s.thr r).ord wr = true

/-- The bytes that a scratch load finds: its thread's own buffered bytes, else those of the window (R315). -/
def State.scratchFound (s : State) (r : Ref) (p : Nat × Nat) (n : Nat) : List (Byte × Bool) :=
  ((s.half r.team p.1).scratchRead p.2 n).zipIdx.map fun b =>
    match ownByte r (s.ownEntries r) (some p.1) (p.2 + b.2) with
    | some x => (x, false)
    | none => b.1

end Sys2Proof.Machine

/-- R120, R181, R289 to R293, R295 to R297, R315: LD, ST, LDC, ATOM and RED are issued as accesses of their threads at the
addresses that their operands give; a load that its core's L1 holds writes its registers at once; inside an open region
stores and atomics join the group's buffer. -/
def Obligations.GlobalAccessesIssue : Prop :=
  ∀ (s : State) (g : BitVec 3) (d a b : BitVec 6) (o : BitVec 8) (w : BitVec 3) (y : BitVec 1) (p : BitVec 4) (l : Ref → Parts),
    let asid (r : Ref) : BitVec 16 := (s.team r.team).xasid.setWidth 16
    (let i : Instr := .ld g d a o w
     s.issues i (Clean i) → (∀ r ∈ s.active i, s.loadParts r ((s.thr r).globalVa a o w) (sizeW w) = .ok (l r) ∧
       ∀ q ∈ piecesOf (l r), s.loadHeld r none q.addr q.len = false ∧ (q.kind = .so → s.drainsSo r = false)) →
     Becomes i s ((s.active i).foldl (fun x r => let u := s.thr r
       x.loadGo r { s.access r .load (u.globalVa a o w) (sizeW w) [] (l r) u.ord u.scope with
         ccls := u.ccls, dst := d, wcode := w, tag := u.loadTag w, fwd := s.forwards r (piecesOf (l r)) } (useW w d)) s.issued)) ∧
    (let i : Instr := .ldc g d a o w
     let va (r : Ref) := s.constVa r ((s.thr r).constOff a o w)
     s.issues i (Clean i) → (∀ r ∈ s.active i, let c := (s.thr r).constOff a o w
       c % (sizeW w : Int) = 0 ∧ 0 ≤ c ∧ c + sizeW w ≤ 65536 ∧ s.loadParts r (va r) (sizeW w) = .ok (l r)) →
     Becomes i s ((s.active i).foldl (fun x r =>
       x.loadGo r { s.access r .load (va r) (sizeW w) [] (l r) 0 0 with
         dst := d, wcode := w, tag := (s.thr r).loadTag w, const := true } (useW w d)) s.issued)) ∧
    (let i : Instr := .st g d a o w
     s.issues i (Clean i) → (∀ r ∈ s.active i, s.storeParts r ((s.thr r).globalVa a o w) (sizeW w) = .ok (l r) ∧
       s.hasRoom r (s.storeBlocks i r (fun u => u.globalVa a o w) (sizeW w))) →
     Becomes i s ((((s.active i).filter fun r => !s.buffers r).foldl (fun x r => let u := s.thr r
       x.storeGo { s.access r .store (u.globalVa a o w) (sizeW w) (u.storeBytes d w) (l r) u.ord u.scope with
         ccls := u.ccls }) s.issued).bufferAll ((s.active i).filter fun r => s.buffers r) fun r =>
           storeEntries r (s.thr r) (asid r) (l r) ((s.thr r).storeBytes d w))) ∧
    (∀ (i : Instr) (e : BitVec 6) (far red : Bool), (i, e, far, red) ∈ ([
        (.atom g d a b y p, d, p == 0 || p == 8 || p == 9, false), (.red g y p a b, 0, p == 0, true)] :
          List (Instr × BitVec 6 × Bool × Bool)) →
      let n := if y = 1 then 8 else 4
      let op (u : Thread) : AccOp :=
        .atom p (y == 1) (u.operand b (y == 1)) (u.tagAt b) (if p = 9 then u.operand e (y == 1) else 0) u.rm u.sat
      s.issues i (fun u => Clean i u ∧ (10 ≤ p.toNat → u.tagAt b ∈ [tagF32, tagBF16, tagF16]) ∧
        (u.pairVal a.toNat).toNat % n = 0) →
      (∀ r ∈ s.active i, s.atomParts r ((s.thr r).pairVal a.toNat) n red = .ok (l r) ∧ (far = true ∨ farParts (l r) = false) ∧
        s.hasRoom r (s.groupLanes i r).length) →
      Becomes i s ((((s.active i).filter fun r => !s.buffers r).foldl (fun x r =>
        let u := s.thr r
        let f := { s.access r (op u) (u.pairVal a.toNat) n [] (l r) u.ord u.scope with
          dst := e, wcode := if y = 1 then 3 else 2, tag := atomTag p (u.tagAt b) }
        let z := (x.dropPieces f.core f.pieces).launchFlight f
        if e = 0 then z else z.await r (useD y e)) s.issued).bufferAll ((s.active i).filter fun r => s.buffers r) fun r =>
          match l r with
          | (va, _, lf, pa) :: _ => [atomEntry r (s.thr r) (asid r) none pa lf va (op (s.thr r)) n]
          | [] => [])) ∧
    (∀ (x : State) r f u, (∀ bs, x.l1Hit f = some bs → x.loadGo r f u = x.modThr r fun t =>
        { t.loadWrite f.dst f.wcode f.tag (overlay bs f.fwd) with seq := t.seq + 1 }) ∧
      (x.l1Hit f = none → x.loadGo r f u = (x.launchFlight f).await r u))

/-- R55 to R58, R134, R289 to R296: LDS, STS and ATOMS act on the team's scratch window at once: a load writes its registers,
a store changes exactly its bytes, an atomic gives its old value and stores the new one. -/
def Obligations.ScratchAccesses : Prop :=
  ∀ (s : State) (g : BitVec 3) (d a b : BitVec 6) (o : BitVec 8) (w : BitVec 3) (y : BitVec 1) (p : BitVec 4)
    (at_ : Ref → Nat × Nat),
    (let i : Instr := .lds g d a o w
     s.issues i (Clean i) → (∀ r ∈ s.active i,
       s.scratchGo r ((s.thr r).scratchSa a o w) (sizeW w) false (at_ r) ∧ s.drainsScratch r = false) →
     Becomes i s ((s.active i).foldl (fun x r => (x.modThr r fun u =>
       u.loadWrite d w ((s.thr r).loadTag w) (s.scratchFound r (at_ r) (sizeW w))).acquireIf r (s.thr r).ord (s.thr r).scope)
         s.passed)) ∧
    (let i : Instr := .sts g d a o w
     s.issues i (Clean i) → (∀ r ∈ s.active i, s.scratchGo r ((s.thr r).scratchSa a o w) (sizeW w) true (at_ r) ∧
       s.hasRoom r (s.scratchBlocks i r (fun u => u.scratchSa a o w) (sizeW w))) →
     Becomes i s ((((s.active i).filter fun r => !s.buffers r).foldl (fun x r =>
         x.modHalf r.team (at_ r).1 fun h => h.scratchWrite (at_ r).2 ((s.thr r).storeBytes d w)) s.passed).bufferAll
           ((s.active i).filter fun r => s.buffers r) fun r =>
             scratchEntries r (s.thr r) (at_ r).1 (at_ r).2 ((s.thr r).storeBytes d w)) ∧
     (∀ r, s.active i = [r] → s.buffers r = false → (at_ r).1 < (s.team r.team).halves.length → ∃ t, exec i s = .next t ∧
       (∀ q, (t.thr q).regs = (s.thr q).regs ∧ (t.thr q).preds = (s.thr q).preds) ∧
       (∀ c, readByte t.mem c = readByte s.mem c) ∧
       ∀ h c, (Memory.wf (s.half r.team h).scratch = true) → readByte (t.half r.team h).scratch c =
         if h = (at_ r).1 ∧ (at_ r).2 ≤ c ∧ c < (at_ r).2 + ((s.thr r).storeBytes d w).length then
           ((s.thr r).storeBytes d w).getD (c - (at_ r).2) 0
         else readByte (s.half r.team h).scratch c)) ∧
    (let i : Instr := .atoms g d a b y p
     let n := if y = 1 then 8 else 4
     s.issues i (fun u => Clean i u ∧ (10 ≤ p.toNat → u.tagAt b ∈ [tagF32, tagBF16, tagF16])) →
     (∀ r ∈ s.active i, s.scratchGo r ((s.thr r).val32 a.toNat) n true (at_ r) ∧ s.hasRoom r (s.groupLanes i r).length) →
     Becomes i s ((((s.active i).filter fun r => !s.buffers r).foldl (fun x r =>
         let u := s.thr r
         let z := (x.half r.team (at_ r).1).atomAt (at_ r).2 n fun old =>
           atomValue p (y == 1) (u.tagAt b) u.rm u.sat x.drawn old (u.operand b (y == 1))
             (if p = 9 then u.operand d (y == 1) else 0)
         let x1 := { x.modHalf r.team (at_ r).1 fun _ => z.2 with drawn := x.drawn + 8 }
         let x2 := if z.1.2 then x1.errorRecord (s.dieOf r) 0x02 1 (s.team r.team).ctxid (at_ r).2
             (BitVec.ofNat 64 (s.coreOf r)) else x1
         (x2.modThr r fun v => v.atomWrite d (y == 1) z.1.1 (atomTag p (u.tagAt b)) z.1.2).acquireIf r u.ord u.scope)
           s.passed).bufferAll ((s.active i).filter fun r => s.buffers r) fun r =>
             [atomEntry r (s.thr r) 0 (some (at_ r).1) (at_ r).2 (identityLeaf 0) 0
               (.atom p (y == 1) ((s.thr r).operand b (y == 1)) ((s.thr r).tagAt b) 0 (s.thr r).rm (s.thr r).sat) n]) ∧
     ∀ r, s.active i = [r] → s.buffers r = false → ∃ t, exec i s = .next t ∧
       let old := (s.half r.team (at_ r).1).scratchRead (at_ r).2 n
       (∀ q, q ≠ r → (t.thr q).regs = (s.thr q).regs) ∧ (∀ c, readByte t.mem c = readByte s.mem c) ∧
       (d ≠ 0 → y = 0 → (t.thr r).reg d.toNat =
         if old.any (·.2) then { val := 0, tag := tagPOISON }
         else { val := bytes64 old, tag := if 10 ≤ p.toNat then (s.thr r).tagAt b else tagI32 }) ∧
       ((at_ r).1 < (s.team r.team).halves.length → (t.half r.team (at_ r).1).scratch =
         if old.any (·.2) then (s.half r.team (at_ r).1).scratch
         else writeBytes (s.half r.team (at_ r).1).scratch (at_ r).2 (leBytes n (atomValue p (y == 1) ((s.thr r).tagAt b)
           (s.thr r).rm (s.thr r).sat s.drawn (bytes64 old) ((s.thr r).operand b (y == 1))
           (if p = 9 then (s.thr r).operand d (y == 1) else 0)).toNat)))

/-- R127 to R129, R139, R140, R165, R294, R298 to R300: PREF, FENCE, IFENCE, MONA and MWAIT. -/
def Obligations.FencesAndMonitors : Prop :=
  ∀ (s : State) (g : BitVec 3) (a : BitVec 6),
    (s.issues (.pref g a) (Clean (.pref g a)) → Becomes (.pref g a) s ((s.active (.pref g a)).foldl (fun x r =>
      x.prefetch r ((s.thr r).pairVal a.toNat) (s.thr r).ccls) s.passed)) ∧
    (let i : Instr := .fence g
     s.issues i (fun _ => True) → (∀ r ∈ s.active i, let far := decide (3 ≤ (s.thr r).scope.toNat);
       ((s.thr r).ord = 4 → s.allPerformed r far = true) ∧
       ((s.thr r).ord = 1 ∨ (s.thr r).ord = 3 → s.readsPerformed r far = true)) →
     Becomes i s ((s.active i).foldl (fun x r =>
       (if (s.thr r).ord = 2 then x else x.acquireOver r (s.thr r).scope (decide (3 ≤ (s.thr r).scope.toNat))).noteFence r
         (s.thr r).ord (s.thr r).scope) s.passed)) ∧
    (∀ (x : State) r scope uo, x.has r →
      (x.selfInvalidates r.team scope = true →
        ((x.acquireOver r scope uo).thr r).fromHome = true ∧ (uo = true → ((x.acquireOver r scope uo).thr r).fromHomeUo = true) ∧
          ∀ l ∈ (x.acquireOver r scope uo).l1, l.core = x.coreOf r → l.const = true) ∧
      (x.selfInvalidates r.team scope = false → x.acquireOver r scope uo = x)) ∧
    (s.issues (.ifence g) (fun _ => True) → (∀ r ∈ s.active (.ifence g), s.allPerformed r true = true) →
      Becomes (.ifence g) s ((s.active (.ifence g)).foldl (fun x r => x.dropInstr (s.coreOf r)) s.passed)) ∧
    (∀ (x : State) c, (x.dropInstr c).icache = x.icache.filter (fun l => l.core != c) ∧ (x.dropInstr c).mem = x.mem ∧
      ∀ f ∈ (x.dropInstr c).flights, f.job = .fetch → f.core = c → f.returned = true) ∧
    (∀ l : Ref → BitVec 64 × Nat × Leaf × Nat, s.issues (.mona g a) (Clean (.mona g a)) →
      (∀ r ∈ s.active (.mona g a), s.loadParts r ((s.thr r).pairVal a.toNat) 1 = .ok [l r] ∧
        s.lineOpen (l r).2.2.2 (imageAddr (l r).2.2.1.plinth (l r).2.2.2) = true) →
      Becomes (.mona g a) s ((s.active (.mona g a)).foldl (fun x r =>
        x.armLine r (l r).1 (l r).2.2.1 (l r).2.2.2) s.passed)) ∧
    (let i : Instr := .mwait g
     s.issues i (fun _ => True) → (∀ r ∈ s.active i, ∀ w, (s.thr r).watch = some w → s.watchOver w = true) →
     ∃ t, exec i s = .next t ∧ (∀ r ∈ s.active i, (t.thr r).watch = none ∧ (t.thr r).regs = (s.thr r).regs ∧
         ∀ w line, (s.thr r).watch = some w → w.line = some line → t.l1Line (s.coreOf r) line = none) ∧
       (∀ c, readByte t.mem c = readByte s.mem c)) ∧
    (∀ (r : Ref) va l pa w, r.team < s.teams.length → r.thr < (s.team r.team).threads.length →
      ((s.armLine r va l pa).thr r).watch = some w →
      w.line = some (lineOf (imageAddr l.plinth pa)) ∧ w.ring = none ∧ w.pa = pa ∧
      (w.triggered = false → w.entry = true ∧ ∃ m ∈ (s.armLine r va l pa).monitors,
        m.team = r.team ∧ some m.line = w.line))

/-! ## Barriers, queues, flags, convergence registers (R141, R142, R175, R176, R188, R303 to R310) -/

/-- R304 to R307, R141: an arriving word notes its threads' arrivals; BAR and BARRED wait and BARA goes on. When every
participant has arrived the phase completes: its number rises and the waiting BARRED threads get the reduction's result. BAR,
BARRED and BARW go on once the phase of their threads' last arrival is over; in the control stream BAR waits as BARW and BARA
has no effect. -/
def Obligations.BarrierPhases : Prop :=
  ∀ (s : State) (g : BitVec 3) (d a n : BitVec 6) (lv : BitVec 2) (r : Ref) (rs : List Ref) (b : Barrier),
    (∀ i (op : Option (BitVec 2)) (waits : Bool), (i, op, waits) ∈ ([
        (.bar g n lv, none, true), (.bara g n lv, none, false), (.barredOr g d a n lv, some 0, true),
        (.barredAnd g d a n lv, some 1, true), (.barredMax g d a n lv, some 2, true)] :
          List (Instr × Option (BitVec 2) × Bool)) →
      s.oneFragment → s.issues i (Clean i) → s.active i = r :: rs → s.barrierAt r lv n.toNat = some b →
      (∀ q ∈ s.cur, (s.thr q).wait = none) → (∀ q ∈ s.active i, q ∉ b.arr ∧ s.allPerformed q (lv == 2) = true) →
      (op = none ∨ b.op = none ∨ b.op = op) → ∃ t, exec i s = .next t ∧
        t.barrierAt r lv n.toNat =
          some ((s.active i).foldl (fun x q => x.arrive q (op.map fun o => (o, (s.thr q).val32 a.toNat))) b) ∧
        (∀ q ∈ s.active i, (t.thr q).regs = (s.thr q).regs ∧
          (t.thr q).pc = (if waits then (s.thr q).pc else (s.thr q).nextPc) ∧
          (t.thr q).wait = if waits then some (.bar lv n.toNat b.ph (op.map fun _ => d) (op.getD 0)) else none) ∧
        ∀ c, readByte t.mem c = readByte s.mem c) ∧
    (s.barrierAt r lv n.toNat = some b →
      ((∀ q ∈ s.participants r.team lv, q ∈ b.arr) →
        (s.judgePhase r lv n.toNat).barrierAt r lv n.toNat = some { b with ph := b.ph + 1, arr := [], op := none } ∧
        (s.judgePhase r lv n.toNat).mem = s.mem ∧
        ∀ q x o k, (s.barrierTeams r.team lv).contains q.team = true → s.has q →
          (s.thr q).wait = some (.bar lv n.toNat b.ph (some x) o) → ((s.judgePhase r lv n.toNat).thr q).reg k =
            if k = x.toNat ∧ k ≠ 0 then
              { val := (if b.op = none then redIdentity o else b.pay).setWidth 64, tag := tagI32 } else (s.thr q).reg k) ∧
      ((∃ q ∈ s.participants r.team lv, q ∉ b.arr) → s.judgePhase r lv n.toNat = s)) ∧
    (∀ i (arrives : Bool), (i, arrives) ∈ ([(.barw g n lv, false), (.bar g n lv, true), (.barredOr g d a n lv, true),
        (.barredAnd g d a n lv, true), (.barredMax g d a n lv, true)] : List (Instr × Bool)) →
      s.issues i (Clean i) →
      (∀ q ∈ s.active i, (lv = 2 → s.readsPerformed q true = true) ∧ ∃ b ph, s.barrierAt q lv n.toNat = some b ∧ ph ≠ b.ph ∧
        ((∃ x o, (s.thr q).wait = some (.bar lv n.toNat ph x o)) ∨
          ((arrives = false ∨ (s.thr q).ctl = true) ∧ ((s.thr q).wait = some (.barPhase lv n.toNat ph) ∨
            ((s.thr q).wait = none ∧ b.last.find? (fun p => p.1 == q) = some (q, ph)))))) →
      Becomes i s ((s.active i).foldl (fun x q => x.acquireOver q (barScope lv) (lv == 2)) s.passed)) ∧
    (s.issues (.bara g n lv) (fun u => u.ctl = true ∧ u.wait = none) →
      (∀ q ∈ s.active (.bara g n lv), (s.barrierAt q lv n.toNat).isSome = true) → Becomes (.bara g n lv) s s.passed)

/-- R142, R175, R176, R188, R303, R308 to R310: CVSET arms a convergence register; QPUT and QGET pass one entry; FLAG.SET,
FLAG.CLR and FWAIT act on the team's flags. -/
def Obligations.QueuesFlagsAndConvergence : Prop :=
  ∀ (s : State) (g : BitVec 3) (d a : BitVec 6) (c : BitVec 5) (v : BitVec 11) (r : Ref) (rs : List Ref),
    let u := s.thr r
    let m := s.team r.team
    (∀ x, s.issues (.cvset g c v) (fun _ => True) → s.active (.cvset g c v) = r :: rs →
      (s.halfOf r).cvs[c.toNat]? = some x → x.valid = false → canonical (u.label v) = true →
      Becomes (.cvset g c v) s (s.passed.modHalf r.team u.half fun h => { h with cvs := h.cvs.modify c.toNat fun _ =>
        { valid := true, group := BitVec.ofNat 7 u.group, target := (u.label v).extractLsb' 2 50,
          mask := (r :: rs).foldl (fun k q => k ||| BitVec.ofNat 64 (2 ^ s.idx q)) 0 } })) ∧
    (s.issues (.qput g a) (Clean (.qput g a)) → s.active (.qput g a) = r :: rs → s.noPartner r = false →
      (∀ q ∈ r :: rs, s.allPerformed q false = true) →
      let e : Reg := { val := u.pairVal a.toNat, tag := (u.reg a.toNat).tag }
      (u.ctl = false → m.up.length < 16 →
        Becomes (.qput g a) s (s.passed.modTeam r.team fun m => { m with up := m.up ++ [e] })) ∧
      (u.ctl = true → m.down.length < 16 →
        Becomes (.qput g a) s (s.passed.modTeam r.team fun m => { m with down := m.down ++ [e] }))) ∧
    (s.issues (.qget g d) (fun _ => True) → s.active (.qget g d) = r :: rs →
      (∀ e es, u.ctl = false → s.hasCtl r.team = true → m.down = e :: es → (∀ q ∈ rs, (s.thr q).ctl = false) →
        Becomes (.qget g d) s ((r :: rs).foldl (fun x q => (x.modThr q fun w => w.setPair d.toNat e.val e.tag).acquireAt q 1)
          (s.passed.modTeam r.team fun m => { m with down := es }))) ∧
      (∀ e es, u.ctl = true → m.up = e :: es → rs = [] → Becomes (.qget g d) s
        (((s.passed.modTeam r.team fun m => { m with up := es }).modThr r fun w => w.setReg d.toNat
          { val := e.val, tag := if e.tag ∈ [tagRAW, tagI32, tagF32, tagPOISON] then e.tag else tagRAW }).acquireAt r 1))) ∧
    (∀ i f, (i, f) ∈ ([(.flagSet g a, m.tflags ||| u.val32 a.toNat), (.flagClr g a, m.tflags &&& ~~~u.val32 a.toNat)] :
        List (Instr × BitVec 32)) →
      s.issues i (Clean i) → s.active i = r :: rs → (∀ q ∈ r :: rs, s.allPerformed q false = true) →
      Becomes i s (s.passed.setFlags r.team f)) ∧
    (∀ i all w, (i, all) ∈ ([(.fwaitAny g d a, false), (.fwaitAll g d a, true)] : List (Instr × Bool)) →
      s.issues i (Clean i) → s.active i = r :: rs → u.val32 a.toNat ≠ 0 →
      (u.wait = none ∧ w = m.tflags ∧
          (if all then w &&& u.val32 a.toNat = u.val32 a.toNat else w &&& u.val32 a.toNat ≠ 0) ∨
        ∃ k h, u.wait = some (.flags all k (some w) h)) →
      Becomes i s ((r :: rs).foldl (fun x q => (x.modThr q fun z => z.set32 d.toNat w tagI32).acquireAt q 1) s.passed))

/-- R127, R175, R181, R300, R308, R310, R369: at a blocking point whose condition does not hold the fragment of a
fragment-collective word waits, and of MWAIT and FENCE the thread, and nothing else changes. -/
def Obligations.BlockingPointsWait : Prop :=
  ∀ (s : State) (g : BitVec 3) (d a : BitVec 6) (r : Ref) (rs : List Ref) (i : Instr) (w : Wait) (whole blocked : Prop),
    let u := s.thr r
    let m := s.team r.team
    (i, w, whole, blocked) ∈ ([
      (.qget g d, .qget, s.oneFragment, m.down = [] ∧ s.noPartner r = false),
      (.qput g a, .qput, s.oneFragment, 16 ≤ m.up.length ∧ s.noPartner r = false),
      (.fwaitAny g d a, .flags false (u.val32 a.toNat) none false, s.oneFragment,
        m.tflags &&& u.val32 a.toNat = 0 ∧ u.val32 a.toNat ≠ 0),
      (.fwaitAll g d a, .flags true (u.val32 a.toNat) none false, s.oneFragment, m.tflags &&& u.val32 a.toNat ≠ u.val32 a.toNat),
      (.mwait g, .watch, s.cur = [r], ∃ x, u.watch = some x ∧ s.watchOver x = false),
      (.fence g, .performed, s.cur = [r], u.ord = 4 ∧ s.allPerformed r (decide (3 ≤ u.scope.toNat)) = false)] :
        List (Instr × Wait × Prop × Prop)) →
    whole → s.issues i (Clean i) → s.active i = r :: rs → (∀ q ∈ s.cur, (s.thr q).wait = none) → blocked →
    ∃ t, exec i s = .next t ∧ LanesOnly s t ∧ ∀ q ∈ s.cur, (t.thr q).veil = { (s.thr q).veil with wait := some w }

/-! ## Transactional regions (R311 to R317) -/

/-- R311, R313, R316, R317: RGNB opens a region, RGNC commits it, RGNN commits it and opens the next, RGNX discards what is
buffered and goes back to the label; a committed entry is performed by the drain in order. -/
def Obligations.RegionWords : Prop :=
  ∀ (s : State) (g : BitVec 3) (a : BitVec 6) (v : BitVec 11) (r : Ref) (rs : List Ref),
    let u := s.thr r
    let x := s.group r.team u.group
    let whole (i : Instr) : Prop := s.active i = r :: rs ∧ s.wholeGroup i r = true
    let group (f : Group → Group) : State := s.passed.modGroup r.team u.group f
    (∀ i, i = .rgnb g a v → s.issues i (Clean i) → whole i → x.open_ = false →
      badMask (s.block r.team).regs (u.pairVal a.toNat) = false → canonical (u.label v) = true →
      Becomes i s (group fun y => { y with open_ := true, phase := .region, mask := u.pairVal a.toNat, label := u.label v })) ∧
    (∀ i, i = .rgnn g a v → s.issues i (Clean i) → whole i → x.open_ = true →
      badMask (s.block r.team).regs (u.pairVal a.toNat) = false → canonical (u.label v) = true →
      Becomes i s (group fun y => { y with
        open_ := true, phase := .region, lastMask := y.mask, mask := u.pairVal a.toNat, label := u.label v, buf := [],
        draining := y.draining ++ y.buf })) ∧
    (∀ i, i = .rgnc g → s.issues i (Clean i) → whole i → x.open_ = true → Becomes i s (group fun y => { y with
      open_ := false, phase := .between, lastMask := y.mask, buf := [], draining := y.draining ++ y.buf })) ∧
    (∀ i, i = .rgnx g → s.issues i (Clean i) → whole i → x.open_ = true → Becomes i s ((r :: rs).foldl (fun z q =>
      z.modThr q fun w => { w with pc := x.label }) (s.passed.discardRegion r.team u.group))) ∧
    (∀ t k, t < s.teams.length → k < (s.team t).groups.length → ((s.discardRegion t k).group t k).buf = [] ∧
      (s.discardRegion t k).mem = s.mem ∧ ((∀ e ∈ (s.group t k).buf, e.joins = []) →
        s.discardRegion t k = s.modGroup t k fun y => { y with buf := [] })) ∧
    ((s.group s.sel s.sel2).draining = [] → exec .regionDrainEntry s = .next s) ∧
    (∀ e rest, (s.group s.sel s.sel2).draining = e :: rest →
      ((e.sent = true ∨ s.entryMay s.sel e = false) → exec .regionDrainEntry s = .next s) ∧
      (e.sent = false → s.entryMay s.sel e = true →
        (∀ h, e.scratch = some h → e.op = .store → (s.half s.sel h).scrPoison = [] → exec .regionDrainEntry s =
          .next (((e.parts.foldl (fun z p => z.modHalf s.sel h fun y => y.scratchWrite (e.addr + p.off) p.bytes) s).modGroup
            s.sel s.sel2 fun y => { y with draining := rest }).sendAll)) ∧
        (e.scratch = none → ∃ t f p, exec .regionDrainEntry s = .next t ∧ t.flights = s.flights ++ [f] ∧
          f.job = .entry s.sel s.sel2 ∧ f.op = e.op ∧ f.pieces = [p] ∧ p.pa = e.addr ∧ t.mem = s.mem))) ∧
    (∀ f p t k e rest q, s.flights[s.sel]? = some f → f.pieces[s.sel2]? = some p → f.job = .entry t k → f.op = .store →
      s.served s.sel s.sel2 = true → s.pieceLost f p = false → t < s.teams.length → k < (s.team t).groups.length →
      (s.group t k).draining = e :: rest → e.drain = none → e.op = .store → e.parts = [q] → s.poison = [] →
      Memory.wf s.mem = true → spaceOf (e.addr + q.off) = .hbm → spaceOf e.addr = .hbm → s.reaches (e.addr + q.off) = true →
      let at_ := e.plinth.getD e.addr + q.off
      s.loopPa at_ = at_ → s.reaches at_ = true → ∃ t1, exec .sliceAccess s = .next t1 ∧ (t1.group t k).draining = rest ∧
        ∀ x, readByte t1.mem x = if at_ ≤ x ∧ x < at_ + q.bytes.length then q.bytes.getD (x - at_) 0 else readByte s.mem x)

/-! ## Copies, batches, counter waits and slots (R62 to R69, R137, R146 to R159, R322 to R327) -/

namespace Sys2Proof.Machine

/-- What a copy command of a lane needs to be accepted, `n` being issued together (R146 to R148, R322). -/
def State.copyMay (s : State) (k : CmdKind) (n : Nat) (x y z : BitVec 6) (r : Ref) : Prop :=
  let u := s.thr r
  let d := u.desc y
  badDesc k d (z != 0) x = false ∧ descAlign d (u.ctrOf z) = none ∧ s.copyHeld (s.coreOf r) + n ≤ 256 ∧
    s.allPerformed r false = true ∧
    ((descSscr d = false ∧ descDscr d = false) ∨ ∃ sl, s.slotAt r x = some sl ∧ s.descSlot r.team k d sl = .run ∧
      (descSscr d = true → sl.state = .ready ∧ sl.reads + n ≤ 255 ∧
        (s.halfOf r).scratchAway (descSrc d).toNat (sourceSpan d) = false) ∧
      (descDscr d = true → sl.state = .filling ∧
        (s.halfOf r).scratchAway (descDst d).toNat (destSpan (k == .cpt) d) = false))

end Sys2Proof.Machine

/-- R136, R146 to R148, R151, R322: an accepted CPS, CPG or CPT adds its lanes' commands, each to its thread's open batch;
CPB adds its group's slice. Nothing is moved at issue. -/
def Obligations.CopyCommandsAccepted : Prop :=
  ∀ (s : State) (g : BitVec 3) (x y z : BitVec 6) (r : Ref) (rs : List Ref),
    (∀ i k, (i, k) ∈ ([(.cps g x y z, .cps), (.cpg g x y z, .cpg), (.cpt g x y z, .cpt)] : List (Instr × CmdKind)) →
      s.issues i (fun u => u.poisoned (copyUses y z) = false) →
      (∀ q ∈ s.active i, s.copyMay k (s.active i).length x y z q) →
      ∃ t, exec i s = .next t ∧ t.cmds = s.cmds ++ (s.active i).map (s.copyCmd k x y z) ∧
        (∀ q ∈ s.active i, (t.thr q).pc = (s.thr q).nextPc ∧ (t.thr q).batches = (s.thr q).joinBatch.batches ∧
          (t.thr q).batchNo = (s.thr q).batchNo) ∧
        (∀ q, (t.thr q).regs = (s.thr q).regs ∧ (t.thr q).preds = (s.thr q).preds) ∧
        (∀ n h, (t.half n h).scratch = (s.half n h).scratch) ∧ ∀ a, readByte t.mem a = readByte s.mem a) ∧
    (let i : Instr := .cpb g x y z
     s.issues i (fun u => u.poisoned (copyUses y z) = false) → s.active i = r :: rs →
     (∀ q ∈ s.liveRefs r.team (s.thr r).group, q ∈ s.active i) → s.copyMay .cpb 1 x y z r →
     (∀ q ∈ rs, s.allPerformed q false = true) → s.reportRoom r .run = .run →
     ∃ t, exec i s = .next t ∧ t.cmds = s.cmds ++ [s.copyCmd .cpb x y z r] ∧
       ((s.thr r).group < (s.team r.team).groups.length →
         (t.group r.team (s.thr r).group).bulk = (s.group r.team (s.thr r).group).bulk + 1) ∧
       (∀ q ∈ s.active i, (t.thr q).pc = (s.thr q).nextPc) ∧
       (∀ q, (t.thr q).regs = (s.thr q).regs ∧ (t.thr q).batches = (s.thr q).batches) ∧
       (∀ n h, (t.half n h).scratch = (s.half n h).scratch) ∧ ∀ a, readByte t.mem a = readByte s.mem a) ∧
    (∀ (u : Thread), (∃ b ∈ u.batches, b.number = u.batchNo ∧ b.sealed = false) → u.joinBatch.batches = u.batches.map fun b =>
      if b.number = u.batchNo ∧ b.sealed = false then { b with open_ := b.open_ + 1 } else b)

/-- R125, R137, R151, R152, R155, R159, R325: CPSEAL gives the open batch's number and seals it; CPWAIT goes on when the
batches it covers are complete, and reports their oldest fault; CPCTR goes on when the counter has reached its target, gives
its value and acquires at its scope; a throttled thread polls. -/
def Obligations.BatchAndCounterWaits : Prop :=
  ∀ (s : State) (g : BitVec 3) (d a b : BitVec 6),
    (let i : Instr := .cpseal g d
     s.issues i (fun u =>
       (∀ n, u.wait = some (.seal n) → ∀ x ∈ u.batches, x.sealed = true → x.number = n → x.open_ = 0) ∧
       ((∀ n, u.wait ≠ some (.seal n)) → (u.batches.filter Batch.incomplete).length < 8 ∨
         ∀ x ∈ u.batches, x.number = u.batchNo → x.sealed = false → x.open_ = 0)) →
     ∃ t, exec i s = .next t ∧ (∀ r ∈ s.active i, (∀ n, (t.thr r).reg n =
         if n = d.toNat ∧ n ≠ 0 then { val := (s.thr r).batchNo.setWidth 64, tag := tagI32 } else (s.thr r).reg n) ∧
       (t.thr r).batchNo = (s.thr r).batchNo + 1 ∧ (t.thr r).pc = (s.thr r).nextPc) ∧
       (∀ q, q ∉ s.cur → (t.thr q).veil = (s.thr q).veil) ∧ t.cmds = s.cmds ∧ ∀ a, readByte t.mem a = readByte s.mem a) ∧
    (let i : Instr := .cpwait g a
     s.issues i (fun u => let n := u.val32 a.toNat
       Clean i u ∧ u.batchNo ≠ n ∧ (u.batchNo - n).toNat ≤ 2 ^ 31 ∧
         ∀ x ∈ u.batches, u.covers n x = true → x.open_ = 0 ∧ x.faults = []) →
     (∀ r ∈ s.active i, s.allPerformed r true = true ∧ s.reportRoom r .run = .run) → Becomes i s s.passed) ∧
    (∀ i scope, (i, scope) ∈ ([(.cpctrG g d a b, 0), (.cpctrT g d a b, 1), (.cpctrC g d a b, 2), (.cpctrD g d a b, 3),
        (.cpctrV g d a b, 4), (.cpctrS g d a b, 5)] : List (Instr × BitVec 3)) →
      ∀ (l : Ref → BitVec 64 × Nat × Leaf × Nat) (v : Ref → BitVec 64),
      s.issues i (fun u => Clean i u ∧ (u.pairVal a.toNat).toNat % 8 = 0 ∧ u.wait = none) →
      (∀ r ∈ s.active i, s.loadParts r ((s.thr r).pairVal a.toNat) 8 = .ok [l r] ∧ s.counterMay a r = true ∧
        s.counterAt (imageAddr (l r).2.2.1.plinth (l r).2.2.2) = some (v r) ∧
        ((s.thr r).pairVal b.toNat).toNat ≤ (v r).toNat) →
      Becomes i s ((s.active i).foldl (fun x r =>
        (x.modThr r fun u => u.setPair d.toNat (v r) tagI32).acquireAt r scope) s.passed)) ∧
    (∀ c tgt seen, (s.thr ⟨s.sel, s.sel2⟩).wait = some (.counter c tgt false seen) → s.homesOpen = true →
      ∀ v, s.counterAt c = some v → exec .cpctrPoll s = .next (if v.toNat < tgt.toNat then s
        else s.modThr ⟨s.sel, s.sel2⟩ fun t => { t with wait := none }))

/-- R65, R87, R137, R146, R149 to R158: a command starts in its core's order; a bulk command starts when every COPY group's
slice has come; a command to scratch writes what it has read, and exactly that; a finished command ends: its stage, its lines,
its slot, its batches, or first the add to its counter; operand reads and add-on-stores end. -/
def Obligations.CopyEngineSteps : Prop :=
  ∀ (s : State), let c := s.cmds.getD s.sel default
    (s.firstQueued c.core = some s.sel → (∀ x ∈ s.cmds, x.kind ≠ .cpb ∧ x.stage ≠ .slice) → exec .copyCommandStart s =
      .next { s with cmds := s.cmds.modify s.sel fun x => { x with stage := .started } }) ∧
    (s.firstQueued c.core ≠ some s.sel → exec .copyCommandStart s = .next s) ∧
    (s.sel < s.cmds.length → c.kind = .cpb → c.stage = .slice → s.bulkReady c = true →
      (∀ x ∈ s.cmds, x.kind.isCopy = true → x.core = c.core → x.stage ≠ .queued) →
      (∀ n x, s.cmds[n]? = some x → x.kind.isCopy = true → x.core = c.core → x.stage = .slice → n ∈ s.slicesOf c) →
      (∀ n ∈ s.slicesOf c, (s.cmds.getD n default).bulkKey = c.bulkKey) → exec .bulkCommandStart s =
        .next ((s.slicesOf c).foldl (fun x n => x.modCmd n fun y => { y with stage := .started }) s)) ∧
    (s.bulkReady c = false → exec .bulkCommandStart s = .next s) ∧
    (c.kind.isCopy = true → c.stage = .started → descDscr c.desc = true → c.finished = false → s.copyOut s.sel = false →
      s.sel < s.cmds.length → c.own.team < s.teams.length → c.half < (s.team c.own.team).halves.length →
      Memory.wf (s.half c.own.team c.half).scratch = true →
      let xs := (c.carry.take (c.writeEnd - c.carryPos)).map (·.1)
      let bs := copyElemBytes c.dstSize xs
      let at_ := (descDst c.desc).toNat + c.dstHalf c.carryPos / 2
      (c.canWrite = true → ∃ t, exec .slotBytesArrive s = .next t ∧ (∀ a, readByte t.mem a = readByte s.mem a) ∧
        (t.cmds.getD s.sel default).carry = c.carry.drop xs.length ∧
        ∀ k, readByte (t.half c.own.team c.half).scratch k =
          if at_ ≤ k ∧ k < at_ + bs.length then bs.getD (k - at_) 0 else readByte (s.half c.own.team c.half).scratch k) ∧
      (c.canWrite = false → descSscr c.desc = false → c.pos < c.readEnd (c.pageOf c.pos) s.wordsNow c.pos →
        ∀ s1 l pa, s.walkNow c.core c.asid c.root c.cm (c.srcVa c.pos) { rd := true } 5 = (s1, .ok l pa) →
          ∃ t f, exec .slotBytesArrive s = .next t ∧ t.flights = s1.flights ++ [f] ∧ f.op = .load ∧
            f.job = .copyRead s.sel (c.readEnd (c.pageOf c.pos) s.wordsNow c.pos - c.pos) ∧ t.mem = s1.mem)) ∧
    (c.kind.isCopy = true → c.stage = .started → (c.finished = true ∨ s.copyOut s.sel = true) →
      exec .slotBytesArrive s = .next s) ∧
    (∀ x, s.slotReads[s.sel]? = some x → x.live = true → exec .slotReadComplete s = .next
      ({ s with slotReads := s.slotReads.modify s.sel fun y => { y with live := false } }.modSlot x.team x.half x.slot
        Slot.readDone)) ∧
    (s.sel < s.cmds.length → c.kind ∈ [CmdKind.cps, .cpg, .cpt] → c.stage = .started → c.finished = true →
      s.copyOut s.sel = false →
      (c.hasCtr = false → c.fault = none → c.countFault = none → exec .copyCommandComplete s = .next
        ((((s.modCmd s.sel fun x => { x with stage := .complete }).dropWrote c).batchesEnd c none).slotEnd c c.moved)) ∧
      (c.hasCtr = true → ∀ x1 l pa, (s.dropWrote c).walkNow c.core c.asid c.root c.cm c.ctr { rd := true, wr := true } 6 = (x1, .ok l pa) →
        pa % 8 = 0 → ∃ t f p, exec .copyCommandComplete s = .next t ∧ t.flights = x1.flights ++ [f] ∧ f.job = .count s.sel ∧
          f.op = .count c.inc (c.fault.isSome || !c.moved) ∧ f.pieces = [p] ∧ p.pa = pa ∧ p.addr = imageAddr l.plinth pa ∧ p.len = 8 ∧
          (s.sel < x1.cmds.length → (t.cmds.getD s.sel default).stage = .counting))) ∧
    (∀ (x : State) inc mark old, x.atomNew (.count inc mark) old =
      some (if mark then (old + inc) ||| BitVec.ofNat 64 (2 ^ 63) else old + inc, 0)) ∧
    (let n := s.drainFlight s.sel
     let f := s.flights.getD n default
     (c.kind = .drain → c.stage = .started → (c.drain.getD default).add = true → f.harvest = false →
       s.pieceLost f (f.pieces.getD 0 default) = false →
       (s.served n 0 = true → exec .addOnStore s = .next
         { s with cmds := s.cmds.modify s.sel fun x => { x with stage := .reserved }
                  reservedLines := s.reservedLines ++ c.blockLines.map fun l => (l, s.sel) }) ∧
       (s.served n 0 = false → exec .addOnStore s = .next s)) ∧
     (c.kind = .drain → c.stage = .reserved → ∃ t, exec .addOnStoreRelease s = .next t ∧
       (∀ p ∈ t.reservedLines, p.2 ≠ s.sel) ∧
       (n < s.flights.length → f.pieces.length = 1 → ((t.flights.getD n default).pieces.getD 0 default).performed = true)))

/-- R62 to R69, R326, R327: SLOTX arms an EMPTY slot, SLOTW passes when the phase is the one it waits for, SLOTR releases a
READY slot, SLOTQ gives the slot's record. -/
def Obligations.SlotWords : Prop :=
  ∀ (s : State) (g : BitVec 3) (x y : BitVec 6) (p : BitVec 1) (r : Ref) (rs : List Ref) (sl : Slot),
    let u := s.thr r
    let slot (f : Slot → Slot) : State := s.passed.modSlot r.team u.half x.toNat f
    s.slotAt r x = some sl →
    (∀ i, i = .slotx g x y → s.issues i (Clean i) → s.active i = r :: rs → sl.state = .empty →
      let w := (u.pairVal y.toNat).toNat
      let base := w % 2 ^ 13
      let size := w / 2 ^ 16 % 2 ^ 13
      let expect := w / 2 ^ 36 % 2 ^ 21
      w / 2 ^ 13 % 8 = 0 → w / 2 ^ 29 % 8 = 0 → w / 2 ^ 57 = 0 → size ≠ 0 → w / 2 ^ 32 % 16 < 14 →
      s.inWindow r.team (base * 256) (size * 256) = true → expect ≠ 0 → expect ≤ size * 256 →
      Becomes i s (slot fun z => { z with
        base := BitVec.ofNat 13 base, size := BitVec.ofNat 13 size, fmt := BitVec.ofNat 4 (w / 2 ^ 32 % 16), expect := expect,
        arrived := 0, err := false, state := .filling, armedBy := u.group })) ∧
    (∀ i, i = .slotw g x p → s.issues i (fun _ => True) → s.active i = r :: rs → sl.phase = (p == 1) →
      Becomes i s (slot fun z => z.observe u.group)) ∧
    (∀ i, i = .slotr g x → s.issues i (fun _ => True) → s.active i = r :: rs → sl.state = .ready →
      Becomes i s (slot fun z => { z with state := if z.reads = 0 ∧ z.prods = 0 then .empty else .draining })) ∧
    (∀ i, i = .slotq g x y → s.issues i (fun _ => True) → s.active i = r :: rs → u.ctl = false →
      ∃ t, exec i s = .next t ∧ (∀ q ∈ r :: rs, (s.thr q).ctl = false → ∀ n, (t.thr q).reg n =
        if n = 0 then zeroReg
        else if n = y.toNat then { val := sl.word0 &&& 0xFFFFFFFF, tag := tagI32 }
        else if n = y.toNat + 1 then { val := sl.word0 >>> 32, tag := tagI32 }
        else if n = y.toNat + 2 then { val := sl.word1 &&& 0xFFFFFFFF, tag := tagI32 }
        else if n = y.toNat + 3 then { val := sl.word1 >>> 32, tag := tagI32 } else (s.thr q).reg n) ∧
        (∀ a, readByte t.mem a = readByte s.mem a)) ∧
    (∀ z : Slot, z.reads < 256 → z.word0 = BitVec.ofNat 64 (z.base.toNat + 2 ^ 16 * z.size.toNat + 2 ^ 32 * z.fmt.toNat +
      2 ^ 36 * (match z.state with | .empty => 0 | .filling => 1 | .ready => 2 | .draining => 3) +
      2 ^ 38 * z.phase.toNat + 2 ^ 39 * z.err.toNat + 2 ^ 40 * z.reads))

/-! ## Messages, rings, probes and deferred reports (R161 to R164, R328, R329, R364 to R367, R377 to R379) -/

/-- R161 to R164, R328, R329: MRING sets, closes, pops, watches and reads a ring; MSEND sends its lanes' messages and waits;
an arriving message is appended to its ring and its sender answered. -/
def Obligations.MessagesAndRings : Prop :=
  ∀ (s : State) (g n : BitVec 3) (d a z : BitVec 6) (r : Ref) (rs : List Ref),
    let u := s.thr r
    let ring (x : Ring) (f : Ring → Ring) : State :=
      { s.passed with rings := s.rings.map fun y => if y.core = x.core ∧ y.phys = x.phys then f y else y }
    (∀ x, s.teamRing r n = some x →
      (∀ i, i = .mringSet g n a → s.issues i (Clean i) → s.active i = r :: rs → x.en = false →
        let w := (u.val32 a.toNat).toNat
        w < 2 ^ 16 → w / 2 ^ 13 ≠ 0 → s.inWindow r.team (w % 2 ^ 13 * 256) (64 + 64 * 2 ^ (w / 2 ^ 13)) = true →
        (s.half r.team x.half).scratchAway (w % 2 ^ 13 * 256) (64 + 64 * 2 ^ (w / 2 ^ 13)) = false →
        ∃ t, exec i s = .next t ∧ t.rings = (s.rings.map fun y => if y.core = x.core ∧ y.phys = x.phys then
            { x with base := BitVec.ofNat 13 w, logn := BitVec.ofNat 3 (w / 2 ^ 13), head := 0, tail := 0, en := true } else y) ∧
          (∀ q, (t.thr q).regs = (s.thr q).regs) ∧ (∀ c, readByte t.mem c = readByte s.mem c)) ∧
      (∀ i, i = .mringOff g n → s.issues i (fun _ => True) → s.active i = r :: rs →
        (∀ m ∈ s.messages, m.met = true → m.core = x.core → m.ring ≠ x.phys) →
        Becomes i s (ring x fun y => { y with en := false })) ∧
      (∀ i, i = .mringOff g n → s.issues i (fun _ => True) → s.active i = r :: rs →
        ∃ t, exec i s = .next t ∧ (∀ y ∈ t.rings, y.core = x.core → y.phys = x.phys → y.en = false) ∧
          ∀ k m, s.messages[k]? = some m → m.met = true → m.core = x.core → m.ring = x.phys → m.done = false →
            m.status = none → (t.messages.getD k default).status = some 2) ∧
      (∀ i, i = .mringPop g n a → s.issues i (Clean i) → s.active i = r :: rs → let k := (u.val32 a.toNat).toNat
        k ≠ 0 → k ≤ (x.tail - x.head).toNat → (∀ q ∈ s.active i, s.drainsScratch q = false) → Becomes i s (ring x fun y => { y with head := y.head + BitVec.ofNat 16 k })) ∧
      (∀ i, i = .mringQ g n d → s.issues i (fun _ => True) → s.active i = r :: rs → (∀ q ∈ rs, s.teamRing q n = some x) →
        Completes i s (Writes fun u => pair u.ctl d (BitVec.ofNat 64 (x.tail.toNat + 2 ^ 16 * x.head.toNat +
          2 ^ 32 * x.base.toNat + 2 ^ 45 * x.logn.toNat + 2 ^ 48 * x.en.toNat + 2 ^ 49 * (x.phys % 8) +
          2 ^ 52 * (x.core % 256))) tagI32)) ∧
      (∀ i, i = .mringWatch g n → s.issues i (fun _ => True) → s.active i = [r] → ∃ t, exec i s = .next t ∧
        (∃ w, (t.thr r).watch = some w ∧ w.ring = some (x.core, x.phys) ∧ w.armed = x.tail ∧ w.line = none ∧
          w.triggered = false) ∧ t.rings = s.rings ∧ (∀ q, (t.thr q).regs = (s.thr q).regs) ∧
        (∀ c, readByte t.mem c = readByte s.mem c))) ∧
    (∀ i wait, (i, wait) ∈ ([(.msend g d a z, true), (.msendNb g d a z, false)] : List (Instr × Bool)) →
      s.issues i (fun u => Clean i u ∧ u.wait = none) → s.cur = [r] → u.active i = true →
      (let w := (u.val32 a.toNat).toNat
       w / 2 ^ 11 % 8 ≠ 0 → w / 2 ^ 14 % 4 = 0 → (u.val32 z.toNat).toNat % 8 = 0 →
       (∃ h o, s.scratchAt r (u.val32 z.toNat) (w / 2 ^ 11 % 8 * 8) = some (h, o) ∧
         (s.half r.team h).scratchAway o (w / 2 ^ 11 % 8 * 8) = false) → s.allPerformed r false = true →
       ∃ t, exec i s = .next t ∧ t.messages = s.messages ++ [s.messageOf d a z wait r] ∧
         (t.thr r).wait = some (.message s.messages.length) ∧ (t.thr r).pc = u.pc ∧ (∀ q, (t.thr q).regs = (s.thr q).regs) ∧
         ∀ c, readByte t.mem c = readByte s.mem c)) ∧
    (∀ i, i ∈ [Instr.msend g d a z, .msendNb g d a z] → s.issues i (fun _ => True) →
      (∀ q ∈ s.active i, ∃ k m, (s.thr q).wait = some (.message k) ∧ s.messages[k]? = some m ∧ m.done = true) →
      Becomes i s s.passed) ∧
    (∀ m, s.messages[s.sel]? = some m → m.done = false → m.here = true → m.status = none →
      (s.coreEnabled m.core = false → exec .messageAppend s = .next (s.answer s.sel 4)) ∧
      (s.coreEnabled m.core = true →
        (s.ringAt m.core m.ring = none → exec .messageAppend s = .next (s.answer s.sel 2)) ∧
        (∀ x, s.ringAt m.core m.ring = some x →
          ((x.en = false ∨ (s.team x.team).status = .retired) → exec .messageAppend s = .next (s.answer s.sel 2)) ∧
          (x.en = true → (s.team x.team).status ≠ .retired →
            (((s.team x.team).xasid.setWidth 16 : BitVec 16) ≠ (s.team m.own.team).xasid.setWidth 16 →
              exec .messageAppend s = .next (s.answer s.sel 3)) ∧
            ((s.team x.team).xasid.setWidth 16 = ((s.team m.own.team).xasid.setWidth 16 : BitVec 16) →
              ((x.used < 2 ^ x.logn.toNat ∧ (s.team x.team).status = .resident) →
                exec .messageAppend s = .next ((s.appendMessage s.sel x).answer s.sel 0)) ∧
              ((2 ^ x.logn.toNat ≤ x.used ∨ (s.team x.team).status ≠ .resident) →
                ∃ t, exec .messageAppend s = .next t ∧
                  (m.wait = false → t = s.answer s.sel 1) ∧
                  (m.wait = true → t.rings = s.rings ∧ t.ports = s.ports ∧
                    t.messages[s.sel]? = some { m with met := true })))))) ∧
      (∀ status, (s.answer s.sel status).messages[s.sel]? =
          some { m with status := some status, here := false, met := false } ∧
        (s.answer s.sel status).ports ≠ s.ports)) ∧
    (∀ k m, s.messages[k]? = some m → m.done = false → s.has m.own → m.dst ≠ 0 →
      ((s.messageBack k).thr m.own).reg m.dst.toNat = { val := (m.status.getD 0).setWidth 64, tag := tagI32 } ∧
      ((s.messageBack k).messages.getD k default).done = true)

/-- R364 to R367, R377 to R379, R384: PROBE gives the result word of its team's probes, and a probe that finds no cycle
changes nothing else; the watchdog waits its millisecond and then begins the next; a group's oldest report that can be taken becomes a deferred
trap, and one that no thread is left to take is dropped. -/
def Obligations.ProbesAndReports : Prop :=
  ∀ (s : State) (g : BitVec 3) (d : BitVec 6),
    (s.issues (.probe g d) (fun _ => True) →
      (∀ r ∈ s.active (.probe g d), ∀ u ∈ s.blockedUnits r.team, s.probeFrom u ≠ 1) →
      CompletesAt (.probe g d) s fun r => Gives d fun _ =>
        { val := if ∃ u ∈ s.blockedUnits r.team, s.probeFrom u = 2 then 2 + 4 * 0x7F else 4 * 0x7F, tag := tagI32 }) ∧
    (s.unitBlocked (s.sel, s.sel2) = false → exec .watchdogProbe s = .next s) ∧
    (∀ r ∈ s.unitRefs (s.sel, s.sel2), s.blocked r = true → s.gtime < (s.thr r).since + 1000000 →
      exec .watchdogProbe s = .next s) ∧
    ((s.team s.sel).onCore = true → s.unitBlocked (s.sel, s.sel2) = true →
      s.blockedSince (s.sel, s.sel2) + 1000000 ≤ s.gtime → s.probeFrom (s.sel, s.sel2) ≠ 1 →
      ∃ t, exec .watchdogProbe s = .next t ∧ (∀ r, (t.thr r).regs = (s.thr r).regs ∧ (t.thr r).pc = (s.thr r).pc) ∧
        (∀ r ∈ s.unitRefs (s.sel, s.sel2), s.has r → (t.thr r).since = s.gtime) ∧ ∀ a, readByte t.mem a = readByte s.mem a) ∧
    ((s.group s.sel s.sel2).reports = [] → (∀ r ∈ s.liveRefs s.sel s.sel2, (s.thr r).group = s.sel2) → exec .deferredReport s = .next s) ∧
    (∀ x r q, (s.group s.sel s.sel2).reports = [x] → s.reportThread s.sel x = some q →
      (s.liveRefs s.sel s.sel2).find? (fun r => s.reportDue r && (s.team s.sel).onCore && !(s.team s.sel).isHalted) = some r →
      r.team = s.sel → (s.thr r).group = s.sel2 →
      exec .deferredReport s = .next ((s.takeReport r x).settle s.sel s.sel2)) ∧
    (∀ x, (s.group s.sel s.sel2).reports = [x] → s.reportThread s.sel x = none →
      ∃ t, exec .deferredReport s = .next t ∧ (t.group s.sel s.sel2).reports = [] ∧ (∀ r, t.thr r = s.thr r) ∧
        ∀ a, readByte t.mem a = readByte s.mem a)

/-! ## The matrix engine, spline, optimiser and context instructions (R319 to R354, R388) -/

namespace Sys2Proof.Machine

/-- The engine can take an instruction of a fragment: storage handed over and not in use, a free entry, the release done, room
for a report (R136, R209, R321, R364). -/
def State.engineFree (s : State) (i : Instr) (r : Ref) (what : List Nat) : Prop :=
  (s.halfOf r).accAway i = false ∧ s.engineBusy r what = false ∧
    (s.engine.filter fun e => e.core == s.coreOf r).length < 32 ∧
    (s.harvest r.team = true → (s.engine.filter fun e => e.core == s.coreOf r && e.harvest).length < 16) ∧
    (∀ q ∈ s.active i, s.allPerformed q false = true) ∧
    ((s.thr r).ctl = true ∨ (s.group r.team (s.thr r).group).reports.length < 8)

/-- So, and its team's storage is its own (R376). -/
def State.engineMay (s : State) (i : Instr) (r : Ref) (what : List Nat) : Prop :=
  s.engineFree i r what ∧ s.accOwned r = false

/-- A slot of a thread's half. -/
def State.slotOf (s : State) (r : Ref) (n : Nat) : Slot := (s.halfOf r).slots.getD n default
/-- The tag of a tile of a thread's half. -/
def State.tileTag (s : State) (r : Ref) (x : Nat) : Tag := ((s.halfOf r).tiles.getD x default).tag

/-- The slots are READY, in the table and sound, of FMTs that the form lists, of the sizes it needs, and the tile takes its
results (R330, R331, R348). -/
def State.operandsMay (s : State) (r : Ref) (x : Nat) (slots : List Nat) (form : List Tag → Option Tag)
    (bytes : List Tag → List Nat) : Prop :=
  let fmts := slots.map fun n => (s.slotOf r n).fmt
  s.inTables r [x] slots = true ∧ s.notReady r slots = none ∧ (∀ n ∈ slots, (s.slotOf r n).err = false) ∧
    (∀ p ∈ slots.zip (bytes fmts), p.2 ≤ (s.slotOf r p.1).len) ∧ s.tileTag r x ≠ tagPOISON ∧
    ∃ want, form fmts = some want ∧ (s.tileTag r x = tagRAW ∨ s.tileTag r x = want)

/-- The form of an evaluation: arrays of F32 or BF16 (R348). -/
def gridForm (ts : List Tag) : Option Tag := if ts.all fun t => t = tagF32 ∨ t = tagBF16 then some tagF32 else none
/-- Bytes of such arrays. -/
def gridSizes (ts : List Tag) : List Nat := ts.map fun t => if t = tagF32 then 4096 else 2048

/-- The team has a vitrine and knot-grid register `k` (R342, R346). -/
def State.splineMay (s : State) (r : Ref) (k : Nat) : Prop := (s.halfOf r).vit.isSome = true ∧ k < (s.halfOf r).knots.length

end Sys2Proof.Machine

/-- R319, R321, R330 to R332, R346 to R354: an instruction of the matrix engine is accepted: it joins the queue of its core's
engine, its slots count its reads, and its fragment goes on. -/
def Obligations.EngineWordsAccepted : Prop :=
  ∀ (s : State) (g : BitVec 3) (x y z : BitVec 6) (ta tb : BitVec 1) (k q : BitVec 2) (j : BitVec 5) (r : Ref) (rs : List Ref)
    (i : Instr) (what slots : List Nat) (good : Prop),
    let d := 64 * (k.toNat + 1)
    let a := x.toNat
    let b := y.toNat
    let c := z.toNat
    let elems (t : Tag) : Nat := d * 2 / max 1 (matHalf t)
    let plane (n : Nat) : Prop := s.slotOf r b |> fun sl => sl.fmt = tagBF16 ∧ 2048 * n ≤ sl.len ∧ sl.err = false
    (i, what, slots, good) ∈ ([
      (.mma g x y z ta tb k, [a], [b, c], s.operandsMay r a [b, c] mmaTag fun _ => [32 * d, 32 * d]),
      (.mmas g x y z ta tb k, [a], [b, b + 1, c, c + 1], s.operandsMay r a [b, b + 1, c, c + 1] mmasTag fun f =>
        [32 * d, elems (f.getD 0 0) / 32, 32 * d, elems (f.getD 2 0) / 32]),
      (.mmaq g x y z q k, [a], [b, c, c + 1], s.operandsMay r a [b, c, c + 1] mmaqTag fun f =>
        [32 * d, 32 * d, 128 * max 1 (elems (f.getD 0 0) / (32 * 2 ^ q.toNat))]),
      (.mzero g x, [], [], s.inTables r [a] [] = true),
      (.mlda g x y, [], [b], s.inTables r [a] [b] = true ∧ s.notReady r [b] = none ∧ 4096 ≤ (s.slotOf r b).len ∧
        (s.slotOf r b).fmt ∈ [tagF32, tagI32, tagRAW] ∧ (s.slotOf r b).err = false),
      (.splev g x y j, [a], [b], s.splineMay r j.toNat ∧ s.operandsMay r a [b] gridForm gridSizes),
      (.spldr g x y j, [a], [b, b + 1], s.splineMay r j.toNat ∧ s.operandsMay r a [b, b + 1] gridForm gridSizes),
      (.splgr g x y j, [a], [b, b + 1], s.splineMay r j.toNat ∧ s.operandsMay r a [b, b + 1] gridForm gridSizes),
      (.splrf g j, [], [], s.splineMay r j.toNat),
      (.splld g x y z, [], [b], s.inTables r [] [b] = true ∧ s.notReady r [b] = none ∧ (s.halfOf r).vit.isSome = true ∧
        a ≤ 35 ∧ 1 ≤ c ∧ a + c ≤ 36 ∧ plane c)] : List (Instr × List Nat × List Nat × Prop)) →
    s.issues i (fun _ => True) → s.active i = r :: rs → s.engineMay i r what → good →
    Becomes i s (slots.foldl (fun w n => w.modSlot r.team (s.thr r).half n fun sl => sl.consume (s.thr r).group)
      { s.passed with engine := s.engine ++ [s.entryOf i r], stamp := s.stamp + 1 })

/-- R321, R333 to R335, R350 to R352, R388: MDRN and SPLST as producers of a slot or of memory, MMV as a command, SPLKG with its
values, and the words that wait until the engine has performed them. -/
def Obligations.EngineProducersAndHolders : Prop :=
  ∀ (s : State) (g : BitVec 3) (x y z : BitVec 6) (f : BitVec 4) (w : BitVec 2) (j : BitVec 5) (r : Ref) (rs : List Ref),
    let u := s.thr r
    let bytes := 1024 * drainBytes f
    let code : Prop := 1 ≤ f.toNat ∧ f.toNat ≤ 6 ∧ ¬(s.tileTag r x.toNat = tagF32 ∧ f = 6) ∧ s.tileTag r x.toNat ≠ tagPOISON
    let taken (e : MEntry) : State := { s.passed with engine := s.engine ++ [e], stamp := s.stamp + 1 }
    let joined (a : State) : State := (r :: rs).foldl (fun a q => a.modThr q Thread.joinBatch) a
    let joins : List (Nat × BitVec 32) := (r :: rs).map fun q => (q.thr, (s.thr q).batchNo)
    (∀ i, i ∈ [Instr.mdrnS g x y f, .mdrnSadd g x y f] → s.issues i (fun _ => True) → s.active i = r :: rs →
      s.engineMay i r [x.toNat] → s.inTables r [x.toNat] [y.toNat] = true → code →
      (let sl := s.slotOf r y.toNat
       sl.state = .filling ∧ sl.off % bytes = 0 ∧ sl.fmt = drainTag f ∧ bytes ≤ sl.len) →
      Becomes i s ((taken (s.entryOf i r)).modSlot r.team u.half y.toNat fun sl => sl.produce u.group)) ∧
    (∀ i, i = .splst g x y z → s.issues i (fun _ => True) → s.active i = r :: rs → s.engineMay i r [] →
      s.inTables r [] [y.toNat] = true → (s.halfOf r).vit.isSome = true → x.toNat ≤ 35 → 1 ≤ z.toNat →
      x.toNat + z.toNat ≤ 36 →
      (let sl := s.slotOf r y.toNat
       sl.state = .filling ∧ sl.fmt = tagBF16 ∧ 2048 * z.toNat ≤ sl.len) →
      Becomes i s ((taken (s.entryOf i r)).modSlot r.team u.half y.toNat fun sl => sl.produce u.group)) ∧
    (∀ i add va n l pa rest, (i, add) ∈ ([(.mdrnG g x y f, false), (.mdrnGadd g x y f, true)] : List (Instr × Bool)) →
      s.issues i (Clean i) → s.active i = r :: rs → s.engineMay i r [x.toNat] → s.inTables r [x.toNat] [] = true → code →
      (u.pairVal y.toNat).toNat % bytes = 0 →
      s.transAccess r (u.pairVal y.toNat) bytes { wr := true } 6 = .ok ((va, n, l, pa) :: rest) →
      (add = true → farParts ((va, n, l, pa) :: rest) = false) →
      (s.buffers r = false → Becomes i s (joined (taken { s.entryOf i r with
        arg := u.pairVal y.toNat, parts := [(bytes, pa, l.plinth)], joins := joins }))) ∧
      (s.buffers r = true → s.hasRoom r 1 → (∀ e ∈ (s.group r.team u.group).buf, e.drain = none) →
        Becomes i s (joined (s.passed.bufferPush r [{ drainEntry u ((s.team r.team).xasid.setWidth 16) (u.pairVal y.toNat) l pa
          ((s.halfOf r).drainOf x.toNat f add u.rm u.sat) with joins := joins }])))) ∧
    (∀ i, i = .mmv g y z w → s.issues i (fun u => u.poisoned (copyUses y z) = false) → s.active i = r :: rs →
      badMmv (u.desc y) w = false → (mmvBase (u.desc y) 0).toNat % 256 = 0 → (mmvBase (u.desc y) 1).toNat % 2 = 0 →
      (mmvBase (u.desc y) 2).toNat % 4 = 0 → (z ≠ 0 → (u.pairVal z.toNat).toNat % 8 = 0) →
      (∀ q ∈ r :: rs, s.allPerformed q false = true) → s.reportRoom r .run = .run →
      Becomes i s (joined { s.passed with cmds := s.cmds ++ [{ s.copyCmd .mmv 0 y z r with
        inc := 1, fmt := w.setWidth 4, joins := joins }] })) ∧
    (∀ i, i = .splkg g j y → s.issues i (Clean i) → s.active i = r :: rs → s.engineMay i r [] → s.splineMay r j.toNat →
      (let w := u.blockWord y.toNat
       badKnot (w 0) (w 1) (w 2) (w 3) = false → u.blockTag y.toNat 0 = tagF32 → u.blockTag y.toNat 1 = tagF32 →
       Becomes i s (taken { s.entryOf i r with arg := w 1 ++ w 0, arg2 := (w 2).setWidth 64 }))) ∧
    (∀ i id, i ∈ [Instr.splkq g j y, .accsave g x y, .accrest g x y, .accsaveV g y, .accrestV g y] →
      s.issues i (fun _ => True) → s.active i = r :: rs → u.wait = some (.engine id) → (∀ e ∈ s.engine, e.id ≠ id) →
      Becomes i s s.passed) ∧
    (∀ i, i = .splkq g j y → s.oneFragment → s.issues i (fun _ => True) → s.active i = r :: rs →
      (∀ q ∈ s.cur, (s.thr q).wait = none) → s.engineMay i r [] → s.splineMay r j.toNat → ∃ t, exec i s = .next t ∧
        t.engine = s.engine ++ [s.entryOf i r] ∧
        (∀ q ∈ s.cur, (t.thr q).wait = some (.engine s.stamp) ∧ (t.thr q).pc = (s.thr q).pc) ∧
        (∀ q, (t.thr q).regs = (s.thr q).regs) ∧ ∀ a, readByte t.mem a = readByte s.mem a) ∧
    (∀ i n save parts, (i, n, save) ∈ ([(.accsave g x y, 4224, true), (.accrest g x y, 4224, false),
        (.accsaveV g y, 74624, true), (.accrestV g y, 74624, false)] : List (Instr × Nat × Bool)) →
      s.oneFragment → s.issues i (Clean i) → s.active i = r :: rs → (∀ q ∈ s.cur, (s.thr q).wait = none) →
      s.engineFree i r [] → (save = true ∨ s.accOwned r = false) →
      (i ∈ [Instr.accsave g x y, .accrest g x y] → x.toNat < (s.halfOf r).tiles.length ∧
        x.toNat < (let p := s.accSource r.team u.half; (s.half p.1 p.2).tiles.length)) → (u.pairVal y.toNat).toNat % 128 = 0 →
      s.allPerformed r true = true → s.recordParts r y save n = .ok parts →
      ∃ t, exec i s = .next t ∧ t.engine = s.engine ++ [{ s.entryOf i r with arg := u.pairVal y.toNat, parts := parts }] ∧
        (∀ q ∈ s.cur, (t.thr q).wait = some (.engine s.stamp) ∧ (t.thr q).pc = (s.thr q).pc) ∧
        (∀ q, (t.thr q).regs = (s.thr q).regs) ∧ ∀ a, readByte t.mem a = readByte s.mem a)

/-- R70, R115, R321, R330 to R332, R350, R352: the engine performs its oldest guaranteed instruction, else its oldest; what
MZERO, MLDA, SPLKG, SPLLD and an integer MMA leave; the tile's element (i, j) takes row i of A and column j of B. R335 to
R337: an MMV of a stack runs in its turn, and one with nothing left to do ends: its batches, its counter, its faults. -/
def Obligations.EngineSteps : Prop :=
  ∀ (s : State),
    ((∀ e ∈ s.engine, e.core ≠ s.sel) → exec .matrixEngineStep s = .next s) ∧
    (∀ e x, s.engineNext s.sel = some e →
      let gone : State := { x with
        engine := x.engine.filter fun k => k.id != e.id
        slotReads := x.slotReads ++ (engineReads e.instr).map fun n =>
          { team := e.team, half := e.half, slot := n, live := true } }
      (∀ f, s.recordFlight e = some f →
        (e.sent = none → exec .matrixEngineStep s = .next ({ s with
          engine := s.engine.map fun k : MEntry => if k.id = e.id then { k with sent := some s.flights.length } else k }.launchFlight f)) ∧
        (∀ n, e.sent = some n → (s.flights.getD n default).returned = false → exec .matrixEngineStep s = .next s)) ∧
      ((s.recordFlight e = none ∨ ∃ n, e.sent = some n ∧ (s.flights.getD n default).returned = true) →
        (s.doEntry e = (x, none) → exec .matrixEngineStep s = .next gone) ∧
        (∀ q y, s.doEntry e = (x, some q) → (s.team e.team).groups[e.group]? = some y →
          (y.reports.length < 8 → exec .matrixEngineStep s = .next (gone.pushReport e.team e.group q)) ∧
          (8 ≤ y.reports.length → exec .matrixEngineStep s = .next s)))) ∧
    (∀ e g (x y : BitVec 6) (k : BitVec 5) (z : BitVec 6),
      let h := s.half e.team e.half
      let put (f : Half → Half) : State := s.modHalf e.team e.half f
      (e.instr = .mzero g x → s.doEntry e = (put fun w => { w with
        tiles := w.tiles.set x.toNat { tag := tagRAW, bytes := [], bad := [] } }, none)) ∧
      (e.instr = .mlda g x y → h.slotBad y.toNat 4096 = false → s.doEntry e = (put fun w => { w with
        tiles := w.tiles.set x.toNat (tileOf (h.slotTag y.toNat) (elemList 8 (h.slotBytes y.toNat 4096))) }, none)) ∧
      (e.instr = .splkg g k y → s.doEntry e = (put fun w => { w with
        knots := w.knots.set k.toNat { w0 := e.arg, w1 := e.arg2 &&& 0x3FF, w2 := 0 } }, none)) ∧
      (e.instr = .splld g x y z → h.slotBad y.toNat (2048 * z.toNat) = false → s.doEntry e = (put fun w => { w with
        vit := w.vit.map fun v => writeBytes v (2048 * x.toNat) (h.slotBytes y.toNat (2048 * z.toNat))
        vitBad := setDelRange w.vitBad (1024 * x.toNat) (1024 * z.toNat) }, none)) ∧
      (∀ ta tb (d : BitVec 2), e.instr = .mma g x y z ta tb d →
        let depth := 64 * (d.toNat + 1)
        h.slotBad y.toNat (32 * depth) = false → h.slotBad z.toNat (32 * depth) = false →
        (h.tiles.getD x.toNat default).bad = [] → (h.tiles.getD x.toNat default).tag ≠ tagPOISON →
        mmaTag [h.slotTag y.toNat, h.slotTag z.toNat] = some tagI32 →
        let p := tileProduct (accumulateInt e.sat) (tileElems (h.tiles.getD x.toNat default).bytes)
          (intRows (h.slotTag y.toNat) (operandRows (h.slotTag y.toNat) depth (tb == 1) (h.slotBytes y.toNat (32 * depth))))
          (intRows (h.slotTag z.toNat) (operandRows (h.slotTag z.toNat) depth (ta == 1) (h.slotBytes z.toNat (32 * depth))))
        s.doEntry e = ((put fun w => { w with tiles := w.tiles.set x.toNat (tileOf tagI32 p.1) }).orEstat e.team p.2, none))) ∧
    (∀ (f : Nat → List (List Int) → List (List Int) → Nat × Conds) c a b i j, a.length = 32 → b.length = 32 → c.length = 1024 →
      i < 32 → j < 32 → (tileProduct f c a b).1.getD (32 * i + j) 0 = (f (c.getD (32 * i + j) 0) (a.getD i []) (b.getD j [])).1) ∧
    (∀ acc a b, accumulateInt false acc [a] [b] =
      (((acc : Int) + (List.zipWith (· * ·) a b).sum) % 2 ^ 32 |>.toNat, 0)) ∧
    (let c := s.cmds.getD s.sel default
    ((c.kind ≠ .mmv ∨ s.mmvTurn s.sel = false) → exec .plinthMmvComplete s = .next s) ∧
    (c.kind = .mmv → s.mmvTurn s.sel = true → c.stage = .queued →
      (c.stop = true → exec .plinthMmvComplete s = .next (s.mmvEnd s.sel)) ∧
      (c.stop = false → exec .plinthMmvComplete s = .next (s.modCmd s.sel fun x => { x with stage := .started }))) ∧
    (c.kind = .mmv → s.mmvTurn s.sel = true → c.stage = .started →
      (s.mmvWaits s.sel = true → exec .plinthMmvComplete s = .next s) ∧
      (s.mmvWaits s.sel = false →
        (c.mmvOver = false → exec .plinthMmvComplete s = .next (s.mmvStep s.sel)) ∧
        (c.mmvOver = true → s.jobOut (fun j => j == .result s.sel) = true → exec .plinthMmvComplete s = .next s) ∧
        (c.mmvOver = true → s.jobOut (fun j => j == .result s.sel) = false →
          exec .plinthMmvComplete s = .next (s.mmvEnd s.sel)))) ∧
    (c.fault = none →
      (c.hasCtr = false → c.countFault = none →
        s.mmvEnd s.sel = ((s.modCmd s.sel fun x => { x with stage := .complete }).dropWrote c).batchesEnd c none) ∧
      (c.hasCtr = true → s.mmvEnd s.sel = (s.dropWrote c).counterSend s.sel (decide (mmvRows c.desc ≤ c.row)))))

/-- R133, R338 to R341: OADAM, OSGD and VRED sweep their slots' elements in the team's window, report their conditions in
ESTAT and leave all else; integer VRED.ADD wraps or saturates and VRED.MAX takes the greater. -/
def Obligations.OptimiserAndReductionWords : Prop :=
  ∀ (s : State) (g : BitVec 3) (x y z : BitVec 6) (r : Ref) (rs : List Ref),
    let u := s.thr r
    let fmt (n : Nat) : Tag := (s.slotOf r n).fmt
    let may (slots : List Nat) (n : Nat) : Prop :=
      s.inTables r [] slots = true ∧ n ≠ 0 ∧ s.notReady r slots = none ∧
        (∀ q ∈ r :: rs, s.scratchMay q 0 true = true ∧ s.drainsScratch q = false) ∧ s.reportRoom r .run = .run ∧
        ∀ k ∈ slots, let sl := s.slotOf r k
          sl.err = false ∧ n * elemBytes sl.fmt ≤ sl.len ∧ (s.halfOf r).scratchAway sl.off (n * elemBytes sl.fmt) = false
    let sweep (slots : List Nat) (n draws : Nat) (f : Nat → List Nat → List Nat × ElemFlags) : State :=
      s.sweep s.passed r slots (slots.map fun k => elemBytes (fmt k)) n draws f
    (∀ i slots k draws (elem : List Fmt → List Machine.Num → (Nat → Mode) → List Machine.Num → List Nat × ElemFlags),
      (i, slots, k, draws, elem) ∈ ([
        (.oadam g x y z, [x.toNat, x.toNat + 1, x.toNat + 2, y.toNat], 7, 3, fun fs ps md xs =>
          adamElem fs ps md (xs.getD 0 .nan) (xs.getD 1 .nan) (xs.getD 2 .nan) (xs.getD 3 .nan)),
        (.osgd g x y z, [x.toNat, x.toNat + 1, y.toNat], 3, 2, fun fs ps md xs =>
          sgdElem fs ps md (xs.getD 0 .nan) (xs.getD 1 .nan) (xs.getD 2 .nan))] :
          List (Instr × List Nat × Nat × Nat × (List Fmt → List Machine.Num → (Nat → Mode) → List Machine.Num → List Nat × ElemFlags))) →
      s.issues i (fun u => u.poisoned (paramUses z k) = false ∧ ∀ j, j < k → u.blockTag z.toNat j = tagF32) →
      s.active i = r :: rs → may slots (u.blockWord z.toNat 7).toNat → optFmts (slots.map fmt) = true →
      Becomes i s (sweep slots (u.blockWord z.toNat 7).toNat draws fun e bits =>
        let xs := List.zipWith (fun n b => (slotFmt (fmt n)).decode b) slots bits
        if xs.all Num.finite then
          elem (slots.map fun n => slotFmt (fmt n)) ((List.range k).map fun j => Fmt.f32.decode (u.blockWord z.toNat j).toNat)
            (fun j => { rm := u.rm, sat := u.sat, rnd := Config.srDraw (s.drawn + draws * e + j) }) xs
        else ([], { conds := 0, negv := false, nonfin := true }))) ∧
    (∀ i isMax draws (elem : Mode → Nat → Nat → Nat × Conds), (i, isMax, draws, elem) ∈ ([
        (.vredAdd g x y z, false, 1, fun m a b => vredAddElem (fmt x.toNat) (fmt y.toNat) m a b),
        (.vredMax g x y z, true, 0, fun _ a b => (vredMaxElem (fmt x.toNat) a b, 0))] :
          List (Instr × Bool × Nat × (Mode → Nat → Nat → Nat × Conds))) →
      s.issues i (Clean i) → s.active i = r :: rs → may [x.toNat, y.toNat] (u.val32 z.toNat).toNat →
      vredFmts isMax [fmt x.toNat, fmt y.toNat] = true →
      Becomes i s (sweep [x.toNat, y.toNat] (u.val32 z.toNat).toNat draws fun e bits =>
        let v := elem { rm := u.rm, sat := u.sat, rnd := Config.srDraw (s.drawn + draws * e) } (bits.getD 0 0) (bits.getD 1 0)
        ([v.1], { conds := v.2, negv := false, nonfin := false }))) ∧
    (∀ (m : Mode) (a b : Nat), a < 2 ^ 32 → b < 2 ^ 32 →
      (m.sat = false → vredAddElem tagI32 tagI32 m a b = ((a + b) % 2 ^ 32, 0)) ∧
      vredMaxElem tagI32 a b = if (BitVec.ofNat 32 a).slt (BitVec.ofNat 32 b) then b else a)

/-! ## System words, outside accesses, power and reliability (R33 to R41, R375, R401, R405, R418 to R442) -/

/-- R39 to R41, R387: TLBINV removes the translations that its selector names in its scope, the walk cache's pointers to
them with them, waits, and retires when the invalidation is complete; what each selector names. R375, R376: a claim gives a held
set of accumulator storage to the claiming team's context, and zeroes of the team's tiles those that lay in it (or, log 54, all
of them where an earlier claim had displaced the team). -/
def Obligations.InvalidationsAndClaims : Prop :=
  ∀ (s : State) (g : BitVec 3) (c e : BitVec 2) (y z : BitVec 6) (i : Instr),
    (i = .tlbinv g c e y z → s.issues i (fun u => ∃ k, u.wait = some (.tlbinv k) ∧ (s.tlbinvs.getD k default).done = true) →
      Becomes i s s.passed) ∧
    (∀ rs, i = .tlbinv g c e y z → s.oneFragment → s.active i = rs → rs ≠ [] →
      s.issues i (fun u => u.wait = none ∧ Clean i u ∧ (e = 0 → canonical (u.pairVal y.toNat) = true)) →
      (∀ q ∈ s.cur, (s.thr q).wait = none ∧ (s.group q.team (s.thr q).group).open_ = false) →
      (∀ q ∈ rs, s.writesPerformed q = true) →
      let inv (q : Ref) : TlbInv := s.tlbInvOf c e y z q
      ∃ t, exec i s = .next t ∧ t.tlbinvs.length = s.tlbinvs.length + rs.length ∧
        t.tlb = s.tlb.filter (fun p => rs.all fun q =>
          !(locInScope c (s.coreOf q) p.loc && (inv q).hits p.vpage p.leaf.level p.leaf.glob p.asid)) ∧
        t.walkCache = s.walkCache.filter (fun p => rs.all fun q =>
          !(locInScope c (s.coreOf q) (dieTlb p.die) && (inv q).leads p)) ∧
        (∀ k q, rs[k]? = some q → (t.thr q).wait = some (.tlbinv (s.tlbinvs.length + k)) ∧
          (t.tlbinvs.getD (s.tlbinvs.length + k) default).done = false) ∧
        (∀ q ∈ s.cur, (t.thr q).regs = (s.thr q).regs ∧ (t.thr q).pc = (s.thr q).pc) ∧
        ∀ a, readByte t.mem a = readByte s.mem a) ∧
    (∀ (x : TlbInv) va level glob asid, x.hits va level glob asid =
      if x.sel = 0 then (glob || asid == x.asid) && va >>> pageBits level == x.va >>> pageBits level
      else if x.sel = 1 then !glob && asid == x.asid
      else if x.sel = 2 then !glob
      else true) ∧
    (let x := s.tlbinvs.getD s.sel default
     (s.invDone x = true → exec .tlbinvComplete s = .next { s with
       tlbinvs := s.tlbinvs.modify s.sel fun x => { x with done := true } }) ∧
     (s.invDone x = false → exec .tlbinvComplete s = .next s) ∧
     (∀ n ∈ x.after, (s.flights.getD n default).performed = false → s.invDone x = false)) ∧
    (let r : Ref := ⟨s.sel, s.sel2⟩
     let core := s.coreOf r
     (¬((s.thr r).wait = some .claim ∧ s.accOwned r = true) → exec .accownClaim s = .next s) ∧
     ((s.thr r).wait = some .claim → s.accOwned r = true → core < s.cores.length → ∃ t, exec .accownClaim s = .next t ∧
       (t.core core).owner = (s.team r.team).ctxid ∧ (t.core core).held = false ∧
       (t.core core).ownerTeam = some r.team ∧ (∀ q, q.team = r.team → s.coreOf q = core → t.accOwned q = false) ∧
       (∀ k, k < (s.team r.team).halves.length → (s.half r.team k).core = core →
         (t.half r.team k).tiles.length = (s.half r.team k).tiles.length ∧
         ∀ (j : Nat) x p, (s.half r.team k).tiles[j]? = some x → (s.half r.team k).accTiles[j]? = some p →
           (t.half r.team k).tiles[j]? =
             some (if (s.half r.team k).displaced = true ∨ p ∈ s.heldPos core then Tile.start else x)) ∧
       (∀ n k, n ≠ r.team → (t.half n k).tiles = (s.half n k).tiles ∧ (t.half n k).vit = (s.half n k).vit ∧
         (t.half n k).knots = (s.half n k).knots) ∧
       (∀ q, t.thr q = s.thr q) ∧ ∀ a, readByte t.mem a = readByte s.mem a))

/-- R143, R401, R405, R422 to R424, R427, R383: what the host and a peer do: QTAIL, device registers, HBM4E through BAR2, the
MSI-X table, the debug window of a halted team; a disabled queue is reset once its launches have retired; a function level
reset ends every launch, disables every queue and clears the interrupt registers. -/
def Obligations.OutsideAccesses : Prop :=
  ∀ (s : State) (q : BitVec 8) (v : BitVec 32) (w : BitVec 64) (x : BitVec 128) (bar : BitVec 3) (off size p : Nat)
      (wr : Bool) (d : BitVec 1),
    let k := s.queue q.toNat
    let tail : Host.Outcome State Fault Refusal := .next (s.modQueue q.toNat fun y => { y with tail := v })
    (k.en = true → (v - k.head).toNat ≤ 2 ^ k.logsz.toNat → exec (.qtailWrite q v) s = tail) ∧
    ((k.en = false ∨ 2 ^ k.logsz.toNat < (v - k.head).toNat) → exec (.qtailWrite q v) s = .next s) ∧
    (let a := deviceBase + 64 * q.toNat + 0x14
     exec (.registerWrite (BitVec.ofNat 48 a) 4 (v.setWidth 64)) s = exec (.qtailWrite q v) s ∧
     exec (.hostAccess 0 true (a - deviceBase) 4 (v.setWidth 128)) s = exec (.qtailWrite q v) s) ∧
    (exec (.registerWrite (BitVec.ofNat 48 (deviceBase + 0x160000 + 0x100 * d.toNat)) 4 (v.setWidth 64)) s =
      .next (s.modDie d.toNat fun y => { y with intcause := y.intcause &&& ~~~v })) ∧
    (∀ o, o % 8 = 0 → o < 0x10000000000 → dbgDataAt o = none → exec (.hostAccess 0 false o 8 x) s =
      .next { s with hostReply := { ok := true, value := (s.devWord o).setWidth 128 } }) ∧
    (0 < size → size ≤ 16 → off % 128 + size ≤ 128 → off + size ≤ 0x6000000000 → s.homesOpen = true → s.lineHeld off off = false →
      s.lineHeld (off + size - 1) (off + size - 1) = false → s.reaches off = true →
      (Memory.wf s.mem = true → ∃ t, exec (.hostAccess 2 true off size x) s = .next t ∧ ∀ a, readByte t.mem a =
        if off ≤ a ∧ a < off + size then x.extractLsb' (8 * (a - off)) 8 else readByte s.mem a) ∧
      ((∀ a, off ≤ a → a < off + size → a ∉ s.poison) → ∃ t, exec (.hostAccess 2 false off size x) s = .next t ∧
        t.hostReply = { ok := true, value := BitVec.ofNat 128 (readLe s.mem off size) } ∧ t.mem = s.mem ∧
        t.teams = s.teams)) ∧
    (off + size ≤ 0x200 → exec (.hostAccess 4 true off size x) s =
      .next { s with msix := writeBytes s.msix off (leBytes size x.toNat) }) ∧
    (off + size ≤ 0x10000 → exec (.hostAccess 4 false off size x) s =
      .next { s with hostReply := { ok := true, value := BitVec.ofNat 128 (readLe s.msix off size) } }) ∧
    (bar ∉ [0#3, 2#3, 4#3] → exec (.hostAccess bar wr off size x) s = .next { s with hostReply := { ok := false, value := 0 } }) ∧
    (∀ a : BitVec 48, (p < 16 → a.toNat + size ≤ 0x6000000000 →
        exec (.peerAccess p wr a size x) s = exec (.hostAccess 2 wr a.toNat size x) s) ∧
      ((16 ≤ p ∨ 0x6000000000 < a.toNat + size) → ∃ t, exec (.peerAccess p wr a size x) s = .next t ∧
        t.hostReply = (if wr then s.hostReply else { ok := false, value := 0 }) ∧ ∀ b, readByte t.mem b = readByte s.mem b)) ∧
    ((s.dbgItem s.sel = none → exec .dbgdataRead s = .next { s with hostReply := { ok := true, value := 0 } }) ∧
      (s.dbgItem d.toNat = none → exec (.dbgdataWrite d w) s = .next (s.modDie d.toNat fun y => { y with wrej := true })) ∧
      (∀ r it, s.dbgItem s.sel = some (r, it) → exec .dbgdataRead s = .next { s.modDie s.sel (fun y => { y with
        dbgaux := it.aux }) with hostReply := { ok := true, value := it.val.setWidth 128 } }) ∧
      (∀ r it, s.dbgItem d.toNat = some (r, it) → let u := s.thr r; let y := s.die d.toNat
        (y.dbgSpace = 0 → u.ctl = false → let tag : Tag := y.dbgaux.extractLsb' 0 4
          (tag.toNat < 14 → exec (.dbgdataWrite d w) s = .next (s.modThr r fun t =>
            t.setReg y.dbgIndex { val := if tag = tagPOISON then 0 else w &&& 0xFFFFFFFF, tag := tag })) ∧
          (14 ≤ tag.toNat → exec (.dbgdataWrite d w) s = .next (s.modDie d.toNat fun y => { y with wrej := true }))) ∧
        (y.dbgSpace = 2 → s.has r → ∃ t, exec (.dbgdataWrite d w) s = .next t ∧ (t.thr r).pc = w ∧
          (t.thr r).cm = (!u.ctl && y.dbgaux.getLsbD 4) ∧ (∀ q, (t.thr q).regs = (s.thr q).regs) ∧
          (∀ q, q ≠ r → (t.thr q).pc = (s.thr q).pc) ∧ ∀ a, readByte t.mem a = readByte s.mem a) ∧
        (4 ≤ y.dbgSpace → exec (.dbgdataWrite d w) s = .next (s.modDie d.toNat fun y => { y with wrej := true })))) ∧
    (let y := s.queue s.sel
     (y.destroying = true → (∀ l ∈ s.launches, l.queue = s.sel → l.status = .retired) → s.sel < s.queues.length →
       ∃ t, exec .queueDisable s = .next t ∧ (t.queue s.sel).en = false ∧ (t.queue s.sel).stopped = false ∧
         (t.queue s.sel).head = y.tail ∧ ∀ n, n ≠ s.sel → t.queue n = s.queue n) ∧
     ((∃ l ∈ s.launches, l.queue = s.sel ∧ l.status ≠ .retired) → exec .queueDisable s = .next s)) ∧
    (∃ t, exec .functionLevelReset s = .next t ∧
      (∀ n l, s.launches[n]? = some l → l.status ≠ .ending → l.status ≠ .retired →
        (t.launches.getD n default).status = .ending ∧ (t.launches.getD n default).code = 0x24) ∧
      (∀ y ∈ t.queues, y.en = false) ∧ (∀ y ∈ t.dies, y.intcause = 0 ∧ y.intmask = 0) ∧
      ∀ a, readByte t.mem a = readByte s.mem a)

namespace Sys2Proof.Machine

/-- A grant of four ratios in 4 to 16 whose power is within a budget in 256ths of a watt (R217). -/
def permitted (d : Die) (b : Int) (g : List Nat) : Prop :=
  g.length = 4 ∧ (∀ x ∈ g, 4 ≤ x ∧ x ≤ 16) ∧ 256 * (d.power g : Int) ≤ b

end Sys2Proof.Machine

/-- R216 to R219, R437, R439, R440: measurements and the thermal limit are noted; BELFRYCFG takes a value in its ranges; the
belfry grants the permitted set nearest the request, ties by the higher sum and then by the higher ratios in order, and 4/16
where none is permitted; a die that is hot or has no resident launch is budgeted at its power at 4/16; a grant in effect gives
each team resident on the die its notices. -/
def Obligations.PowerControl : Prop :=
  ∀ (s : State) (v : BitVec 32) (n x y : Nat) (a b : List Nat) (d : BitVec 1) (hot : Bool),
    (∃ t, exec (.powerMeasurement n x y a b) s = .next t ∧ t.pnow.toNat = min 4095 n ∧ t.capw = s.capw ∧
      (1 < s.dies.length → (t.die 0).sPower = x ∧ (t.die 0).aPower = a ∧ (t.die 1).sPower = y ∧ (t.die 1).aPower = b) ∧
      (∀ k, (t.die k).grant = (s.die k).grant) ∧ t.teams = s.teams ∧ t.mem = s.mem) ∧
    (exec (.thermalLimit d hot) s = .next (s.modDie d.toNat fun k => { k with hot := hot })) ∧
    (let sh := (v.extractLsb' 0 8).toNat
     let cw := (v.extractLsb' 8 12).toNat
     let good : Prop := v.extractLsb' 20 12 = 0 ∧ 32 ≤ sh ∧ sh ≤ 224 ∧ 600 ≤ cw ∧ cw ≤ 2400
     let same : Prop := v.extractLsb' 0 8 = s.share0 ∧ v.extractLsb' 8 12 = s.capw
     (good → ¬same → exec (.belfrycfgWrite v) s =
       .next (State.evaluate { s with share0 := v.extractLsb' 0 8, capw := v.extractLsb' 8 12 })) ∧
     ((¬good ∨ same) → exec (.belfrycfgWrite v) s = .next s)) ∧
    (∃ t, exec .belfryEvaluation s = .next t ∧ t.capw = s.capw ∧ t.teams = s.teams ∧ t.mem = s.mem ∧
      ∀ k, k < 2 → k < s.dies.length → (t.die k).grant = (s.die k).grant ∧ (t.die k).newGrant =
        let g := ratioWord ((bestGrant (s.die k) (s.budget k) (s.requestOf k).1 (s.requestOf k).2).getD [4, 4, 4, 4])
        if g = (s.die k).grant then none else some g) ∧
    (∀ (k : Die) (w : Int) q c,
      (∀ g, bestGrant k w q c = some g → permitted k w g ∧ ∀ h, permitted k w h →
        grantCost q c g < grantCost q c h ∨ (grantCost q c g = grantCost q c h ∧ (ratioSum h < ratioSum g ∨
          (ratioSum h = ratioSum g ∧ (g = h ∨ h < g))))) ∧
      (bestGrant k w q c = none → ∀ h, ¬permitted k w h)) ∧
    (∀ k, ((s.die k).hot = true ∨ (∀ t ∈ s.teams, t.onCore = true → t.die ≠ k)) →
      s.budget k = 256 * ((s.die k).power [4, 4, 4, 4] : Int)) ∧
    (s.lowBudget 0 = false → s.lowBudget 1 = false → s.governClass 0 = s.governClass 1 →
      s.budget 0 = (s.capw.toNat * s.share0.toNat : Nat) ∧ s.budget 0 + s.budget 1 = (256 * s.capw.toNat : Nat)) ∧
    ((s.capw.toNat < s.pnow.toNat → exec .powerOverCap s = .next (State.evaluate { s with overCap := true })) ∧
      (s.pnow.toNat ≤ s.capw.toNat → exec .powerOverCap s = .next s)) ∧
    (((s.die s.sel).newGrant = none → exec .grantChange s = .next s) ∧
      ∀ g, (s.die s.sel).newGrant = some g → s.sel < s.dies.length → ∃ t, exec .grantChange s = .next t ∧
        (t.die s.sel).grant = g ∧ (t.die s.sel).newGrant = none ∧ t.mem = s.mem ∧
        ∀ m, (if m < s.teams.length ∧ (s.team m).onCore = true ∧ (s.team m).die = s.sel then
            (t.team m).clkcnt = (s.team m).clkcnt + 1 ∧ (t.team m).tflags = (s.team m).tflags ||| 0x80000000
          else t.team m = s.team m) ∧
          ∀ q, (t.thr ⟨m, q⟩).regs = (s.thr ⟨m, q⟩).regs ∧ (t.thr ⟨m, q⟩).pc = (s.thr ⟨m, q⟩).pc)

/-- R88, R89: a spire that powers down leaves the live set and one that powers up joins it, but for slices in bypass; no byte
of memory changes; accesses to the die's lines are held until every change of the die is done, when BUSY clears. -/
def Obligations.SpirePower : Prop :=
  ∀ (s : State), s.sel < s.dies.length → s.sel2 < 8 →
    let on (t : State) (k : Nat) : Bool := (t.die s.sel).live.getLsbD k
    let calm (t : State) : Prop := t.mem = s.mem ∧ t.flights = s.flights ∧ ∀ r, (t.thr r).regs = (s.thr r).regs
    (((s.sel, s.sel2, false) ∈ s.spireChange → ∃ t, exec .spirePowerDown s = .next t ∧ calm t ∧ t.spireHeld s.sel = true ∧
        ∀ k, k < 32 → on t k = (on s k && !decide (k / 4 = s.sel2))) ∧
      ((s.sel, s.sel2, false) ∉ s.spireChange → exec .spirePowerDown s = .next s)) ∧
    (((s.sel, s.sel2, true) ∈ s.spireChange → ∃ t, exec .spirePowerUp s = .next t ∧ calm t ∧ t.spireHeld s.sel = true ∧
        ∀ k, k < 32 → on t k = (on s k || (decide (k / 4 = s.sel2) && !(s.die s.sel).bypass.getLsbD k))) ∧
      ((s.sel, s.sel2, true) ∉ s.spireChange → exec .spirePowerUp s = .next s)) ∧
    ((∀ x ∈ s.spireChange, x.1 = s.sel → x.2.1 = 8) → ∃ t, exec .spirePowerDone s = .next t ∧ calm t ∧
      (t.die s.sel).busy = false ∧ t.spireHeld s.sel = false ∧ ∀ k, on t k = on s k) ∧
    ((∃ x ∈ s.spireChange, x.1 = s.sel ∧ x.2.1 ≠ 8) → exec .spirePowerDone s = .next s)

/-- R117, R430 to R433: a doorbell queues the descriptor that it names, in its turn or to send ABORT where it fails the limits;
a reduction ends OK with its sum stored when every member has contributed, ABORT when any aborts, INCOMPLETE when its time has
run; its counter and status word are written and nothing else. -/
def Obligations.ReductionEvents : Prop :=
  ∀ (s : State) (d : BitVec 1) (va : BitVec 64),
    let sp : Space16 := { asid := (s.team s.sel).xasid.setWidth 16, root := (s.team s.sel).xroot }
    ((16 ≤ (s.redq.filter fun k => k.live && k.die == d.toNat).length ∨ s.teams.length ≤ s.sel ∨ s.homesOpen = false) →
      exec (.reductionDoorbell d va) s = .next s) ∧
    (∀ s1 bs, s.sel < s.teams.length → s.homesOpen = true → (s.redq.filter fun k => k.live && k.die == d.toNat).length < 16 →
      s.agentLoad d.toNat sp va 64 = (s1, .ok bs) → va.toNat % 64 = 0 → (∀ b ∈ bs, b.2 = false) →
      ∃ t k, exec (.reductionDoorbell d va) s = .next t ∧ t.redq = s1.redq ++ [k] ∧ t.mem = s1.mem ∧
        (let at_ (o n : Nat) : Nat := ofLe (((bs.map (·.1)).drop o).take n)
         k.live = true ∧ k.die = d.toNat ∧ k.src = BitVec.ofNat 64 (at_ 0 8) ∧ k.dst = BitVec.ofNat 64 (at_ 8 8) ∧
         k.ctr = BitVec.ofNat 64 (at_ 16 8) ∧ k.len = at_ 24 4 ∧ k.fmt = BitVec.ofNat 8 (at_ 28 1) ∧ k.group = at_ 29 1 ∧
         k.members = BitVec.ofNat 16 (at_ 30 2) ∧ k.seq = BitVec.ofNat 32 (at_ 32 4) ∧ k.timeout = at_ 36 4 ∧
         (k.abort = false ↔ k.src.toNat % 256 = 0 ∧ k.dst.toNat % 256 = 0 ∧ k.ctr.toNat % 16 = 0 ∧ 256 ≤ k.len ∧
           k.len ≤ 67108864 ∧ k.len % 256 = 0 ∧ k.fmt ∈ [1#8, 2#8, 4#8, 5#8] ∧ k.group < 64 ∧
           k.members.getLsbD s.fid = true ∧ k.seq = s1.nextSeq k.group ∧ ∀ b ∈ (bs.map (·.1)).drop 40, b = 0) ∧
         (k.seq = s1.nextSeq k.group → t.nextSeq k.group = k.seq + 1))) ∧
    (let x := s.redq.getD s.sel default
     let first : Prop := x.live = true ∧ s.redFirst s.sel = true ∧ s.homesOpen = true
     (¬first → exec .reductionEnd s = .next s ∧ exec .reductionTimeout s = .next s) ∧
     (first → (x.abort = true ∨ ∃ j, j < 16 ∧ 4096 * j < x.len ∧ s.linkLive j = false) →
       exec .reductionEnd s = .next (s.redDone s.sel 1)) ∧
     (∀ s1 own, first → s.redOwn x = (s1, some own) →
       let parts := s.contributions.filter fun c => c.group == x.group && c.seq == x.seq
       let bad (c : Contribution) : Prop := c.abort = true ∨ c.len ≠ x.len ∨ c.fmt ≠ x.fmt ∨ c.members ≠ x.members
       ((∃ c ∈ parts, bad c) → exec .reductionEnd s = .next (s1.redDone s.sel 1)) ∧
       ((∀ c ∈ parts, ¬bad c) → (∃ p, p < 16 ∧ x.members.getLsbD p = true ∧ p ≠ s.fid ∧ ∀ c ∈ parts, c.member ≠ p) →
         exec .reductionEnd s = .next s) ∧
       (∀ f, redFmt x.fmt = some f → (∀ c ∈ parts, ¬bad c) →
         (∀ p, p < 16 → x.members.getLsbD p = true → p ≠ s.fid → ∃ c ∈ parts, c.member = p) →
         exec .reductionEnd s = .next (((s1.agentStore x.die { asid := x.asid, root := x.root } false x.dst
           (redSum f x.len (s.redPayloads x own))).1).redDone s.sel 0))) ∧
     (first → s.redSince x + 1000 * (if x.timeout = 0 then 2000 else x.timeout) ≤ s.gtime →
       exec .reductionTimeout s = .next (s.redDone s.sel 2)) ∧
     (first → s.gtime < s.redSince x + 1000 * (if x.timeout = 0 then 2000 else x.timeout) →
       exec .reductionTimeout s = .next s)) ∧
    (∀ n code, n < s.redq.length → let x := s.redq.getD n default
      x.ctr = 0 → let t := s.redDone n code
        (t.redq.getD n default).live = false ∧ (∀ c ∈ t.contributions, c.group = x.group → c.seq ≠ x.seq) ∧
          t.mem = s.mem ∧ (x.die < s.dies.length → code ≠ 0 → (t.die x.die).intcause.getLsbD 4 = true)) ∧
    (∀ (f : Fmt) len (ps : List (List Byte)) k, 8 ≤ f.width → (k + 1) * (f.width / 8) ≤ len →
      payloadElem f (redSum f len ps) k = redElem f (ps.map fun p => payloadElem f p k) % 2 ^ (8 * (f.width / 8)))

/-- R81 to R84, R407, R417, R426, R429, R434 to R438, R441: router, gallery and link failures, self-tests, scrubbing, the
curator's restarts, the archive, and what a module reset and a loss of power leave. (That HBM4E reads zero afterwards is the
model's choice, log 1.) -/
def Obligations.FailuresAndReliability : Prop :=
  ∀ (s : State) (die : BitVec 1) (router : BitVec 5) (gallery link : BitVec 4) (bit : BitVec 6) (up ok : Bool),
    let d := die.toNat
    let k := router.toNat
    let ends (t : State) (l : Nat) : Prop := l < s.launches.length → (t.launches.getD l default).status ∈ [.ending, .retired]
    (((s.die d).bypass.getLsbD k = true → exec (.routerFailure die router) s = .next s) ∧
      (d < s.dies.length → (s.die d).bypass.getLsbD k = false → (s.die d).live.getLsbD k = true →
        ∃ t, exec (.routerFailure die router) s = .next t ∧
          (∀ n, n < 32 → (t.die d).live.getLsbD n = ((s.die d).live.getLsbD n && !decide (n = k)) ∧
            (t.die d).bypass.getLsbD n = ((s.die d).bypass.getLsbD n || decide (n = k))) ∧
          (t.die d).errcnt = (s.die d).errcnt + 1 ∧ (∀ l, s.launchResident l = true → ends t l) ∧
          (∀ x ∈ t.l2, x ∈ s.l2 ∧ ¬(x.die = d ∧ x.slice = k)) ∧
          (Memory.wf s.mem = true → ∀ a, (∀ x ∈ s.l2, x.die = d → x.slice = k → x.dirty.isSome = true →
            ∀ old, x.dirty = some old → a < x.line ∨ x.line + old.length ≤ a) → readByte t.mem a = readByte s.mem a) ∧
          (Memory.wf s.mem = true → ∀ x old, s.l2.filter (fun y => y.die == d && y.slice == k) = [x] → x.dirty = some old →
            ∀ a, a < old.length → readByte t.mem (x.line + a) = old.getD a 0))) ∧
    (let g := gallery.toNat
     ∃ t, exec (.galleryFailure gallery) s = .next t ∧ t.ready.getLsbD (16 + g) = false ∧
       (∀ n, n ≠ 16 + g → t.ready.getLsbD n = s.ready.getLsbD n) ∧
       (∀ n, (s.team n).inGallery g = true → n < s.teams.length → (t.team n).status = .retired ∧
         (∀ u ∈ (t.team n).threads, u.exited = true) ∧ ends t (s.team n).launch) ∧
       (g / 8 < s.dies.length → (t.die (g / 8)).errcnt = (s.die (g / 8)).errcnt + 1) ∧
       ∀ a, readByte t.mem a = readByte s.mem a) ∧
    (let b := 16 + link.toNat
     (s.fabcfg.getLsbD b = up → exec (.fabricLinkChange link up) s = .next s) ∧
     (s.fabcfg.getLsbD b = !up → ∃ t, exec (.fabricLinkChange link up) s = .next t ∧
       (∀ n, n < 32 → t.fabcfg.getLsbD n = if n = b then up else s.fabcfg.getLsbD n) ∧ t.teams = s.teams ∧
       (link.toNat / 8 < s.dies.length → (t.die (link.toNat / 8)).intcause.getLsbD 3 = true) ∧
       ∀ a, readByte t.mem a = readByte s.mem a)) ∧
    (exec .flitReplay s = .next s) ∧
    (∃ t, exec .scrubPass s = .next t ∧ t.latent = s.latent.filter (fun x => channelOf x.1 != s.sel) ∧
      t.mem = s.mem ∧ t.poison = s.poison ∧ t.teams = s.teams ∧
      ((∀ x ∈ s.latent, channelOf x.1 ≠ s.sel) → t = s) ∧
      (∀ a q, stackOf a / 4 = q → q < s.dies.length → s.latent.filter (fun x => channelOf x.1 == s.sel) = [(a, false)] →
        (t.die q).errcnt = (s.die q).errcnt + 1)) ∧
    (let n := bit.toNat
     let done : Prop := 31 < n ∨ n = 14 ∨ n = 15 ∨ s.ready.getLsbD n = true ∨ s.failed.getLsbD n = true
     let bringUp : Prop := 31 < n ∧ ok = false ∧ s.ready.getLsbD 0 = false ∧ s.sel < 2
     (bringUp → (s.die s.sel).bypass.getLsbD (n - 32) = false → s.sel < s.dies.length →
       ∃ t, exec (.selfTestComplete bit ok) s = .next t ∧ t.teams = s.teams ∧ t.ready = s.ready ∧ t.failed = s.failed ∧
         ∀ j, j < 32 → (t.die s.sel).live.getLsbD j = ((s.die s.sel).live.getLsbD j && !decide (j = n - 32)) ∧
           (t.die s.sel).bypass.getLsbD j = ((s.die s.sel).bypass.getLsbD j || decide (j = n - 32))) ∧
     (bringUp → (s.die s.sel).bypass.getLsbD (n - 32) = true → exec (.selfTestComplete bit ok) s = .next s) ∧
     (done → ¬bringUp → exec (.selfTestComplete bit ok) s = .next s) ∧
     (¬done → ok = true → (n = 0 → s.curator.running.isSome = true) → exec (.selfTestComplete bit ok) s =
       .next { s with ready := s.ready ||| BitVec.ofNat 64 (2 ^ n) }) ∧
     (¬done → (ok = false ∨ (n = 0 ∧ s.curator.running = none)) → ∃ t, exec (.selfTestComplete bit ok) s = .next t ∧
       t.failed = s.failed ||| BitVec.ofNat 64 (2 ^ n) ∧ t.ready = s.ready ∧ t.teams = s.teams ∧ t.mem = s.mem)) ∧
    ((∃ t, exec .moduleReset s = .next t ∧ t.teams = [] ∧ t.launches = [] ∧ t.archiveCommitted = s.archiveCommitted ∧
        (s.archive.Pairwise (fun x y => x.1 < y.1) → archiveGet s.archive 0x508 < 2 ^ 64 - 1 →
           archiveGet t.archive 0x508 = archiveGet s.archive 0x508 + 1) ∧
        (Memory.wf s.mem = true → ∀ a, readByte t.mem a = if spaceOf a = .hbm then 0 else readByte s.mem a)) ∧
      (∃ t, exec .orderlyPowerDown s = .next t ∧ t.teams = [] ∧ t.archive = s.archive ∧ t.archiveCommitted = s.archive) ∧
      (∃ t, exec .powerLoss s = .next t ∧ t.teams = [] ∧ t.archive = s.archiveCommitted ∧
        t.archiveCommitted = s.archiveCommitted) ∧
      exec .archiveCommit s = .next { s with archiveCommitted := s.archive }) ∧
    (let c := s.curator
     (c.restarting = false → exec .curatorRestartComplete s = .next s) ∧
     (c.restarting = true → ∃ t, exec .curatorRestartComplete s = .next t ∧ t.curator = { c with restarting := false } ∧
       (∀ q, q < 2 → q < s.dies.length → (t.die q).intcause.getLsbD 5 = true) ∧ t.teams = s.teams ∧ t.mem = s.mem) ∧
     (c.running = none → exec .curatorMemoryError s = .next s) ∧
     (∀ n, c.running = some n → ∃ t, exec .curatorMemoryError s = .next t ∧ t.curator = { c with restarting := true } ∧
       (0 < s.dies.length → (t.die 0).errcnt = (s.die 0).errcnt + 1) ∧ t.teams = s.teams ∧ t.mem = s.mem))

/-! ## Fetching, decoding, reset (R5, R29, R76, R182, R222, R232 to R234) -/

/-- R29, R76, R181, R182: a step issues a bundle of the core cycle in progress: of its threads those that are still ready,
whose word, fetched at their PC from a line of their core's instruction cache at the translated address, is decoded; the step is
that instruction's. When no bundle is left the cycle ends. With no cycle in progress the step is the next event. -/
def Obligations.StepRunsDecoded : Prop :=
  ∀ (s : State),
    (∀ u b bs, s.issue = some u → u.todo = b :: bs →
      let go := s.bySlot (s.stillReady b)
      let y : State := { go.foldl (fun x r => x.modThr r fun t => { t with age := 0 }) s with
        cur := go, issue := some { u with todo := bs } }
      (∀ r ∈ go, r ∈ b ∧ s.threadReady r = true) ∧ (go = [] → step s = .next y) ∧
      (∀ r rs w i, go = r :: rs → y.fetch r = .word w → decode w = .ok i → step s = exec i y)) ∧
    (∀ u, s.issue = some u → u.todo = [] → ∃ t, step s = .next t ∧ t.issue = none ∧ t.cur = [] ∧ t.mem = s.mem ∧
      t.cmds = s.cmds) ∧
    (∀ r l pa x w, (s.thr r).wordPc.toNat % 4 = 0 → s.transPart r (s.thr r).wordPc 4 { ex := true } 4 = .ok l pa →
      s.icache.find? (fun x => x.core == s.coreOf r && x.line == lineOf (imageAddr l.plinth pa)) = some x →
      (∀ k, k < 4 → imageAddr l.plinth pa + k ∉ x.bad) →
      (x.data.drop (imageAddr l.plinth pa - x.line)).take 4 = wordBytes w → s.fetch r = .word w) ∧
    (∀ i a b as, s.issue = none → s.agenda = .event i a b :: as →
      step s = exec i { s with agenda := as, sel := a, sel2 := b }) ∧
    (s.issue = none → s.agenda = [] → ∃ t, step s = .next t ∧ t.sel = 0 ∧ t.sel2 = 0)

/-- R222, R232 to R234: words written out from the encoding tables, and the instructions that they are. -/
def Obligations.DecodedWords : Prop :=
  ∀ p ∈ ([(0x040A30E5, .idiv 0 5 6 7), (0x301457A3, .aaddu 0 10 10 61), (0x341457F0, .aaddi 0 10 10 0x7F0),
      (0xEC140280, .srd 0 10 0x14), (0xEC0000A3, .trap 0 5), (0xEC000024, .brkpt 0 1), (0xF00C0010, .csrr 0 6 0x010),
      (0xF0005020, .csrw 0 10 0x020), (0xF4000000, .eret 0), (0xF4000001, .halt 0), (0x00000000, .unassignedEncoding 0),
      (0xFC000007, .hwide 7)] : List (Word × Instr)), decode p.1 = .ok p.2

/-- R5, R222, R232 to R234: decoding the bytes of a well-formed instruction's word gives the instruction and the bytes after
the word, with every operand at every value that the encoding admits; and a word that decodes to an instruction is the word
of that instruction, which is well formed. -/
def Obligations.DecodeEncode : Prop :=
  (∀ i rest, i.wellFormed = true → (encode i ≠ 0 ∨ i = .unassignedEncoding 0) →
    decodeBytes (wordBytes (encode i) ++ rest) = .ok (i, rest)) ∧
  (∀ w i, decode w = .ok i → i.wellFormed = true ∧ encode i = w)

/-- R88, R92, R166, R401, R424, R426, R436, R439, R441: what a module reset leaves in the registers whose reset values the
manual gives; no team, launch, mapping or access is held, and memory is in its canonical form. (That no byte is listed, and
that an unlisted byte reads zero, is the model's choice, log 1.) -/
def Obligations.ResetState : Prop :=
  let s := State.reset
  (∀ d, d < 2 → (s.die d).live = 0xFFFFFFFF ∧ (s.die d).bypass = 0 ∧ (s.die d).off = 0 ∧ (s.die d).busy = false ∧
    (s.die d).gways = 12 ∧ (s.die d).grant = 0x04040404 ∧ (s.die d).intcause = 0 ∧ (s.die d).intmask = 0 ∧
    (s.die d).errcnt = 0) ∧
  (∀ n, n < 8 → (s.hbmStacks.getD n default).rate = 32 ∧ (s.hbmStacks.getD n default).burst = 16 ∧
    (s.hbmStacks.getD n default).borrow = true) ∧
  (∀ q, q < 256 → (s.queue q).en = false ∧ (s.queue q).head = 0 ∧ (s.queue q).tail = 0) ∧
  (s.quotas.getD 0 default = { bar := 64, cbar := 16, gbar := 8, ring := 8, mon := 64, cwait := 256 } ∧
    ∀ n, 0 < n → n < 16 → s.quotas.getD n default = { bar := 0, cbar := 0, gbar := 0, ring := 0, mon := 0, cwait := 0 }) ∧
  (∀ c, c < 256 → (s.core c).owner = 0 ∧ (s.core c).held = false ∧ (s.core c).ccount16 = 0) ∧
  s.share0 = 128 ∧ s.capw = 2400 ∧ s.pnow = 0 ∧ s.overCap = false ∧ s.fabcfg = 0 ∧ s.ready = 0 ∧ s.gtime = 0 ∧
  s.teams = [] ∧ s.launches = [] ∧ s.flights = [] ∧ s.cmds = [] ∧ s.engine = [] ∧ s.tlb = [] ∧ Memory.wf s.mem = true

/-- The memory keeps its canonical form in every step, from every state that has it: addresses rise strictly and no byte equal
to what an unlisted address reads as is listed (log 1). -/
def Obligations.MemoryStaysCanonical : Prop :=
  ∀ (s t : State), Memory.wf s.mem = true → step s = .next t → Memory.wf t.mem = true
end

