-- ==== Sys2Proof/Laws/State.lean ====
section
/-! SUPPORT. What each field of the state is after each update of one thing: one lemma per field per update. -/

namespace Sys2Proof.Machine

open Sys2Proof

section modTeam
variable (s : State) (t : Nat) (f : Team → Team)
@[simp] theorem State.modTeam_teams : (s.modTeam t f).teams = s.teams.modify t f := rfl
@[simp] theorem State.modTeam_launches : (s.modTeam t f).launches = s.launches := rfl
@[simp] theorem State.modTeam_gangs : (s.modTeam t f).gangs = s.gangs := rfl
@[simp] theorem State.modTeam_queues : (s.modTeam t f).queues = s.queues := rfl
@[simp] theorem State.modTeam_cores : (s.modTeam t f).cores = s.cores := rfl
@[simp] theorem State.modTeam_dies : (s.modTeam t f).dies = s.dies := rfl
@[simp] theorem State.modTeam_hbmStacks : (s.modTeam t f).hbmStacks = s.hbmStacks := rfl
@[simp] theorem State.modTeam_quotas : (s.modTeam t f).quotas = s.quotas := rfl
@[simp] theorem State.modTeam_mem : (s.modTeam t f).mem = s.mem := rfl
@[simp] theorem State.modTeam_poison : (s.modTeam t f).poison = s.poison := rfl
@[simp] theorem State.modTeam_latent : (s.modTeam t f).latent = s.latent := rfl
@[simp] theorem State.modTeam_l1 : (s.modTeam t f).l1 = s.l1 := rfl
@[simp] theorem State.modTeam_icache : (s.modTeam t f).icache = s.icache := rfl
@[simp] theorem State.modTeam_l2 : (s.modTeam t f).l2 = s.l2 := rfl
@[simp] theorem State.modTeam_tlb : (s.modTeam t f).tlb = s.tlb := rfl
@[simp] theorem State.modTeam_walkCache : (s.modTeam t f).walkCache = s.walkCache := rfl
@[simp] theorem State.modTeam_flights : (s.modTeam t f).flights = s.flights := rfl
@[simp] theorem State.modTeam_ports : (s.modTeam t f).ports = s.ports := rfl
@[simp] theorem State.modTeam_hbmq : (s.modTeam t f).hbmq = s.hbmq := rfl
@[simp] theorem State.modTeam_monitors : (s.modTeam t f).monitors = s.monitors := rfl
@[simp] theorem State.modTeam_reservedLines : (s.modTeam t f).reservedLines = s.reservedLines := rfl
@[simp] theorem State.modTeam_spireChange : (s.modTeam t f).spireChange = s.spireChange := rfl
@[simp] theorem State.modTeam_cmds : (s.modTeam t f).cmds = s.cmds := rfl
@[simp] theorem State.modTeam_engine : (s.modTeam t f).engine = s.engine := rfl
@[simp] theorem State.modTeam_slotReads : (s.modTeam t f).slotReads = s.slotReads := rfl
@[simp] theorem State.modTeam_messages : (s.modTeam t f).messages = s.messages := rfl
@[simp] theorem State.modTeam_rings : (s.modTeam t f).rings = s.rings := rfl
@[simp] theorem State.modTeam_tlbinvs : (s.modTeam t f).tlbinvs = s.tlbinvs := rfl
@[simp] theorem State.modTeam_zeroing : (s.modTeam t f).zeroing = s.zeroing := rfl
@[simp] theorem State.modTeam_npart : (s.modTeam t f).npart = s.npart := rfl
@[simp] theorem State.modTeam_curator : (s.modTeam t f).curator = s.curator := rfl
@[simp] theorem State.modTeam_share0 : (s.modTeam t f).share0 = s.share0 := rfl
@[simp] theorem State.modTeam_capw : (s.modTeam t f).capw = s.capw := rfl
@[simp] theorem State.modTeam_pnow : (s.modTeam t f).pnow = s.pnow := rfl
@[simp] theorem State.modTeam_bud0 : (s.modTeam t f).bud0 = s.bud0 := rfl
@[simp] theorem State.modTeam_bud1 : (s.modTeam t f).bud1 = s.bud1 := rfl
@[simp] theorem State.modTeam_overCap : (s.modTeam t f).overCap = s.overCap := rfl
@[simp] theorem State.modTeam_fabcfg : (s.modTeam t f).fabcfg = s.fabcfg := rfl
@[simp] theorem State.modTeam_redq : (s.modTeam t f).redq = s.redq := rfl
@[simp] theorem State.modTeam_redSeq : (s.modTeam t f).redSeq = s.redSeq := rfl
@[simp] theorem State.modTeam_contributions : (s.modTeam t f).contributions = s.contributions := rfl
@[simp] theorem State.modTeam_archive : (s.modTeam t f).archive = s.archive := rfl
@[simp] theorem State.modTeam_archiveCommitted : (s.modTeam t f).archiveCommitted = s.archiveCommitted := rfl
@[simp] theorem State.modTeam_ready : (s.modTeam t f).ready = s.ready := rfl
@[simp] theorem State.modTeam_failed : (s.modTeam t f).failed = s.failed := rfl
@[simp] theorem State.modTeam_gtime : (s.modTeam t f).gtime = s.gtime := rfl
@[simp] theorem State.modTeam_msix : (s.modTeam t f).msix = s.msix := rfl
@[simp] theorem State.modTeam_vectors : (s.modTeam t f).vectors = s.vectors := rfl
@[simp] theorem State.modTeam_hostReply : (s.modTeam t f).hostReply = s.hostReply := rfl
@[simp] theorem State.modTeam_cur : (s.modTeam t f).cur = s.cur := rfl
@[simp] theorem State.modTeam_issue : (s.modTeam t f).issue = s.issue := rfl
@[simp] theorem State.modTeam_agenda : (s.modTeam t f).agenda = s.agenda := rfl
@[simp] theorem State.modTeam_sel : (s.modTeam t f).sel = s.sel := rfl
@[simp] theorem State.modTeam_sel2 : (s.modTeam t f).sel2 = s.sel2 := rfl
@[simp] theorem State.modTeam_turn : (s.modTeam t f).turn = s.turn := rfl
@[simp] theorem State.modTeam_drawn : (s.modTeam t f).drawn = s.drawn := rfl
@[simp] theorem State.modTeam_stamp : (s.modTeam t f).stamp = s.stamp := rfl
end modTeam

section modThr
variable (s : State) (r : Ref) (f : Thread → Thread)
@[simp] theorem State.modThr_launches : (s.modThr r f).launches = s.launches := rfl
@[simp] theorem State.modThr_gangs : (s.modThr r f).gangs = s.gangs := rfl
@[simp] theorem State.modThr_queues : (s.modThr r f).queues = s.queues := rfl
@[simp] theorem State.modThr_cores : (s.modThr r f).cores = s.cores := rfl
@[simp] theorem State.modThr_dies : (s.modThr r f).dies = s.dies := rfl
@[simp] theorem State.modThr_hbmStacks : (s.modThr r f).hbmStacks = s.hbmStacks := rfl
@[simp] theorem State.modThr_quotas : (s.modThr r f).quotas = s.quotas := rfl
@[simp] theorem State.modThr_mem : (s.modThr r f).mem = s.mem := rfl
@[simp] theorem State.modThr_poison : (s.modThr r f).poison = s.poison := rfl
@[simp] theorem State.modThr_latent : (s.modThr r f).latent = s.latent := rfl
@[simp] theorem State.modThr_l1 : (s.modThr r f).l1 = s.l1 := rfl
@[simp] theorem State.modThr_icache : (s.modThr r f).icache = s.icache := rfl
@[simp] theorem State.modThr_l2 : (s.modThr r f).l2 = s.l2 := rfl
@[simp] theorem State.modThr_tlb : (s.modThr r f).tlb = s.tlb := rfl
@[simp] theorem State.modThr_walkCache : (s.modThr r f).walkCache = s.walkCache := rfl
@[simp] theorem State.modThr_flights : (s.modThr r f).flights = s.flights := rfl
@[simp] theorem State.modThr_ports : (s.modThr r f).ports = s.ports := rfl
@[simp] theorem State.modThr_hbmq : (s.modThr r f).hbmq = s.hbmq := rfl
@[simp] theorem State.modThr_monitors : (s.modThr r f).monitors = s.monitors := rfl
@[simp] theorem State.modThr_reservedLines : (s.modThr r f).reservedLines = s.reservedLines := rfl
@[simp] theorem State.modThr_spireChange : (s.modThr r f).spireChange = s.spireChange := rfl
@[simp] theorem State.modThr_cmds : (s.modThr r f).cmds = s.cmds := rfl
@[simp] theorem State.modThr_engine : (s.modThr r f).engine = s.engine := rfl
@[simp] theorem State.modThr_slotReads : (s.modThr r f).slotReads = s.slotReads := rfl
@[simp] theorem State.modThr_messages : (s.modThr r f).messages = s.messages := rfl
@[simp] theorem State.modThr_rings : (s.modThr r f).rings = s.rings := rfl
@[simp] theorem State.modThr_tlbinvs : (s.modThr r f).tlbinvs = s.tlbinvs := rfl
@[simp] theorem State.modThr_zeroing : (s.modThr r f).zeroing = s.zeroing := rfl
@[simp] theorem State.modThr_npart : (s.modThr r f).npart = s.npart := rfl
@[simp] theorem State.modThr_curator : (s.modThr r f).curator = s.curator := rfl
@[simp] theorem State.modThr_share0 : (s.modThr r f).share0 = s.share0 := rfl
@[simp] theorem State.modThr_capw : (s.modThr r f).capw = s.capw := rfl
@[simp] theorem State.modThr_pnow : (s.modThr r f).pnow = s.pnow := rfl
@[simp] theorem State.modThr_bud0 : (s.modThr r f).bud0 = s.bud0 := rfl
@[simp] theorem State.modThr_bud1 : (s.modThr r f).bud1 = s.bud1 := rfl
@[simp] theorem State.modThr_overCap : (s.modThr r f).overCap = s.overCap := rfl
@[simp] theorem State.modThr_fabcfg : (s.modThr r f).fabcfg = s.fabcfg := rfl
@[simp] theorem State.modThr_redq : (s.modThr r f).redq = s.redq := rfl
@[simp] theorem State.modThr_redSeq : (s.modThr r f).redSeq = s.redSeq := rfl
@[simp] theorem State.modThr_contributions : (s.modThr r f).contributions = s.contributions := rfl
@[simp] theorem State.modThr_archive : (s.modThr r f).archive = s.archive := rfl
@[simp] theorem State.modThr_archiveCommitted : (s.modThr r f).archiveCommitted = s.archiveCommitted := rfl
@[simp] theorem State.modThr_ready : (s.modThr r f).ready = s.ready := rfl
@[simp] theorem State.modThr_failed : (s.modThr r f).failed = s.failed := rfl
@[simp] theorem State.modThr_gtime : (s.modThr r f).gtime = s.gtime := rfl
@[simp] theorem State.modThr_msix : (s.modThr r f).msix = s.msix := rfl
@[simp] theorem State.modThr_vectors : (s.modThr r f).vectors = s.vectors := rfl
@[simp] theorem State.modThr_hostReply : (s.modThr r f).hostReply = s.hostReply := rfl
@[simp] theorem State.modThr_cur : (s.modThr r f).cur = s.cur := rfl
@[simp] theorem State.modThr_issue : (s.modThr r f).issue = s.issue := rfl
@[simp] theorem State.modThr_agenda : (s.modThr r f).agenda = s.agenda := rfl
@[simp] theorem State.modThr_sel : (s.modThr r f).sel = s.sel := rfl
@[simp] theorem State.modThr_sel2 : (s.modThr r f).sel2 = s.sel2 := rfl
@[simp] theorem State.modThr_turn : (s.modThr r f).turn = s.turn := rfl
@[simp] theorem State.modThr_drawn : (s.modThr r f).drawn = s.drawn := rfl
@[simp] theorem State.modThr_stamp : (s.modThr r f).stamp = s.stamp := rfl
end modThr

section modHalf
variable (s : State) (t h : Nat) (f : Half → Half)
@[simp] theorem State.modHalf_launches : (s.modHalf t h f).launches = s.launches := rfl
@[simp] theorem State.modHalf_gangs : (s.modHalf t h f).gangs = s.gangs := rfl
@[simp] theorem State.modHalf_queues : (s.modHalf t h f).queues = s.queues := rfl
@[simp] theorem State.modHalf_cores : (s.modHalf t h f).cores = s.cores := rfl
@[simp] theorem State.modHalf_dies : (s.modHalf t h f).dies = s.dies := rfl
@[simp] theorem State.modHalf_hbmStacks : (s.modHalf t h f).hbmStacks = s.hbmStacks := rfl
@[simp] theorem State.modHalf_quotas : (s.modHalf t h f).quotas = s.quotas := rfl
@[simp] theorem State.modHalf_mem : (s.modHalf t h f).mem = s.mem := rfl
@[simp] theorem State.modHalf_poison : (s.modHalf t h f).poison = s.poison := rfl
@[simp] theorem State.modHalf_latent : (s.modHalf t h f).latent = s.latent := rfl
@[simp] theorem State.modHalf_l1 : (s.modHalf t h f).l1 = s.l1 := rfl
@[simp] theorem State.modHalf_icache : (s.modHalf t h f).icache = s.icache := rfl
@[simp] theorem State.modHalf_l2 : (s.modHalf t h f).l2 = s.l2 := rfl
@[simp] theorem State.modHalf_tlb : (s.modHalf t h f).tlb = s.tlb := rfl
@[simp] theorem State.modHalf_walkCache : (s.modHalf t h f).walkCache = s.walkCache := rfl
@[simp] theorem State.modHalf_flights : (s.modHalf t h f).flights = s.flights := rfl
@[simp] theorem State.modHalf_ports : (s.modHalf t h f).ports = s.ports := rfl
@[simp] theorem State.modHalf_hbmq : (s.modHalf t h f).hbmq = s.hbmq := rfl
@[simp] theorem State.modHalf_monitors : (s.modHalf t h f).monitors = s.monitors := rfl
@[simp] theorem State.modHalf_reservedLines : (s.modHalf t h f).reservedLines = s.reservedLines := rfl
@[simp] theorem State.modHalf_spireChange : (s.modHalf t h f).spireChange = s.spireChange := rfl
@[simp] theorem State.modHalf_cmds : (s.modHalf t h f).cmds = s.cmds := rfl
@[simp] theorem State.modHalf_engine : (s.modHalf t h f).engine = s.engine := rfl
@[simp] theorem State.modHalf_slotReads : (s.modHalf t h f).slotReads = s.slotReads := rfl
@[simp] theorem State.modHalf_messages : (s.modHalf t h f).messages = s.messages := rfl
@[simp] theorem State.modHalf_rings : (s.modHalf t h f).rings = s.rings := rfl
@[simp] theorem State.modHalf_tlbinvs : (s.modHalf t h f).tlbinvs = s.tlbinvs := rfl
@[simp] theorem State.modHalf_zeroing : (s.modHalf t h f).zeroing = s.zeroing := rfl
@[simp] theorem State.modHalf_npart : (s.modHalf t h f).npart = s.npart := rfl
@[simp] theorem State.modHalf_curator : (s.modHalf t h f).curator = s.curator := rfl
@[simp] theorem State.modHalf_share0 : (s.modHalf t h f).share0 = s.share0 := rfl
@[simp] theorem State.modHalf_capw : (s.modHalf t h f).capw = s.capw := rfl
@[simp] theorem State.modHalf_pnow : (s.modHalf t h f).pnow = s.pnow := rfl
@[simp] theorem State.modHalf_bud0 : (s.modHalf t h f).bud0 = s.bud0 := rfl
@[simp] theorem State.modHalf_bud1 : (s.modHalf t h f).bud1 = s.bud1 := rfl
@[simp] theorem State.modHalf_overCap : (s.modHalf t h f).overCap = s.overCap := rfl
@[simp] theorem State.modHalf_fabcfg : (s.modHalf t h f).fabcfg = s.fabcfg := rfl
@[simp] theorem State.modHalf_redq : (s.modHalf t h f).redq = s.redq := rfl
@[simp] theorem State.modHalf_redSeq : (s.modHalf t h f).redSeq = s.redSeq := rfl
@[simp] theorem State.modHalf_contributions : (s.modHalf t h f).contributions = s.contributions := rfl
@[simp] theorem State.modHalf_archive : (s.modHalf t h f).archive = s.archive := rfl
@[simp] theorem State.modHalf_archiveCommitted : (s.modHalf t h f).archiveCommitted = s.archiveCommitted := rfl
@[simp] theorem State.modHalf_ready : (s.modHalf t h f).ready = s.ready := rfl
@[simp] theorem State.modHalf_failed : (s.modHalf t h f).failed = s.failed := rfl
@[simp] theorem State.modHalf_gtime : (s.modHalf t h f).gtime = s.gtime := rfl
@[simp] theorem State.modHalf_msix : (s.modHalf t h f).msix = s.msix := rfl
@[simp] theorem State.modHalf_vectors : (s.modHalf t h f).vectors = s.vectors := rfl
@[simp] theorem State.modHalf_hostReply : (s.modHalf t h f).hostReply = s.hostReply := rfl
@[simp] theorem State.modHalf_cur : (s.modHalf t h f).cur = s.cur := rfl
@[simp] theorem State.modHalf_issue : (s.modHalf t h f).issue = s.issue := rfl
@[simp] theorem State.modHalf_agenda : (s.modHalf t h f).agenda = s.agenda := rfl
@[simp] theorem State.modHalf_sel : (s.modHalf t h f).sel = s.sel := rfl
@[simp] theorem State.modHalf_sel2 : (s.modHalf t h f).sel2 = s.sel2 := rfl
@[simp] theorem State.modHalf_turn : (s.modHalf t h f).turn = s.turn := rfl
@[simp] theorem State.modHalf_drawn : (s.modHalf t h f).drawn = s.drawn := rfl
@[simp] theorem State.modHalf_stamp : (s.modHalf t h f).stamp = s.stamp := rfl
end modHalf

section modGroup
variable (s : State) (t g : Nat) (f : Group → Group)
@[simp] theorem State.modGroup_launches : (s.modGroup t g f).launches = s.launches := rfl
@[simp] theorem State.modGroup_gangs : (s.modGroup t g f).gangs = s.gangs := rfl
@[simp] theorem State.modGroup_queues : (s.modGroup t g f).queues = s.queues := rfl
@[simp] theorem State.modGroup_cores : (s.modGroup t g f).cores = s.cores := rfl
@[simp] theorem State.modGroup_dies : (s.modGroup t g f).dies = s.dies := rfl
@[simp] theorem State.modGroup_hbmStacks : (s.modGroup t g f).hbmStacks = s.hbmStacks := rfl
@[simp] theorem State.modGroup_quotas : (s.modGroup t g f).quotas = s.quotas := rfl
@[simp] theorem State.modGroup_mem : (s.modGroup t g f).mem = s.mem := rfl
@[simp] theorem State.modGroup_poison : (s.modGroup t g f).poison = s.poison := rfl
@[simp] theorem State.modGroup_latent : (s.modGroup t g f).latent = s.latent := rfl
@[simp] theorem State.modGroup_l1 : (s.modGroup t g f).l1 = s.l1 := rfl
@[simp] theorem State.modGroup_icache : (s.modGroup t g f).icache = s.icache := rfl
@[simp] theorem State.modGroup_l2 : (s.modGroup t g f).l2 = s.l2 := rfl
@[simp] theorem State.modGroup_tlb : (s.modGroup t g f).tlb = s.tlb := rfl
@[simp] theorem State.modGroup_walkCache : (s.modGroup t g f).walkCache = s.walkCache := rfl
@[simp] theorem State.modGroup_flights : (s.modGroup t g f).flights = s.flights := rfl
@[simp] theorem State.modGroup_ports : (s.modGroup t g f).ports = s.ports := rfl
@[simp] theorem State.modGroup_hbmq : (s.modGroup t g f).hbmq = s.hbmq := rfl
@[simp] theorem State.modGroup_monitors : (s.modGroup t g f).monitors = s.monitors := rfl
@[simp] theorem State.modGroup_reservedLines : (s.modGroup t g f).reservedLines = s.reservedLines := rfl
@[simp] theorem State.modGroup_spireChange : (s.modGroup t g f).spireChange = s.spireChange := rfl
@[simp] theorem State.modGroup_cmds : (s.modGroup t g f).cmds = s.cmds := rfl
@[simp] theorem State.modGroup_engine : (s.modGroup t g f).engine = s.engine := rfl
@[simp] theorem State.modGroup_slotReads : (s.modGroup t g f).slotReads = s.slotReads := rfl
@[simp] theorem State.modGroup_messages : (s.modGroup t g f).messages = s.messages := rfl
@[simp] theorem State.modGroup_rings : (s.modGroup t g f).rings = s.rings := rfl
@[simp] theorem State.modGroup_tlbinvs : (s.modGroup t g f).tlbinvs = s.tlbinvs := rfl
@[simp] theorem State.modGroup_zeroing : (s.modGroup t g f).zeroing = s.zeroing := rfl
@[simp] theorem State.modGroup_npart : (s.modGroup t g f).npart = s.npart := rfl
@[simp] theorem State.modGroup_curator : (s.modGroup t g f).curator = s.curator := rfl
@[simp] theorem State.modGroup_share0 : (s.modGroup t g f).share0 = s.share0 := rfl
@[simp] theorem State.modGroup_capw : (s.modGroup t g f).capw = s.capw := rfl
@[simp] theorem State.modGroup_pnow : (s.modGroup t g f).pnow = s.pnow := rfl
@[simp] theorem State.modGroup_bud0 : (s.modGroup t g f).bud0 = s.bud0 := rfl
@[simp] theorem State.modGroup_bud1 : (s.modGroup t g f).bud1 = s.bud1 := rfl
@[simp] theorem State.modGroup_overCap : (s.modGroup t g f).overCap = s.overCap := rfl
@[simp] theorem State.modGroup_fabcfg : (s.modGroup t g f).fabcfg = s.fabcfg := rfl
@[simp] theorem State.modGroup_redq : (s.modGroup t g f).redq = s.redq := rfl
@[simp] theorem State.modGroup_redSeq : (s.modGroup t g f).redSeq = s.redSeq := rfl
@[simp] theorem State.modGroup_contributions : (s.modGroup t g f).contributions = s.contributions := rfl
@[simp] theorem State.modGroup_archive : (s.modGroup t g f).archive = s.archive := rfl
@[simp] theorem State.modGroup_archiveCommitted : (s.modGroup t g f).archiveCommitted = s.archiveCommitted := rfl
@[simp] theorem State.modGroup_ready : (s.modGroup t g f).ready = s.ready := rfl
@[simp] theorem State.modGroup_failed : (s.modGroup t g f).failed = s.failed := rfl
@[simp] theorem State.modGroup_gtime : (s.modGroup t g f).gtime = s.gtime := rfl
@[simp] theorem State.modGroup_msix : (s.modGroup t g f).msix = s.msix := rfl
@[simp] theorem State.modGroup_vectors : (s.modGroup t g f).vectors = s.vectors := rfl
@[simp] theorem State.modGroup_hostReply : (s.modGroup t g f).hostReply = s.hostReply := rfl
@[simp] theorem State.modGroup_cur : (s.modGroup t g f).cur = s.cur := rfl
@[simp] theorem State.modGroup_issue : (s.modGroup t g f).issue = s.issue := rfl
@[simp] theorem State.modGroup_agenda : (s.modGroup t g f).agenda = s.agenda := rfl
@[simp] theorem State.modGroup_sel : (s.modGroup t g f).sel = s.sel := rfl
@[simp] theorem State.modGroup_sel2 : (s.modGroup t g f).sel2 = s.sel2 := rfl
@[simp] theorem State.modGroup_turn : (s.modGroup t g f).turn = s.turn := rfl
@[simp] theorem State.modGroup_drawn : (s.modGroup t g f).drawn = s.drawn := rfl
@[simp] theorem State.modGroup_stamp : (s.modGroup t g f).stamp = s.stamp := rfl
end modGroup

section modLaunch
variable (s : State) (l : Nat) (f : Launch → Launch)
@[simp] theorem State.modLaunch_teams : (s.modLaunch l f).teams = s.teams := rfl
@[simp] theorem State.modLaunch_launches : (s.modLaunch l f).launches = s.launches.modify l f := rfl
@[simp] theorem State.modLaunch_gangs : (s.modLaunch l f).gangs = s.gangs := rfl
@[simp] theorem State.modLaunch_queues : (s.modLaunch l f).queues = s.queues := rfl
@[simp] theorem State.modLaunch_cores : (s.modLaunch l f).cores = s.cores := rfl
@[simp] theorem State.modLaunch_dies : (s.modLaunch l f).dies = s.dies := rfl
@[simp] theorem State.modLaunch_hbmStacks : (s.modLaunch l f).hbmStacks = s.hbmStacks := rfl
@[simp] theorem State.modLaunch_quotas : (s.modLaunch l f).quotas = s.quotas := rfl
@[simp] theorem State.modLaunch_mem : (s.modLaunch l f).mem = s.mem := rfl
@[simp] theorem State.modLaunch_poison : (s.modLaunch l f).poison = s.poison := rfl
@[simp] theorem State.modLaunch_latent : (s.modLaunch l f).latent = s.latent := rfl
@[simp] theorem State.modLaunch_l1 : (s.modLaunch l f).l1 = s.l1 := rfl
@[simp] theorem State.modLaunch_icache : (s.modLaunch l f).icache = s.icache := rfl
@[simp] theorem State.modLaunch_l2 : (s.modLaunch l f).l2 = s.l2 := rfl
@[simp] theorem State.modLaunch_tlb : (s.modLaunch l f).tlb = s.tlb := rfl
@[simp] theorem State.modLaunch_walkCache : (s.modLaunch l f).walkCache = s.walkCache := rfl
@[simp] theorem State.modLaunch_flights : (s.modLaunch l f).flights = s.flights := rfl
@[simp] theorem State.modLaunch_ports : (s.modLaunch l f).ports = s.ports := rfl
@[simp] theorem State.modLaunch_hbmq : (s.modLaunch l f).hbmq = s.hbmq := rfl
@[simp] theorem State.modLaunch_monitors : (s.modLaunch l f).monitors = s.monitors := rfl
@[simp] theorem State.modLaunch_reservedLines : (s.modLaunch l f).reservedLines = s.reservedLines := rfl
@[simp] theorem State.modLaunch_spireChange : (s.modLaunch l f).spireChange = s.spireChange := rfl
@[simp] theorem State.modLaunch_cmds : (s.modLaunch l f).cmds = s.cmds := rfl
@[simp] theorem State.modLaunch_engine : (s.modLaunch l f).engine = s.engine := rfl
@[simp] theorem State.modLaunch_slotReads : (s.modLaunch l f).slotReads = s.slotReads := rfl
@[simp] theorem State.modLaunch_messages : (s.modLaunch l f).messages = s.messages := rfl
@[simp] theorem State.modLaunch_rings : (s.modLaunch l f).rings = s.rings := rfl
@[simp] theorem State.modLaunch_tlbinvs : (s.modLaunch l f).tlbinvs = s.tlbinvs := rfl
@[simp] theorem State.modLaunch_zeroing : (s.modLaunch l f).zeroing = s.zeroing := rfl
@[simp] theorem State.modLaunch_npart : (s.modLaunch l f).npart = s.npart := rfl
@[simp] theorem State.modLaunch_curator : (s.modLaunch l f).curator = s.curator := rfl
@[simp] theorem State.modLaunch_share0 : (s.modLaunch l f).share0 = s.share0 := rfl
@[simp] theorem State.modLaunch_capw : (s.modLaunch l f).capw = s.capw := rfl
@[simp] theorem State.modLaunch_pnow : (s.modLaunch l f).pnow = s.pnow := rfl
@[simp] theorem State.modLaunch_bud0 : (s.modLaunch l f).bud0 = s.bud0 := rfl
@[simp] theorem State.modLaunch_bud1 : (s.modLaunch l f).bud1 = s.bud1 := rfl
@[simp] theorem State.modLaunch_overCap : (s.modLaunch l f).overCap = s.overCap := rfl
@[simp] theorem State.modLaunch_fabcfg : (s.modLaunch l f).fabcfg = s.fabcfg := rfl
@[simp] theorem State.modLaunch_redq : (s.modLaunch l f).redq = s.redq := rfl
@[simp] theorem State.modLaunch_redSeq : (s.modLaunch l f).redSeq = s.redSeq := rfl
@[simp] theorem State.modLaunch_contributions : (s.modLaunch l f).contributions = s.contributions := rfl
@[simp] theorem State.modLaunch_archive : (s.modLaunch l f).archive = s.archive := rfl
@[simp] theorem State.modLaunch_archiveCommitted : (s.modLaunch l f).archiveCommitted = s.archiveCommitted := rfl
@[simp] theorem State.modLaunch_ready : (s.modLaunch l f).ready = s.ready := rfl
@[simp] theorem State.modLaunch_failed : (s.modLaunch l f).failed = s.failed := rfl
@[simp] theorem State.modLaunch_gtime : (s.modLaunch l f).gtime = s.gtime := rfl
@[simp] theorem State.modLaunch_msix : (s.modLaunch l f).msix = s.msix := rfl
@[simp] theorem State.modLaunch_vectors : (s.modLaunch l f).vectors = s.vectors := rfl
@[simp] theorem State.modLaunch_hostReply : (s.modLaunch l f).hostReply = s.hostReply := rfl
@[simp] theorem State.modLaunch_cur : (s.modLaunch l f).cur = s.cur := rfl
@[simp] theorem State.modLaunch_issue : (s.modLaunch l f).issue = s.issue := rfl
@[simp] theorem State.modLaunch_agenda : (s.modLaunch l f).agenda = s.agenda := rfl
@[simp] theorem State.modLaunch_sel : (s.modLaunch l f).sel = s.sel := rfl
@[simp] theorem State.modLaunch_sel2 : (s.modLaunch l f).sel2 = s.sel2 := rfl
@[simp] theorem State.modLaunch_turn : (s.modLaunch l f).turn = s.turn := rfl
@[simp] theorem State.modLaunch_drawn : (s.modLaunch l f).drawn = s.drawn := rfl
@[simp] theorem State.modLaunch_stamp : (s.modLaunch l f).stamp = s.stamp := rfl
end modLaunch

section modDie
variable (s : State) (d : Nat) (f : Die → Die)
@[simp] theorem State.modDie_teams : (s.modDie d f).teams = s.teams := rfl
@[simp] theorem State.modDie_launches : (s.modDie d f).launches = s.launches := rfl
@[simp] theorem State.modDie_gangs : (s.modDie d f).gangs = s.gangs := rfl
@[simp] theorem State.modDie_queues : (s.modDie d f).queues = s.queues := rfl
@[simp] theorem State.modDie_cores : (s.modDie d f).cores = s.cores := rfl
@[simp] theorem State.modDie_dies : (s.modDie d f).dies = s.dies.modify d f := rfl
@[simp] theorem State.modDie_hbmStacks : (s.modDie d f).hbmStacks = s.hbmStacks := rfl
@[simp] theorem State.modDie_quotas : (s.modDie d f).quotas = s.quotas := rfl
@[simp] theorem State.modDie_mem : (s.modDie d f).mem = s.mem := rfl
@[simp] theorem State.modDie_poison : (s.modDie d f).poison = s.poison := rfl
@[simp] theorem State.modDie_latent : (s.modDie d f).latent = s.latent := rfl
@[simp] theorem State.modDie_l1 : (s.modDie d f).l1 = s.l1 := rfl
@[simp] theorem State.modDie_icache : (s.modDie d f).icache = s.icache := rfl
@[simp] theorem State.modDie_l2 : (s.modDie d f).l2 = s.l2 := rfl
@[simp] theorem State.modDie_tlb : (s.modDie d f).tlb = s.tlb := rfl
@[simp] theorem State.modDie_walkCache : (s.modDie d f).walkCache = s.walkCache := rfl
@[simp] theorem State.modDie_flights : (s.modDie d f).flights = s.flights := rfl
@[simp] theorem State.modDie_ports : (s.modDie d f).ports = s.ports := rfl
@[simp] theorem State.modDie_hbmq : (s.modDie d f).hbmq = s.hbmq := rfl
@[simp] theorem State.modDie_monitors : (s.modDie d f).monitors = s.monitors := rfl
@[simp] theorem State.modDie_reservedLines : (s.modDie d f).reservedLines = s.reservedLines := rfl
@[simp] theorem State.modDie_spireChange : (s.modDie d f).spireChange = s.spireChange := rfl
@[simp] theorem State.modDie_cmds : (s.modDie d f).cmds = s.cmds := rfl
@[simp] theorem State.modDie_engine : (s.modDie d f).engine = s.engine := rfl
@[simp] theorem State.modDie_slotReads : (s.modDie d f).slotReads = s.slotReads := rfl
@[simp] theorem State.modDie_messages : (s.modDie d f).messages = s.messages := rfl
@[simp] theorem State.modDie_rings : (s.modDie d f).rings = s.rings := rfl
@[simp] theorem State.modDie_tlbinvs : (s.modDie d f).tlbinvs = s.tlbinvs := rfl
@[simp] theorem State.modDie_zeroing : (s.modDie d f).zeroing = s.zeroing := rfl
@[simp] theorem State.modDie_npart : (s.modDie d f).npart = s.npart := rfl
@[simp] theorem State.modDie_curator : (s.modDie d f).curator = s.curator := rfl
@[simp] theorem State.modDie_share0 : (s.modDie d f).share0 = s.share0 := rfl
@[simp] theorem State.modDie_capw : (s.modDie d f).capw = s.capw := rfl
@[simp] theorem State.modDie_pnow : (s.modDie d f).pnow = s.pnow := rfl
@[simp] theorem State.modDie_bud0 : (s.modDie d f).bud0 = s.bud0 := rfl
@[simp] theorem State.modDie_bud1 : (s.modDie d f).bud1 = s.bud1 := rfl
@[simp] theorem State.modDie_overCap : (s.modDie d f).overCap = s.overCap := rfl
@[simp] theorem State.modDie_fabcfg : (s.modDie d f).fabcfg = s.fabcfg := rfl
@[simp] theorem State.modDie_redq : (s.modDie d f).redq = s.redq := rfl
@[simp] theorem State.modDie_redSeq : (s.modDie d f).redSeq = s.redSeq := rfl
@[simp] theorem State.modDie_contributions : (s.modDie d f).contributions = s.contributions := rfl
@[simp] theorem State.modDie_archive : (s.modDie d f).archive = s.archive := rfl
@[simp] theorem State.modDie_archiveCommitted : (s.modDie d f).archiveCommitted = s.archiveCommitted := rfl
@[simp] theorem State.modDie_ready : (s.modDie d f).ready = s.ready := rfl
@[simp] theorem State.modDie_failed : (s.modDie d f).failed = s.failed := rfl
@[simp] theorem State.modDie_gtime : (s.modDie d f).gtime = s.gtime := rfl
@[simp] theorem State.modDie_msix : (s.modDie d f).msix = s.msix := rfl
@[simp] theorem State.modDie_vectors : (s.modDie d f).vectors = s.vectors := rfl
@[simp] theorem State.modDie_hostReply : (s.modDie d f).hostReply = s.hostReply := rfl
@[simp] theorem State.modDie_cur : (s.modDie d f).cur = s.cur := rfl
@[simp] theorem State.modDie_issue : (s.modDie d f).issue = s.issue := rfl
@[simp] theorem State.modDie_agenda : (s.modDie d f).agenda = s.agenda := rfl
@[simp] theorem State.modDie_sel : (s.modDie d f).sel = s.sel := rfl
@[simp] theorem State.modDie_sel2 : (s.modDie d f).sel2 = s.sel2 := rfl
@[simp] theorem State.modDie_turn : (s.modDie d f).turn = s.turn := rfl
@[simp] theorem State.modDie_drawn : (s.modDie d f).drawn = s.drawn := rfl
@[simp] theorem State.modDie_stamp : (s.modDie d f).stamp = s.stamp := rfl
end modDie

section modCore
variable (s : State) (c : Nat) (f : Core → Core)
@[simp] theorem State.modCore_teams : (s.modCore c f).teams = s.teams := rfl
@[simp] theorem State.modCore_launches : (s.modCore c f).launches = s.launches := rfl
@[simp] theorem State.modCore_gangs : (s.modCore c f).gangs = s.gangs := rfl
@[simp] theorem State.modCore_queues : (s.modCore c f).queues = s.queues := rfl
@[simp] theorem State.modCore_cores : (s.modCore c f).cores = s.cores.modify c f := rfl
@[simp] theorem State.modCore_dies : (s.modCore c f).dies = s.dies := rfl
@[simp] theorem State.modCore_hbmStacks : (s.modCore c f).hbmStacks = s.hbmStacks := rfl
@[simp] theorem State.modCore_quotas : (s.modCore c f).quotas = s.quotas := rfl
@[simp] theorem State.modCore_mem : (s.modCore c f).mem = s.mem := rfl
@[simp] theorem State.modCore_poison : (s.modCore c f).poison = s.poison := rfl
@[simp] theorem State.modCore_latent : (s.modCore c f).latent = s.latent := rfl
@[simp] theorem State.modCore_l1 : (s.modCore c f).l1 = s.l1 := rfl
@[simp] theorem State.modCore_icache : (s.modCore c f).icache = s.icache := rfl
@[simp] theorem State.modCore_l2 : (s.modCore c f).l2 = s.l2 := rfl
@[simp] theorem State.modCore_tlb : (s.modCore c f).tlb = s.tlb := rfl
@[simp] theorem State.modCore_walkCache : (s.modCore c f).walkCache = s.walkCache := rfl
@[simp] theorem State.modCore_flights : (s.modCore c f).flights = s.flights := rfl
@[simp] theorem State.modCore_ports : (s.modCore c f).ports = s.ports := rfl
@[simp] theorem State.modCore_hbmq : (s.modCore c f).hbmq = s.hbmq := rfl
@[simp] theorem State.modCore_monitors : (s.modCore c f).monitors = s.monitors := rfl
@[simp] theorem State.modCore_reservedLines : (s.modCore c f).reservedLines = s.reservedLines := rfl
@[simp] theorem State.modCore_spireChange : (s.modCore c f).spireChange = s.spireChange := rfl
@[simp] theorem State.modCore_cmds : (s.modCore c f).cmds = s.cmds := rfl
@[simp] theorem State.modCore_engine : (s.modCore c f).engine = s.engine := rfl
@[simp] theorem State.modCore_slotReads : (s.modCore c f).slotReads = s.slotReads := rfl
@[simp] theorem State.modCore_messages : (s.modCore c f).messages = s.messages := rfl
@[simp] theorem State.modCore_rings : (s.modCore c f).rings = s.rings := rfl
@[simp] theorem State.modCore_tlbinvs : (s.modCore c f).tlbinvs = s.tlbinvs := rfl
@[simp] theorem State.modCore_zeroing : (s.modCore c f).zeroing = s.zeroing := rfl
@[simp] theorem State.modCore_npart : (s.modCore c f).npart = s.npart := rfl
@[simp] theorem State.modCore_curator : (s.modCore c f).curator = s.curator := rfl
@[simp] theorem State.modCore_share0 : (s.modCore c f).share0 = s.share0 := rfl
@[simp] theorem State.modCore_capw : (s.modCore c f).capw = s.capw := rfl
@[simp] theorem State.modCore_pnow : (s.modCore c f).pnow = s.pnow := rfl
@[simp] theorem State.modCore_bud0 : (s.modCore c f).bud0 = s.bud0 := rfl
@[simp] theorem State.modCore_bud1 : (s.modCore c f).bud1 = s.bud1 := rfl
@[simp] theorem State.modCore_overCap : (s.modCore c f).overCap = s.overCap := rfl
@[simp] theorem State.modCore_fabcfg : (s.modCore c f).fabcfg = s.fabcfg := rfl
@[simp] theorem State.modCore_redq : (s.modCore c f).redq = s.redq := rfl
@[simp] theorem State.modCore_redSeq : (s.modCore c f).redSeq = s.redSeq := rfl
@[simp] theorem State.modCore_contributions : (s.modCore c f).contributions = s.contributions := rfl
@[simp] theorem State.modCore_archive : (s.modCore c f).archive = s.archive := rfl
@[simp] theorem State.modCore_archiveCommitted : (s.modCore c f).archiveCommitted = s.archiveCommitted := rfl
@[simp] theorem State.modCore_ready : (s.modCore c f).ready = s.ready := rfl
@[simp] theorem State.modCore_failed : (s.modCore c f).failed = s.failed := rfl
@[simp] theorem State.modCore_gtime : (s.modCore c f).gtime = s.gtime := rfl
@[simp] theorem State.modCore_msix : (s.modCore c f).msix = s.msix := rfl
@[simp] theorem State.modCore_vectors : (s.modCore c f).vectors = s.vectors := rfl
@[simp] theorem State.modCore_hostReply : (s.modCore c f).hostReply = s.hostReply := rfl
@[simp] theorem State.modCore_cur : (s.modCore c f).cur = s.cur := rfl
@[simp] theorem State.modCore_issue : (s.modCore c f).issue = s.issue := rfl
@[simp] theorem State.modCore_agenda : (s.modCore c f).agenda = s.agenda := rfl
@[simp] theorem State.modCore_sel : (s.modCore c f).sel = s.sel := rfl
@[simp] theorem State.modCore_sel2 : (s.modCore c f).sel2 = s.sel2 := rfl
@[simp] theorem State.modCore_turn : (s.modCore c f).turn = s.turn := rfl
@[simp] theorem State.modCore_drawn : (s.modCore c f).drawn = s.drawn := rfl
@[simp] theorem State.modCore_stamp : (s.modCore c f).stamp = s.stamp := rfl
end modCore

section modQueue
variable (s : State) (q : Nat) (f : Queue → Queue)
@[simp] theorem State.modQueue_teams : (s.modQueue q f).teams = s.teams := rfl
@[simp] theorem State.modQueue_launches : (s.modQueue q f).launches = s.launches := rfl
@[simp] theorem State.modQueue_gangs : (s.modQueue q f).gangs = s.gangs := rfl
@[simp] theorem State.modQueue_queues : (s.modQueue q f).queues = s.queues.modify q f := rfl
@[simp] theorem State.modQueue_cores : (s.modQueue q f).cores = s.cores := rfl
@[simp] theorem State.modQueue_dies : (s.modQueue q f).dies = s.dies := rfl
@[simp] theorem State.modQueue_hbmStacks : (s.modQueue q f).hbmStacks = s.hbmStacks := rfl
@[simp] theorem State.modQueue_quotas : (s.modQueue q f).quotas = s.quotas := rfl
@[simp] theorem State.modQueue_mem : (s.modQueue q f).mem = s.mem := rfl
@[simp] theorem State.modQueue_poison : (s.modQueue q f).poison = s.poison := rfl
@[simp] theorem State.modQueue_latent : (s.modQueue q f).latent = s.latent := rfl
@[simp] theorem State.modQueue_l1 : (s.modQueue q f).l1 = s.l1 := rfl
@[simp] theorem State.modQueue_icache : (s.modQueue q f).icache = s.icache := rfl
@[simp] theorem State.modQueue_l2 : (s.modQueue q f).l2 = s.l2 := rfl
@[simp] theorem State.modQueue_tlb : (s.modQueue q f).tlb = s.tlb := rfl
@[simp] theorem State.modQueue_walkCache : (s.modQueue q f).walkCache = s.walkCache := rfl
@[simp] theorem State.modQueue_flights : (s.modQueue q f).flights = s.flights := rfl
@[simp] theorem State.modQueue_ports : (s.modQueue q f).ports = s.ports := rfl
@[simp] theorem State.modQueue_hbmq : (s.modQueue q f).hbmq = s.hbmq := rfl
@[simp] theorem State.modQueue_monitors : (s.modQueue q f).monitors = s.monitors := rfl
@[simp] theorem State.modQueue_reservedLines : (s.modQueue q f).reservedLines = s.reservedLines := rfl
@[simp] theorem State.modQueue_spireChange : (s.modQueue q f).spireChange = s.spireChange := rfl
@[simp] theorem State.modQueue_cmds : (s.modQueue q f).cmds = s.cmds := rfl
@[simp] theorem State.modQueue_engine : (s.modQueue q f).engine = s.engine := rfl
@[simp] theorem State.modQueue_slotReads : (s.modQueue q f).slotReads = s.slotReads := rfl
@[simp] theorem State.modQueue_messages : (s.modQueue q f).messages = s.messages := rfl
@[simp] theorem State.modQueue_rings : (s.modQueue q f).rings = s.rings := rfl
@[simp] theorem State.modQueue_tlbinvs : (s.modQueue q f).tlbinvs = s.tlbinvs := rfl
@[simp] theorem State.modQueue_zeroing : (s.modQueue q f).zeroing = s.zeroing := rfl
@[simp] theorem State.modQueue_npart : (s.modQueue q f).npart = s.npart := rfl
@[simp] theorem State.modQueue_curator : (s.modQueue q f).curator = s.curator := rfl
@[simp] theorem State.modQueue_share0 : (s.modQueue q f).share0 = s.share0 := rfl
@[simp] theorem State.modQueue_capw : (s.modQueue q f).capw = s.capw := rfl
@[simp] theorem State.modQueue_pnow : (s.modQueue q f).pnow = s.pnow := rfl
@[simp] theorem State.modQueue_bud0 : (s.modQueue q f).bud0 = s.bud0 := rfl
@[simp] theorem State.modQueue_bud1 : (s.modQueue q f).bud1 = s.bud1 := rfl
@[simp] theorem State.modQueue_overCap : (s.modQueue q f).overCap = s.overCap := rfl
@[simp] theorem State.modQueue_fabcfg : (s.modQueue q f).fabcfg = s.fabcfg := rfl
@[simp] theorem State.modQueue_redq : (s.modQueue q f).redq = s.redq := rfl
@[simp] theorem State.modQueue_redSeq : (s.modQueue q f).redSeq = s.redSeq := rfl
@[simp] theorem State.modQueue_contributions : (s.modQueue q f).contributions = s.contributions := rfl
@[simp] theorem State.modQueue_archive : (s.modQueue q f).archive = s.archive := rfl
@[simp] theorem State.modQueue_archiveCommitted : (s.modQueue q f).archiveCommitted = s.archiveCommitted := rfl
@[simp] theorem State.modQueue_ready : (s.modQueue q f).ready = s.ready := rfl
@[simp] theorem State.modQueue_failed : (s.modQueue q f).failed = s.failed := rfl
@[simp] theorem State.modQueue_gtime : (s.modQueue q f).gtime = s.gtime := rfl
@[simp] theorem State.modQueue_msix : (s.modQueue q f).msix = s.msix := rfl
@[simp] theorem State.modQueue_vectors : (s.modQueue q f).vectors = s.vectors := rfl
@[simp] theorem State.modQueue_hostReply : (s.modQueue q f).hostReply = s.hostReply := rfl
@[simp] theorem State.modQueue_cur : (s.modQueue q f).cur = s.cur := rfl
@[simp] theorem State.modQueue_issue : (s.modQueue q f).issue = s.issue := rfl
@[simp] theorem State.modQueue_agenda : (s.modQueue q f).agenda = s.agenda := rfl
@[simp] theorem State.modQueue_sel : (s.modQueue q f).sel = s.sel := rfl
@[simp] theorem State.modQueue_sel2 : (s.modQueue q f).sel2 = s.sel2 := rfl
@[simp] theorem State.modQueue_turn : (s.modQueue q f).turn = s.turn := rfl
@[simp] theorem State.modQueue_drawn : (s.modQueue q f).drawn = s.drawn := rfl
@[simp] theorem State.modQueue_stamp : (s.modQueue q f).stamp = s.stamp := rfl
end modQueue

section modCmd
variable (s : State) (c : Nat) (f : Cmd → Cmd)
@[simp] theorem State.modCmd_teams : (s.modCmd c f).teams = s.teams := rfl
@[simp] theorem State.modCmd_launches : (s.modCmd c f).launches = s.launches := rfl
@[simp] theorem State.modCmd_gangs : (s.modCmd c f).gangs = s.gangs := rfl
@[simp] theorem State.modCmd_queues : (s.modCmd c f).queues = s.queues := rfl
@[simp] theorem State.modCmd_cores : (s.modCmd c f).cores = s.cores := rfl
@[simp] theorem State.modCmd_dies : (s.modCmd c f).dies = s.dies := rfl
@[simp] theorem State.modCmd_hbmStacks : (s.modCmd c f).hbmStacks = s.hbmStacks := rfl
@[simp] theorem State.modCmd_quotas : (s.modCmd c f).quotas = s.quotas := rfl
@[simp] theorem State.modCmd_mem : (s.modCmd c f).mem = s.mem := rfl
@[simp] theorem State.modCmd_poison : (s.modCmd c f).poison = s.poison := rfl
@[simp] theorem State.modCmd_latent : (s.modCmd c f).latent = s.latent := rfl
@[simp] theorem State.modCmd_l1 : (s.modCmd c f).l1 = s.l1 := rfl
@[simp] theorem State.modCmd_icache : (s.modCmd c f).icache = s.icache := rfl
@[simp] theorem State.modCmd_l2 : (s.modCmd c f).l2 = s.l2 := rfl
@[simp] theorem State.modCmd_tlb : (s.modCmd c f).tlb = s.tlb := rfl
@[simp] theorem State.modCmd_walkCache : (s.modCmd c f).walkCache = s.walkCache := rfl
@[simp] theorem State.modCmd_flights : (s.modCmd c f).flights = s.flights := rfl
@[simp] theorem State.modCmd_ports : (s.modCmd c f).ports = s.ports := rfl
@[simp] theorem State.modCmd_hbmq : (s.modCmd c f).hbmq = s.hbmq := rfl
@[simp] theorem State.modCmd_monitors : (s.modCmd c f).monitors = s.monitors := rfl
@[simp] theorem State.modCmd_reservedLines : (s.modCmd c f).reservedLines = s.reservedLines := rfl
@[simp] theorem State.modCmd_spireChange : (s.modCmd c f).spireChange = s.spireChange := rfl
@[simp] theorem State.modCmd_cmds : (s.modCmd c f).cmds = s.cmds.modify c f := rfl
@[simp] theorem State.modCmd_engine : (s.modCmd c f).engine = s.engine := rfl
@[simp] theorem State.modCmd_slotReads : (s.modCmd c f).slotReads = s.slotReads := rfl
@[simp] theorem State.modCmd_messages : (s.modCmd c f).messages = s.messages := rfl
@[simp] theorem State.modCmd_rings : (s.modCmd c f).rings = s.rings := rfl
@[simp] theorem State.modCmd_tlbinvs : (s.modCmd c f).tlbinvs = s.tlbinvs := rfl
@[simp] theorem State.modCmd_zeroing : (s.modCmd c f).zeroing = s.zeroing := rfl
@[simp] theorem State.modCmd_npart : (s.modCmd c f).npart = s.npart := rfl
@[simp] theorem State.modCmd_curator : (s.modCmd c f).curator = s.curator := rfl
@[simp] theorem State.modCmd_share0 : (s.modCmd c f).share0 = s.share0 := rfl
@[simp] theorem State.modCmd_capw : (s.modCmd c f).capw = s.capw := rfl
@[simp] theorem State.modCmd_pnow : (s.modCmd c f).pnow = s.pnow := rfl
@[simp] theorem State.modCmd_bud0 : (s.modCmd c f).bud0 = s.bud0 := rfl
@[simp] theorem State.modCmd_bud1 : (s.modCmd c f).bud1 = s.bud1 := rfl
@[simp] theorem State.modCmd_overCap : (s.modCmd c f).overCap = s.overCap := rfl
@[simp] theorem State.modCmd_fabcfg : (s.modCmd c f).fabcfg = s.fabcfg := rfl
@[simp] theorem State.modCmd_redq : (s.modCmd c f).redq = s.redq := rfl
@[simp] theorem State.modCmd_redSeq : (s.modCmd c f).redSeq = s.redSeq := rfl
@[simp] theorem State.modCmd_contributions : (s.modCmd c f).contributions = s.contributions := rfl
@[simp] theorem State.modCmd_archive : (s.modCmd c f).archive = s.archive := rfl
@[simp] theorem State.modCmd_archiveCommitted : (s.modCmd c f).archiveCommitted = s.archiveCommitted := rfl
@[simp] theorem State.modCmd_ready : (s.modCmd c f).ready = s.ready := rfl
@[simp] theorem State.modCmd_failed : (s.modCmd c f).failed = s.failed := rfl
@[simp] theorem State.modCmd_gtime : (s.modCmd c f).gtime = s.gtime := rfl
@[simp] theorem State.modCmd_msix : (s.modCmd c f).msix = s.msix := rfl
@[simp] theorem State.modCmd_vectors : (s.modCmd c f).vectors = s.vectors := rfl
@[simp] theorem State.modCmd_hostReply : (s.modCmd c f).hostReply = s.hostReply := rfl
@[simp] theorem State.modCmd_cur : (s.modCmd c f).cur = s.cur := rfl
@[simp] theorem State.modCmd_issue : (s.modCmd c f).issue = s.issue := rfl
@[simp] theorem State.modCmd_agenda : (s.modCmd c f).agenda = s.agenda := rfl
@[simp] theorem State.modCmd_sel : (s.modCmd c f).sel = s.sel := rfl
@[simp] theorem State.modCmd_sel2 : (s.modCmd c f).sel2 = s.sel2 := rfl
@[simp] theorem State.modCmd_turn : (s.modCmd c f).turn = s.turn := rfl
@[simp] theorem State.modCmd_drawn : (s.modCmd c f).drawn = s.drawn := rfl
@[simp] theorem State.modCmd_stamp : (s.modCmd c f).stamp = s.stamp := rfl
end modCmd

section modFlight
variable (s : State) (n : Nat) (f : Flight → Flight)
@[simp] theorem State.modFlight_teams : (s.modFlight n f).teams = s.teams := rfl
@[simp] theorem State.modFlight_launches : (s.modFlight n f).launches = s.launches := rfl
@[simp] theorem State.modFlight_gangs : (s.modFlight n f).gangs = s.gangs := rfl
@[simp] theorem State.modFlight_queues : (s.modFlight n f).queues = s.queues := rfl
@[simp] theorem State.modFlight_cores : (s.modFlight n f).cores = s.cores := rfl
@[simp] theorem State.modFlight_dies : (s.modFlight n f).dies = s.dies := rfl
@[simp] theorem State.modFlight_hbmStacks : (s.modFlight n f).hbmStacks = s.hbmStacks := rfl
@[simp] theorem State.modFlight_quotas : (s.modFlight n f).quotas = s.quotas := rfl
@[simp] theorem State.modFlight_mem : (s.modFlight n f).mem = s.mem := rfl
@[simp] theorem State.modFlight_poison : (s.modFlight n f).poison = s.poison := rfl
@[simp] theorem State.modFlight_latent : (s.modFlight n f).latent = s.latent := rfl
@[simp] theorem State.modFlight_l1 : (s.modFlight n f).l1 = s.l1 := rfl
@[simp] theorem State.modFlight_icache : (s.modFlight n f).icache = s.icache := rfl
@[simp] theorem State.modFlight_l2 : (s.modFlight n f).l2 = s.l2 := rfl
@[simp] theorem State.modFlight_tlb : (s.modFlight n f).tlb = s.tlb := rfl
@[simp] theorem State.modFlight_walkCache : (s.modFlight n f).walkCache = s.walkCache := rfl
@[simp] theorem State.modFlight_flights : (s.modFlight n f).flights = s.flights.modify n f := rfl
@[simp] theorem State.modFlight_ports : (s.modFlight n f).ports = s.ports := rfl
@[simp] theorem State.modFlight_hbmq : (s.modFlight n f).hbmq = s.hbmq := rfl
@[simp] theorem State.modFlight_monitors : (s.modFlight n f).monitors = s.monitors := rfl
@[simp] theorem State.modFlight_reservedLines : (s.modFlight n f).reservedLines = s.reservedLines := rfl
@[simp] theorem State.modFlight_spireChange : (s.modFlight n f).spireChange = s.spireChange := rfl
@[simp] theorem State.modFlight_cmds : (s.modFlight n f).cmds = s.cmds := rfl
@[simp] theorem State.modFlight_engine : (s.modFlight n f).engine = s.engine := rfl
@[simp] theorem State.modFlight_slotReads : (s.modFlight n f).slotReads = s.slotReads := rfl
@[simp] theorem State.modFlight_messages : (s.modFlight n f).messages = s.messages := rfl
@[simp] theorem State.modFlight_rings : (s.modFlight n f).rings = s.rings := rfl
@[simp] theorem State.modFlight_tlbinvs : (s.modFlight n f).tlbinvs = s.tlbinvs := rfl
@[simp] theorem State.modFlight_zeroing : (s.modFlight n f).zeroing = s.zeroing := rfl
@[simp] theorem State.modFlight_npart : (s.modFlight n f).npart = s.npart := rfl
@[simp] theorem State.modFlight_curator : (s.modFlight n f).curator = s.curator := rfl
@[simp] theorem State.modFlight_share0 : (s.modFlight n f).share0 = s.share0 := rfl
@[simp] theorem State.modFlight_capw : (s.modFlight n f).capw = s.capw := rfl
@[simp] theorem State.modFlight_pnow : (s.modFlight n f).pnow = s.pnow := rfl
@[simp] theorem State.modFlight_bud0 : (s.modFlight n f).bud0 = s.bud0 := rfl
@[simp] theorem State.modFlight_bud1 : (s.modFlight n f).bud1 = s.bud1 := rfl
@[simp] theorem State.modFlight_overCap : (s.modFlight n f).overCap = s.overCap := rfl
@[simp] theorem State.modFlight_fabcfg : (s.modFlight n f).fabcfg = s.fabcfg := rfl
@[simp] theorem State.modFlight_redq : (s.modFlight n f).redq = s.redq := rfl
@[simp] theorem State.modFlight_redSeq : (s.modFlight n f).redSeq = s.redSeq := rfl
@[simp] theorem State.modFlight_contributions : (s.modFlight n f).contributions = s.contributions := rfl
@[simp] theorem State.modFlight_archive : (s.modFlight n f).archive = s.archive := rfl
@[simp] theorem State.modFlight_archiveCommitted : (s.modFlight n f).archiveCommitted = s.archiveCommitted := rfl
@[simp] theorem State.modFlight_ready : (s.modFlight n f).ready = s.ready := rfl
@[simp] theorem State.modFlight_failed : (s.modFlight n f).failed = s.failed := rfl
@[simp] theorem State.modFlight_gtime : (s.modFlight n f).gtime = s.gtime := rfl
@[simp] theorem State.modFlight_msix : (s.modFlight n f).msix = s.msix := rfl
@[simp] theorem State.modFlight_vectors : (s.modFlight n f).vectors = s.vectors := rfl
@[simp] theorem State.modFlight_hostReply : (s.modFlight n f).hostReply = s.hostReply := rfl
@[simp] theorem State.modFlight_cur : (s.modFlight n f).cur = s.cur := rfl
@[simp] theorem State.modFlight_issue : (s.modFlight n f).issue = s.issue := rfl
@[simp] theorem State.modFlight_agenda : (s.modFlight n f).agenda = s.agenda := rfl
@[simp] theorem State.modFlight_sel : (s.modFlight n f).sel = s.sel := rfl
@[simp] theorem State.modFlight_sel2 : (s.modFlight n f).sel2 = s.sel2 := rfl
@[simp] theorem State.modFlight_turn : (s.modFlight n f).turn = s.turn := rfl
@[simp] theorem State.modFlight_drawn : (s.modFlight n f).drawn = s.drawn := rfl
@[simp] theorem State.modFlight_stamp : (s.modFlight n f).stamp = s.stamp := rfl
end modFlight

section setReg
variable (t : Thread) (n : Nat) (v : Reg)
@[simp] theorem Thread.setReg_tidx : (t.setReg n v).tidx = t.tidx := by unfold Thread.setReg; split <;> rfl
@[simp] theorem Thread.setReg_ctl : (t.setReg n v).ctl = t.ctl := by unfold Thread.setReg; split <;> rfl
@[simp] theorem Thread.setReg_half : (t.setReg n v).half = t.half := by unfold Thread.setReg; split <;> rfl
@[simp] theorem Thread.setReg_slot : (t.setReg n v).slot = t.slot := by unfold Thread.setReg; split <;> rfl
@[simp] theorem Thread.setReg_group : (t.setReg n v).group = t.group := by unfold Thread.setReg; split <;> rfl
@[simp] theorem Thread.setReg_frag : (t.setReg n v).frag = t.frag := by unfold Thread.setReg; split <;> rfl
@[simp] theorem Thread.setReg_path : (t.setReg n v).path = t.path := by unfold Thread.setReg; split <;> rfl
@[simp] theorem Thread.setReg_pc : (t.setReg n v).pc = t.pc := by unfold Thread.setReg; split <;> rfl
@[simp] theorem Thread.setReg_hint : (t.setReg n v).hint = t.hint := by unfold Thread.setReg; split <;> rfl
@[simp] theorem Thread.setReg_preds : (t.setReg n v).preds = t.preds := by unfold Thread.setReg; split <;> rfl
@[simp] theorem Thread.setReg_fpstat : (t.setReg n v).fpstat = t.fpstat := by unfold Thread.setReg; split <;> rfl
@[simp] theorem Thread.setReg_cm : (t.setReg n v).cm = t.cm := by unfold Thread.setReg; split <;> rfl
@[simp] theorem Thread.setReg_tr : (t.setReg n v).tr = t.tr := by unfold Thread.setReg; split <;> rfl
@[simp] theorem Thread.setReg_exited : (t.setReg n v).exited = t.exited := by unfold Thread.setReg; split <;> rfl
@[simp] theorem Thread.setReg_parked : (t.setReg n v).parked = t.parked := by unfold Thread.setReg; split <;> rfl
@[simp] theorem Thread.setReg_wait : (t.setReg n v).wait = t.wait := by unfold Thread.setReg; split <;> rfl
@[simp] theorem Thread.setReg_age : (t.setReg n v).age = t.age := by unfold Thread.setReg; split <;> rfl
@[simp] theorem Thread.setReg_holdoff : (t.setReg n v).holdoff = t.holdoff := by unfold Thread.setReg; split <;> rfl
@[simp] theorem Thread.setReg_pending : (t.setReg n v).pending = t.pending := by unfold Thread.setReg; split <;> rfl
@[simp] theorem Thread.setReg_batchNo : (t.setReg n v).batchNo = t.batchNo := by unfold Thread.setReg; split <;> rfl
@[simp] theorem Thread.setReg_batchWrap : (t.setReg n v).batchWrap = t.batchWrap := by unfold Thread.setReg; split <;> rfl
@[simp] theorem Thread.setReg_batches : (t.setReg n v).batches = t.batches := by unfold Thread.setReg; split <;> rfl
@[simp] theorem Thread.setReg_watch : (t.setReg n v).watch = t.watch := by unfold Thread.setReg; split <;> rfl
@[simp] theorem Thread.setReg_walked : (t.setReg n v).walked = t.walked := by unfold Thread.setReg; split <;> rfl
@[simp] theorem Thread.setReg_seq : (t.setReg n v).seq = t.seq := by unfold Thread.setReg; split <;> rfl
@[simp] theorem Thread.setReg_since : (t.setReg n v).since = t.since := by unfold Thread.setReg; split <;> rfl
@[simp] theorem Thread.setReg_fromHome : (t.setReg n v).fromHome = t.fromHome := by unfold Thread.setReg; split <;> rfl
@[simp] theorem Thread.setReg_fromHomeUo : (t.setReg n v).fromHomeUo = t.fromHomeUo := by unfold Thread.setReg; split <;> rfl
end setReg

section setPred
variable (t : Thread) (p : BitVec 3) (b : Bool)
@[simp] theorem Thread.setPred_tidx : (t.setPred p b).tidx = t.tidx := by unfold Thread.setPred; split <;> rfl
@[simp] theorem Thread.setPred_ctl : (t.setPred p b).ctl = t.ctl := by unfold Thread.setPred; split <;> rfl
@[simp] theorem Thread.setPred_half : (t.setPred p b).half = t.half := by unfold Thread.setPred; split <;> rfl
@[simp] theorem Thread.setPred_slot : (t.setPred p b).slot = t.slot := by unfold Thread.setPred; split <;> rfl
@[simp] theorem Thread.setPred_group : (t.setPred p b).group = t.group := by unfold Thread.setPred; split <;> rfl
@[simp] theorem Thread.setPred_frag : (t.setPred p b).frag = t.frag := by unfold Thread.setPred; split <;> rfl
@[simp] theorem Thread.setPred_path : (t.setPred p b).path = t.path := by unfold Thread.setPred; split <;> rfl
@[simp] theorem Thread.setPred_pc : (t.setPred p b).pc = t.pc := by unfold Thread.setPred; split <;> rfl
@[simp] theorem Thread.setPred_hint : (t.setPred p b).hint = t.hint := by unfold Thread.setPred; split <;> rfl
@[simp] theorem Thread.setPred_regs : (t.setPred p b).regs = t.regs := by unfold Thread.setPred; split <;> rfl
@[simp] theorem Thread.setPred_fpstat : (t.setPred p b).fpstat = t.fpstat := by unfold Thread.setPred; split <;> rfl
@[simp] theorem Thread.setPred_cm : (t.setPred p b).cm = t.cm := by unfold Thread.setPred; split <;> rfl
@[simp] theorem Thread.setPred_tr : (t.setPred p b).tr = t.tr := by unfold Thread.setPred; split <;> rfl
@[simp] theorem Thread.setPred_exited : (t.setPred p b).exited = t.exited := by unfold Thread.setPred; split <;> rfl
@[simp] theorem Thread.setPred_parked : (t.setPred p b).parked = t.parked := by unfold Thread.setPred; split <;> rfl
@[simp] theorem Thread.setPred_wait : (t.setPred p b).wait = t.wait := by unfold Thread.setPred; split <;> rfl
@[simp] theorem Thread.setPred_age : (t.setPred p b).age = t.age := by unfold Thread.setPred; split <;> rfl
@[simp] theorem Thread.setPred_holdoff : (t.setPred p b).holdoff = t.holdoff := by unfold Thread.setPred; split <;> rfl
@[simp] theorem Thread.setPred_pending : (t.setPred p b).pending = t.pending := by unfold Thread.setPred; split <;> rfl
@[simp] theorem Thread.setPred_batchNo : (t.setPred p b).batchNo = t.batchNo := by unfold Thread.setPred; split <;> rfl
@[simp] theorem Thread.setPred_batchWrap : (t.setPred p b).batchWrap = t.batchWrap := by unfold Thread.setPred; split <;> rfl
@[simp] theorem Thread.setPred_batches : (t.setPred p b).batches = t.batches := by unfold Thread.setPred; split <;> rfl
@[simp] theorem Thread.setPred_watch : (t.setPred p b).watch = t.watch := by unfold Thread.setPred; split <;> rfl
@[simp] theorem Thread.setPred_walked : (t.setPred p b).walked = t.walked := by unfold Thread.setPred; split <;> rfl
@[simp] theorem Thread.setPred_seq : (t.setPred p b).seq = t.seq := by unfold Thread.setPred; split <;> rfl
@[simp] theorem Thread.setPred_since : (t.setPred p b).since = t.since := by unfold Thread.setPred; split <;> rfl
@[simp] theorem Thread.setPred_fromHome : (t.setPred p b).fromHome = t.fromHome := by unfold Thread.setPred; split <;> rfl
@[simp] theorem Thread.setPred_fromHomeUo : (t.setPred p b).fromHomeUo = t.fromHomeUo := by unfold Thread.setPred; split <;> rfl
end setPred

section setPair
variable (t : Thread) (n : Nat) (v : BitVec 64) (g : Tag)
@[simp] theorem Thread.setPair_tidx : (t.setPair n v g).tidx = t.tidx := by unfold Thread.setPair; split <;> simp
@[simp] theorem Thread.setPair_ctl : (t.setPair n v g).ctl = t.ctl := by unfold Thread.setPair; split <;> simp
@[simp] theorem Thread.setPair_half : (t.setPair n v g).half = t.half := by unfold Thread.setPair; split <;> simp
@[simp] theorem Thread.setPair_slot : (t.setPair n v g).slot = t.slot := by unfold Thread.setPair; split <;> simp
@[simp] theorem Thread.setPair_group : (t.setPair n v g).group = t.group := by unfold Thread.setPair; split <;> simp
@[simp] theorem Thread.setPair_frag : (t.setPair n v g).frag = t.frag := by unfold Thread.setPair; split <;> simp
@[simp] theorem Thread.setPair_path : (t.setPair n v g).path = t.path := by unfold Thread.setPair; split <;> simp
@[simp] theorem Thread.setPair_pc : (t.setPair n v g).pc = t.pc := by unfold Thread.setPair; split <;> simp
@[simp] theorem Thread.setPair_hint : (t.setPair n v g).hint = t.hint := by unfold Thread.setPair; split <;> simp
@[simp] theorem Thread.setPair_preds : (t.setPair n v g).preds = t.preds := by unfold Thread.setPair; split <;> simp
@[simp] theorem Thread.setPair_fpstat : (t.setPair n v g).fpstat = t.fpstat := by unfold Thread.setPair; split <;> simp
@[simp] theorem Thread.setPair_cm : (t.setPair n v g).cm = t.cm := by unfold Thread.setPair; split <;> simp
@[simp] theorem Thread.setPair_tr : (t.setPair n v g).tr = t.tr := by unfold Thread.setPair; split <;> simp
@[simp] theorem Thread.setPair_exited : (t.setPair n v g).exited = t.exited := by unfold Thread.setPair; split <;> simp
@[simp] theorem Thread.setPair_parked : (t.setPair n v g).parked = t.parked := by unfold Thread.setPair; split <;> simp
@[simp] theorem Thread.setPair_wait : (t.setPair n v g).wait = t.wait := by unfold Thread.setPair; split <;> simp
@[simp] theorem Thread.setPair_age : (t.setPair n v g).age = t.age := by unfold Thread.setPair; split <;> simp
@[simp] theorem Thread.setPair_holdoff : (t.setPair n v g).holdoff = t.holdoff := by unfold Thread.setPair; split <;> simp
@[simp] theorem Thread.setPair_pending : (t.setPair n v g).pending = t.pending := by unfold Thread.setPair; split <;> simp
@[simp] theorem Thread.setPair_batchNo : (t.setPair n v g).batchNo = t.batchNo := by unfold Thread.setPair; split <;> simp
@[simp] theorem Thread.setPair_batchWrap : (t.setPair n v g).batchWrap = t.batchWrap := by unfold Thread.setPair; split <;> simp
@[simp] theorem Thread.setPair_batches : (t.setPair n v g).batches = t.batches := by unfold Thread.setPair; split <;> simp
@[simp] theorem Thread.setPair_watch : (t.setPair n v g).watch = t.watch := by unfold Thread.setPair; split <;> simp
@[simp] theorem Thread.setPair_walked : (t.setPair n v g).walked = t.walked := by unfold Thread.setPair; split <;> simp
@[simp] theorem Thread.setPair_seq : (t.setPair n v g).seq = t.seq := by unfold Thread.setPair; split <;> simp
@[simp] theorem Thread.setPair_since : (t.setPair n v g).since = t.since := by unfold Thread.setPair; split <;> simp
@[simp] theorem Thread.setPair_fromHome : (t.setPair n v g).fromHome = t.fromHome := by unfold Thread.setPair; split <;> simp
@[simp] theorem Thread.setPair_fromHomeUo : (t.setPair n v g).fromHomeUo = t.fromHomeUo := by unfold Thread.setPair; split <;> simp
end setPair

section set32
variable (t : Thread) (n : Nat) (v : BitVec 32) (g : Tag)
@[simp] theorem Thread.set32_tidx : (t.set32 n v g).tidx = t.tidx := by simp [Thread.set32]
@[simp] theorem Thread.set32_ctl : (t.set32 n v g).ctl = t.ctl := by simp [Thread.set32]
@[simp] theorem Thread.set32_half : (t.set32 n v g).half = t.half := by simp [Thread.set32]
@[simp] theorem Thread.set32_slot : (t.set32 n v g).slot = t.slot := by simp [Thread.set32]
@[simp] theorem Thread.set32_group : (t.set32 n v g).group = t.group := by simp [Thread.set32]
@[simp] theorem Thread.set32_frag : (t.set32 n v g).frag = t.frag := by simp [Thread.set32]
@[simp] theorem Thread.set32_path : (t.set32 n v g).path = t.path := by simp [Thread.set32]
@[simp] theorem Thread.set32_pc : (t.set32 n v g).pc = t.pc := by simp [Thread.set32]
@[simp] theorem Thread.set32_hint : (t.set32 n v g).hint = t.hint := by simp [Thread.set32]
@[simp] theorem Thread.set32_preds : (t.set32 n v g).preds = t.preds := by simp [Thread.set32]
@[simp] theorem Thread.set32_fpstat : (t.set32 n v g).fpstat = t.fpstat := by simp [Thread.set32]
@[simp] theorem Thread.set32_cm : (t.set32 n v g).cm = t.cm := by simp [Thread.set32]
@[simp] theorem Thread.set32_tr : (t.set32 n v g).tr = t.tr := by simp [Thread.set32]
@[simp] theorem Thread.set32_exited : (t.set32 n v g).exited = t.exited := by simp [Thread.set32]
@[simp] theorem Thread.set32_parked : (t.set32 n v g).parked = t.parked := by simp [Thread.set32]
@[simp] theorem Thread.set32_wait : (t.set32 n v g).wait = t.wait := by simp [Thread.set32]
@[simp] theorem Thread.set32_age : (t.set32 n v g).age = t.age := by simp [Thread.set32]
@[simp] theorem Thread.set32_holdoff : (t.set32 n v g).holdoff = t.holdoff := by simp [Thread.set32]
@[simp] theorem Thread.set32_pending : (t.set32 n v g).pending = t.pending := by simp [Thread.set32]
@[simp] theorem Thread.set32_batchNo : (t.set32 n v g).batchNo = t.batchNo := by simp [Thread.set32]
@[simp] theorem Thread.set32_batchWrap : (t.set32 n v g).batchWrap = t.batchWrap := by simp [Thread.set32]
@[simp] theorem Thread.set32_batches : (t.set32 n v g).batches = t.batches := by simp [Thread.set32]
@[simp] theorem Thread.set32_watch : (t.set32 n v g).watch = t.watch := by simp [Thread.set32]
@[simp] theorem Thread.set32_walked : (t.set32 n v g).walked = t.walked := by simp [Thread.set32]
@[simp] theorem Thread.set32_seq : (t.set32 n v g).seq = t.seq := by simp [Thread.set32]
@[simp] theorem Thread.set32_since : (t.set32 n v g).since = t.since := by simp [Thread.set32]
@[simp] theorem Thread.set32_fromHome : (t.set32 n v g).fromHome = t.fromHome := by simp [Thread.set32]
@[simp] theorem Thread.set32_fromHomeUo : (t.set32 n v g).fromHomeUo = t.fromHomeUo := by simp [Thread.set32]
end set32

section retire
variable (t : Thread) 
@[simp] theorem Thread.retire_tidx : (t.retire).tidx = t.tidx := rfl
@[simp] theorem Thread.retire_ctl : (t.retire).ctl = t.ctl := rfl
@[simp] theorem Thread.retire_half : (t.retire).half = t.half := rfl
@[simp] theorem Thread.retire_slot : (t.retire).slot = t.slot := rfl
@[simp] theorem Thread.retire_group : (t.retire).group = t.group := rfl
@[simp] theorem Thread.retire_frag : (t.retire).frag = t.frag := rfl
@[simp] theorem Thread.retire_path : (t.retire).path = t.path := rfl
@[simp] theorem Thread.retire_regs : (t.retire).regs = t.regs := rfl
@[simp] theorem Thread.retire_preds : (t.retire).preds = t.preds := rfl
@[simp] theorem Thread.retire_fpstat : (t.retire).fpstat = t.fpstat := rfl
@[simp] theorem Thread.retire_cm : (t.retire).cm = t.cm := rfl
@[simp] theorem Thread.retire_tr : (t.retire).tr = t.tr := rfl
@[simp] theorem Thread.retire_exited : (t.retire).exited = t.exited := rfl
@[simp] theorem Thread.retire_parked : (t.retire).parked = t.parked := rfl
@[simp] theorem Thread.retire_pending : (t.retire).pending = t.pending := rfl
@[simp] theorem Thread.retire_batchNo : (t.retire).batchNo = t.batchNo := rfl
@[simp] theorem Thread.retire_batchWrap : (t.retire).batchWrap = t.batchWrap := rfl
@[simp] theorem Thread.retire_batches : (t.retire).batches = t.batches := rfl
@[simp] theorem Thread.retire_watch : (t.retire).watch = t.watch := rfl
@[simp] theorem Thread.retire_seq : (t.retire).seq = t.seq := rfl
@[simp] theorem Thread.retire_since : (t.retire).since = t.since := rfl
@[simp] theorem Thread.retire_fromHome : (t.retire).fromHome = t.fromHome := rfl
@[simp] theorem Thread.retire_fromHomeUo : (t.retire).fromHomeUo = t.fromHomeUo := rfl
@[simp] theorem Thread.retire_pc : t.retire.pc = t.nextPc := rfl
@[simp] theorem Thread.retire_hint : t.retire.hint = none := rfl
@[simp] theorem Thread.retire_wait : t.retire.wait = none := rfl
@[simp] theorem Thread.retire_walked : t.retire.walked = [] := rfl
@[simp] theorem Thread.retire_age : t.retire.age = 0 := rfl
@[simp] theorem Thread.retire_holdoff : t.retire.holdoff = t.hintHold := rfl
end retire

end Sys2Proof.Machine
end

