-- ==== Sys2Proof/Laws/Threads.lean ====
section
/-! SUPPORT. Reading a thread after one is changed, and what happens after every instruction to the fragments of its
groups: threads park, fragments are numbered anew, and nothing else changes. -/

namespace Sys2Proof.Machine

open Sys2Proof

/-! ## One thread, one team -/

theorem getD_modify_eq {α : Type} (l : List α) (n : Nat) (f : α → α) (d : α) (h : n < l.length) :
    (l.modify n f).getD n d = f (l.getD n d) := by
  simp [List.getD, h]

theorem getD_modify_ne {α : Type} (l : List α) (n k : Nat) (f : α → α) (d : α) (h : n ≠ k) :
    (l.modify n f).getD k d = l.getD k d := by
  simp [List.getD, h]

theorem getD_map {α : Type} (l : List α) (f : α → α) (n : Nat) (d : α) (h : f d = d) :
    (l.map f).getD n d = f (l.getD n d) := by
  simp only [List.getD, List.getElem?_map]
  cases l[n]? <;> simp [h]

theorem team_modTeam_eq (s : State) (t : Nat) (f : Team → Team) (h : t < s.teams.length) :
    (s.modTeam t f).team t = f (s.team t) := getD_modify_eq _ _ _ _ h

theorem team_modTeam_ne (s : State) (t n : Nat) (f : Team → Team) (h : t ≠ n) : (s.modTeam t f).team n = s.team n :=
  getD_modify_ne _ _ _ _ _ h

theorem modTeam_out (s : State) (t : Nat) (f : Team → Team) (h : s.teams.length ≤ t) : s.modTeam t f = s := by
  simp only [State.modTeam, List.modify_eq_self h]

theorem thr_modThr_eq (s : State) (r : Ref) (f : Thread → Thread) (h : s.has r) :
    (s.modThr r f).thr r = f (s.thr r) := by
  simp only [State.thr, State.modThr]
  rw [team_modTeam_eq _ _ _ h.1]
  exact getD_modify_eq _ _ _ _ h.2

theorem thr_modThr_ne (s : State) (r q : Ref) (f : Thread → Thread) (h : r ≠ q) : (s.modThr r f).thr q = s.thr q := by
  simp only [State.thr, State.modThr]
  by_cases ht : r.team = q.team
  · by_cases hl : r.team < s.teams.length
    · rw [← ht, team_modTeam_eq _ _ _ hl]
      refine getD_modify_ne _ _ _ _ _ fun hk => h ?_
      cases r; cases q; simp_all
    · rw [modTeam_out _ _ _ (by omega)]
  · rw [team_modTeam_ne _ _ _ _ ht]

theorem has_modThr (s : State) (r q : Ref) (f : Thread → Thread) : (s.modThr r f).has q ↔ s.has q := by
  unfold State.modThr
  by_cases hl : r.team < s.teams.length
  · simp only [State.has, State.modTeam_teams, List.length_modify]
    by_cases ht : r.team = q.team
    · rw [← ht, team_modTeam_eq _ _ _ hl]; simp
    · rw [team_modTeam_ne _ _ _ _ ht]
  · rw [modTeam_out _ _ _ (by omega)]

/-! ## A change of every thread of a list -/

/-- Every thread of a list is changed, each as `f` says of it. -/
def State.each (s : State) (rs : List Ref) (f : Ref → Thread → Thread) : State :=
  rs.foldl (fun x r => x.modThr r (f r)) s

@[simp] theorem each_nil (s : State) (f : Ref → Thread → Thread) : s.each [] f = s := rfl
@[simp] theorem each_cons (s : State) (r : Ref) (rs : List Ref) (f : Ref → Thread → Thread) :
    s.each (r :: rs) f = (s.modThr r (f r)).each rs f := rfl

theorem each_rest (s : State) (rs : List Ref) (f : Ref → Thread → Thread) : { s.each rs f with teams := s.teams } = s := by
  induction rs generalizing s with
  | nil => rfl
  | cons r rs ih =>
    have := ih (s.modThr r (f r))
    calc { (s.modThr r (f r)).each rs f with teams := s.teams }
        = { ({ (s.modThr r (f r)).each rs f with teams := (s.modThr r (f r)).teams } : State) with teams := s.teams } := rfl
      _ = { s.modThr r (f r) with teams := s.teams } := by rw [this]
      _ = s := rfl

theorem has_each (s : State) (rs : List Ref) (f : Ref → Thread → Thread) (q : Ref) : (s.each rs f).has q ↔ s.has q := by
  induction rs generalizing s with
  | nil => rfl
  | cons r rs ih => rw [each_cons, ih, has_modThr]

theorem thr_each_notMem (s : State) (rs : List Ref) (f : Ref → Thread → Thread) (q : Ref) (h : q ∉ rs) :
    (s.each rs f).thr q = s.thr q := by
  induction rs generalizing s with
  | nil => rfl
  | cons r rs ih =>
    rw [each_cons, ih _ (fun hm => h (List.mem_cons_of_mem _ hm)),
      thr_modThr_ne _ _ _ _ fun he => h (by simp [he])]

theorem thr_each_mem (s : State) (rs : List Ref) (f : Ref → Thread → Thread) (q : Ref) (hn : rs.Nodup) (hq : s.has q)
    (h : q ∈ rs) : (s.each rs f).thr q = f q (s.thr q) := by
  induction rs generalizing s with
  | nil => simp at h
  | cons r rs ih =>
    rw [List.nodup_cons] at hn
    rw [each_cons]
    by_cases he : q = r
    · subst he
      rw [thr_each_notMem _ _ _ _ hn.1, thr_modThr_eq _ _ _ hq]
    · have hm : q ∈ rs := by simpa [he] using h
      rw [ih _ hn.2 ((has_modThr _ _ _ _).2 hq) hm, thr_modThr_ne _ _ _ _ fun e => he e.symm]

/-! ## Behind the veil -/

@[simp] theorem Thread.veil_veil (t : Thread) : t.veil.veil = t.veil := rfl

theorem veil_map {α : Type} (l : List α) (v f : α → α) (n : Nat) (h : ∀ x, v (f x) = v x) :
    (l.modify n f).map v = l.map v := by
  apply List.ext_getElem?
  intro k
  simp only [List.getElem?_map, List.getElem?_modify]
  cases l[k]? with
  | none => rfl
  | some x => by_cases hk : n = k <;> simp [hk, h]

/-- A team's change that the veil hides. -/
theorem veil_modTeam (s : State) (t : Nat) (f : Team → Team) (h : ∀ x, (f x).veil = x.veil) :
    (s.modTeam t f).veil = s.veil := by
  simp only [State.veil, State.modTeam, veil_map _ _ _ _ h]

/-- A thread's change that the veil hides. -/
theorem veil_modThr (s : State) (r : Ref) (f : Thread → Thread) (h : ∀ x, (f x).veil = x.veil) :
    (s.modThr r f).veil = s.veil :=
  veil_modTeam _ _ _ fun x => by simp only [Team.veil, veil_map _ _ _ _ h]

theorem veil_modGroup (s : State) (t g : Nat) (f : Group → Group) (h : ∀ x, (f x).veil = x.veil) :
    (s.modGroup t g f).veil = s.veil :=
  veil_modTeam _ _ _ fun x => by simp only [Team.veil, veil_map _ _ _ _ h]

theorem veil_foldl {β : Type} (l : List β) (f : State → β → State) (h : ∀ s b, (f s b).veil = s.veil) (s : State) :
    (l.foldl f s).veil = s.veil := by
  induction l generalizing s with
  | nil => rfl
  | cons b l ih => rw [List.foldl_cons, ih, h]

theorem veil_park (s : State) (rs : List Ref) : (s.park rs).veil = s.veil :=
  veil_foldl _ _ (fun x r => by split <;> first | rfl | exact veil_modThr _ _ _ fun _ => rfl) s

theorem veil_relabel (s : State) (rs : List Ref) : (s.relabel rs).veil = s.veil := by
  unfold State.relabel
  refine veil_foldl _ _ (fun x f => ?_) s
  refine veil_foldl _ _ (fun x run => ?_) x
  refine veil_foldl _ _ (fun x p => ?_) x
  exact veil_modThr x _ _ fun _ => rfl

/-- What follows every instruction is hidden by the veil (R185, R189). -/
theorem veil_settleAll (s : State) (rs : List Ref) : (s.settleAll rs).veil = s.veil :=
  veil_foldl _ _ (fun x p => by rw [State.settle, veil_relabel, veil_park]) s

/-- Counting retired instructions is hidden by the veil (R211). -/
theorem veil_countRetired (s : State) (rs : List Ref) : (s.countRetired rs).veil = s.veil :=
  veil_foldl _ _ (fun x p => by exact veil_modGroup x _ _ _ fun _ => rfl) s

/-- Noting where the lanes of a bundle have gone is hidden by the veil (R185). -/
theorem veil_notePath (s0 s : State) (go : List Ref) : (s0.notePath s go).veil = s.veil :=
  veil_foldl _ _ (fun x r => veil_modThr x r _ fun u => by unfold Thread.noteUnit; split <;> rfl) s

theorem team_veil (s : State) (t : Nat) : s.veil.team t = (s.team t).veil := getD_map _ _ _ _ rfl

theorem thr_veil (s : State) (r : Ref) : s.veil.thr r = (s.thr r).veil := by
  simp only [State.thr, team_veil]
  exact getD_map _ _ _ _ rfl

/-- States alike behind the veil have threads alike behind it. -/
theorem thr_of_veil {s t : State} (h : s.veil = t.veil) (r : Ref) : (s.thr r).veil = (t.thr r).veil := by
  rw [← thr_veil, ← thr_veil, h]

theorem team_of_veil {s t : State} (h : s.veil = t.veil) (n : Nat) : (s.team n).veil = (t.team n).veil := by
  rw [← team_veil, ← team_veil, h]

end Sys2Proof.Machine
end

