-- ==== Sys2Proof/Laws/Perform.lean ====
section
/-! SUPPORT. What issuing one instruction for a bundle does: when no lane waits or fails, every lane retires the word and
those whose guard is true perform it; when a lane fails, its group performs nothing and traps. -/

namespace Sys2Proof.Machine

open Sys2Proof

/-- No lane of the bundle waits or fails. -/
def State.clear (s : State) (v : Ref → Verdict) : Prop := ∀ r ∈ s.cur, v r = .run ∨ v r = .off

theorem clear_fault {s : State} {v : Ref → Verdict} (h : s.clear v) {r : Ref} (hr : r ∈ s.cur) :
    (v r).fault? = none ∧ (v r).wait? = none ∧ (v r).walks = false := by
  rcases h r hr with e | e <;> simp [e, Verdict.fault?, Verdict.wait?, Verdict.walks]

theorem badLanes_clear {s : State} {v : Ref → Verdict} (h : s.clear v) : s.badLanes v = [] := by
  refine List.filter_eq_nil_iff.2 fun r _ => ?_
  have : s.anyLane r (fun q => (v q).fault?.isSome) = false :=
    List.any_eq_false.2 fun q hq => by simp [(clear_fault h hq).1]
  simp [this]

theorem stalledLanes_clear {s : State} {v : Ref → Verdict} (h : s.clear v) : s.stalledLanes v = [] := by
  refine List.filter_eq_nil_iff.2 fun r hr => ?_
  have : s.anyLane r (fun q => (v q).walks) = false :=
    List.any_eq_false.2 fun q hq => by simp [(clear_fault h hq).2.2]
  simp [this, (clear_fault h hr).2.1]

theorem goLanes_clear {s : State} {v : Ref → Verdict} (h : s.clear v) : s.goLanes v = s.cur := by
  simp [State.goLanes, badLanes_clear h, stalledLanes_clear h]

theorem runLanes_clear {s : State} {v : Ref → Verdict} (h : s.clear v) :
    s.runLanes v = s.cur.filter fun r => v r == .run := by
  rw [State.runLanes, goLanes_clear h]

/-- With no lane that waits or fails: every lane retires the word, then it is performed for those that run. -/
theorem perform_clear {s : State} {v : Ref → Verdict} (act : State → List Ref → State) (h : s.clear v) :
    s.perform v act =
      ((s.notePath (act (s.each s.cur fun _ => Thread.retire) (s.cur.filter fun r => v r == .run)) s.cur).countRetired
        s.cur).settleAll s.cur := by
  simp only [State.perform, State.trapBad, State.waitStalled, goLanes_clear h, runLanes_clear h, badLanes_clear h,
    stalledLanes_clear h, State.fragLeads, List.filter_nil, List.foldl_nil]
  rfl

theorem perform_veil {s : State} {v : Ref → Verdict} (act : State → List Ref → State) (h : s.clear v) :
    (s.perform v act).veil =
      (act (s.each s.cur fun _ => Thread.retire) (s.cur.filter fun r => v r == .run)).veil := by
  rw [perform_clear act h, veil_settleAll, veil_countRetired, veil_notePath]

/-! ## Words that act on their lanes alone -/

/-- What a word does is, behind the veil, a change of the threads that run, each as `f` says of it. -/
def ActsOn (act : State → List Ref → State) (f : List Ref → Ref → Thread → Thread) : Prop :=
  ∀ s rs, (act s rs).veil = (s.each rs (f rs)).veil

/-- The lanes that run. -/
def State.running (s : State) (v : Ref → Verdict) : List Ref := s.cur.filter fun r => v r == .run

variable {s : State} {v : Ref → Verdict} {act : State → List Ref → State} {f : List Ref → Ref → Thread → Thread}

theorem acts_veil (ha : ActsOn act f) (h : s.clear v) :
    (s.perform v act).veil = ((s.each s.cur fun _ => Thread.retire).each (s.running v) (f (s.running v))).veil := by
  rw [perform_veil act h]
  exact ha _ _

theorem each_each_rest (s : State) (rs qs : List Ref) (f g : Ref → Thread → Thread) :
    { (s.each rs f).each qs g with teams := s.teams } = s := by
  have h := each_rest (s.each rs f) qs g
  calc { (s.each rs f).each qs g with teams := s.teams }
      = { ({ (s.each rs f).each qs g with teams := (s.each rs f).teams } : State) with teams := s.teams } := rfl
    _ = { s.each rs f with teams := s.teams } := by rw [h]
    _ = s := each_rest s rs f

/-- All of the state but the teams and the count of free values is what it was. -/
theorem acts_rest (ha : ActsOn act f) (h : s.clear v) :
    { s.perform v act with teams := s.teams, drawn := s.drawn } = s := by
  have e := congrArg (fun x : State => ({ x with teams := s.teams, drawn := s.drawn } : State)) (acts_veil ha h)
  have e' := congrArg (fun x : State => ({ x with drawn := s.drawn } : State))
    (each_each_rest s s.cur (s.running v) (fun _ => Thread.retire) (f (s.running v)))
  exact e.trans e'

/-- A lane's thread after the word, behind the veil. -/
theorem acts_thr (ha : ActsOn act f) (h : s.clear v) (hb : s.bundled) {r : Ref} (hr : r ∈ s.cur) :
    ((s.perform v act).thr r).veil =
      (if v r = .run then f (s.running v) r (s.thr r).retire else (s.thr r).retire).veil := by
  rw [thr_of_veil (acts_veil ha h) r]
  have hn : (s.running v).Nodup := hb.1.filter _
  by_cases hv : v r = .run
  · rw [thr_each_mem _ _ _ _ hn ((has_each _ _ _ _).2 (hb.2 r hr)) (by simp [State.running, hr, hv]),
      thr_each_mem _ _ _ _ hb.1 (hb.2 r hr) hr, if_pos hv]
  · rw [thr_each_notMem _ _ _ _ (by simp [State.running, hv]), thr_each_mem _ _ _ _ hb.1 (hb.2 r hr) hr, if_neg hv]

/-- Every other thread is as it was, behind the veil. -/
theorem acts_others (ha : ActsOn act f) (h : s.clear v) {r : Ref} (hr : r ∉ s.cur) :
    ((s.perform v act).thr r).veil = (s.thr r).veil := by
  rw [thr_of_veil (acts_veil ha h) r, thr_each_notMem _ _ _ _ (by simp [State.running, hr]), thr_each_notMem _ _ _ _ hr]

theorem each_team (s : State) (rs : List Ref) (f : Ref → Thread → Thread) (n : Nat) :
    { (s.each rs f).team n with threads := [] } = { s.team n with threads := [] } := by
  induction rs generalizing s with
  | nil => rfl
  | cons r rs ih =>
    rw [each_cons, ih]
    unfold State.modThr
    by_cases hl : r.team < s.teams.length
    · by_cases ht : r.team = n
      · subst ht; rw [team_modTeam_eq _ _ _ hl]
      · rw [team_modTeam_ne _ _ _ _ ht]
    · rw [modTeam_out _ _ _ (by omega)]

/-- A team's own registers, tables and storage are as they were, behind the veil. -/
theorem acts_team (ha : ActsOn act f) (h : s.clear v) (n : Nat) :
    { ((s.perform v act).team n).veil with threads := [] } = { (s.team n).veil with threads := [] } := by
  rw [team_of_veil (acts_veil ha h) n]
  have e := (each_team (s.each s.cur fun _ => Thread.retire) (s.running v) (f (s.running v)) n).trans
    (each_team s s.cur (fun _ => Thread.retire) n)
  exact congrArg Team.veil e

end Sys2Proof.Machine
end

