-- ==== Sys2Proof/Laws/Complete.lean ====
section
/-! SUPPORT. The words that act on their lanes alone complete, and what they leave. -/

namespace Sys2Proof.Machine

open Sys2Proof

/-- An accepted word is judged by its guard and its own check. -/
theorem judge_accepts {s : State} {i : Instr} {own : Ref → Verdict} {r : Ref} (h : s.accepts i r = true)
    (ho : (s.thr r).active i = true → own r = .run) :
    s.judge i own r = if (s.thr r).active i then .run else .off := by
  simp only [State.accepts, Bool.and_eq_true, Bool.or_eq_true, Bool.not_eq_true'] at h
  obtain ⟨⟨⟨h1, h2⟩, h3⟩, h4⟩ := h
  unfold Thread.active at *
  simp only [State.judge, State.judgeWord, h1, h2, h3]
  by_cases hg : (s.thr r).pred (infoOf i).g = true
  · rcases h4 with h4 | h4
    · simp [hg] at h4
    · obtain ⟨⟨⟨h5, h6⟩, h7⟩, h8⟩ := h4
      simp only [Option.isNone_iff_eq_none] at h7
      simp [hg, h5, h6, h7, h8, joinRegion, ho hg]
  · simp [hg]

theorem clear_of_issues {s : State} {i : Instr} {own : Ref → Verdict} {p : Thread → Prop} (h : s.issues i p)
    (ho : ∀ r ∈ s.cur, (s.thr r).active i = true → p (s.thr r) → own r = .run) : s.clear (s.judge i own) := by
  intro r hr
  rw [judge_accepts (h.2 r hr).1 fun ha => ho r hr ha ((h.2 r hr).2 ha)]
  split <;> simp

/-- The lanes that run an accepted word are those whose guard is true. -/
theorem running_of_issues {s : State} {i : Instr} {own : Ref → Verdict} {p : Thread → Prop} (h : s.issues i p)
    (ho : ∀ r ∈ s.cur, (s.thr r).active i = true → p (s.thr r) → own r = .run) :
    s.running (s.judge i own) = s.active i := by
  refine List.filter_congr fun r hr => ?_
  rw [judge_accepts (h.2 r hr).1 fun ha => ho r hr ha ((h.2 r hr).2 ha)]
  show _ = (s.thr r).active i
  split <;> simp_all

/-- `Lane` does not see behind the veil. -/
theorem Lane.of_veil {u v w : Thread} {f : Nat → Option Reg} {p : BitVec 3 → Bool} {c : BitVec 32} {a : BitVec 64}
    (h : v.veil = w.veil) (hl : Lane u w f p c a) : Lane u v f p c a where
  reg n := (congrArg (fun x : Thread => x.reg n) h).trans (hl.reg n)
  preds q := (congrArg (fun x : Thread => x.pred q) h).trans (hl.preds q)
  fpstat := (congrArg (·.fpstat) h).trans hl.fpstat
  pc := (congrArg (·.pc) h).trans hl.pc
  hint := (congrArg (·.hint) h).trans hl.hint
  rest := (congrArg Thread.rest h).trans hl.rest

theorem reg_nothing (u : Thread) (n : Nat) : u.reg n = if n = 0 then zeroReg else ((nothing n).getD (u.reg n)) := by
  by_cases h : n = 0 <;> simp [Thread.reg, nothing, h]

theorem idle_retire (u : Thread) : Idle u u.retire := ⟨reg_nothing u, fun _ => rfl, rfl, rfl, rfl, rfl⟩

theorem lanesOnly_of_acts {s : State} {v : Ref → Verdict} {act : State → List Ref → State}
    {f : List Ref → Ref → Thread → Thread} (ha : ActsOn act f) (h : s.clear v) : LanesOnly s (s.perform v act) where
  threads r hr := acts_others ha h hr
  memory a := by
    have e := congrArg State.mem (acts_rest ha h)
    exact congrArg (fun m : Mem => readByte m a) e
  teams n := acts_team ha h n
  rest := acts_rest ha h

/-- A property of a lane's thread that does not depend on its place among the fragments. -/
def Veiled (p : Thread → Thread → Prop) : Prop := ∀ u v w, v.veil = w.veil → p u w → p u v

/-- A word that acts on its lanes alone completes, if its own check passes and its effect has the property. -/
theorem completesAt_of_acts {s : State} {i : Instr} {own : Ref → Verdict} {act : State → List Ref → State}
    {f : List Ref → Ref → Thread → Thread} {q : Thread → Prop} {p : Ref → Thread → Thread → Prop}
    (he : exec i s = .next (s.perform (s.judge i own) act)) (ha : ActsOn act f) (hi : s.issues i q)
    (ho : ∀ r ∈ s.cur, (s.thr r).active i = true → q (s.thr r) → own r = .run) (hv : ∀ r, Veiled (p r))
    (hp : ∀ r ∈ s.cur, (s.thr r).active i = true → q (s.thr r) →
      p r (s.thr r) (f (s.active i) r (s.thr r).retire)) : CompletesAt i s p := by
  have hc := clear_of_issues hi ho
  refine ⟨_, he, lanesOnly_of_acts ha hc, fun r hm => ?_⟩
  have ht := acts_thr ha hc hi.1 hm
  have hj := judge_accepts (hi.2 r hm).1 fun ha => ho r hm ha ((hi.2 r hm).2 ha)
  rw [running_of_issues hi ho] at ht
  by_cases hg : (s.thr r).active i = true
  · rw [if_pos hg]
    rw [if_pos hg] at hj
    rw [if_pos hj] at ht
    exact hv _ _ _ _ ht (hp _ hm hg ((hi.2 r hm).2 hg))
  · rw [if_neg hg]
    rw [if_neg hg] at hj
    rw [if_neg (by rw [hj]; simp)] at ht
    exact (idle_retire _).of_veil ht

/-- A word that changes each lane's thread by itself. -/
theorem completes_lanewise {s : State} {i : Instr} {own : Ref → Verdict} {f : Thread → Thread → Thread}
    {q : Thread → Prop} {p : Thread → Thread → Prop} (he : exec i s = .next (s.lanewise i own f)) (hr : s.issues i q)
    (ho : ∀ r ∈ s.cur, (s.thr r).active i = true → q (s.thr r) → own r = .run) (hv : Veiled p)
    (hp : ∀ u, u.active i = true → q u → p u (f u u.retire)) : Completes i s p :=
  completesAt_of_acts (f := fun _ r => f (s.thr r)) he (fun _ _ => rfl) hr ho (fun _ => hv)
    fun _ _ hg hq => hp _ hg hq

/-- A word that reads registers and acts on its lanes alone completes where none of them is poisoned. -/
theorem completes_register {s : State} {i : Instr} {f : Thread → Thread → Thread} {p : Thread → Thread → Prop}
    (he : exec i s = .next (s.register i f)) (hr : s.issues i (Clean i)) (hv : Veiled p)
    (hp : ∀ u, p u (f u u.retire)) : Completes i s p :=
  completes_lanewise he hr (fun r _ _ hq => by simp [State.srcCheck, State.poisonCheck, show (s.thr r).poisoned _ = false from hq])
    hv fun u _ _ => hp u

theorem veiled_lane (f : Thread → Nat → Option Reg) (p : Thread → BitVec 3 → Bool) (c : Thread → BitVec 32)
    (a : Thread → BitVec 64) : Veiled fun u v => Lane u v (f u) (p u) (c u) (a u) :=
  fun _ _ _ h hl => hl.of_veil h

/-! ## Writing registers and predicates -/

theorem reg_setReg (t : Thread) (n m : Nat) (x : Reg) (hn : n < 64) :
    (t.setReg n x).reg m = if m = 0 then zeroReg else if m = n then x else t.reg m := by
  by_cases hm : m = 0
  · simp [Thread.reg, hm]
  · by_cases h0 : n = 0
    · simp [Thread.setReg, h0, hm]
    · by_cases he : m = n
      · subst he
        simp [Thread.setReg, Thread.reg, hm, hn]
      · simp only [Thread.setReg, Thread.reg, h0, hm, he, if_false]
        rw [Vector.getElem?_setIfInBounds_ne (Ne.symm he)]

@[simp] theorem reg_retire (t : Thread) (n : Nat) : t.retire.reg n = t.reg n := rfl
@[simp] theorem pred_retire (t : Thread) (p : BitVec 3) : t.retire.pred p = t.pred p := rfl

@[simp] theorem pred_setReg (t : Thread) (n : Nat) (x : Reg) (p : BitVec 3) : (t.setReg n x).pred p = t.pred p := by
  simp [Thread.pred]

@[simp] theorem rest_setReg (t : Thread) (n : Nat) (x : Reg) : (t.setReg n x).rest = t.rest := by
  unfold Thread.setReg; split <;> rfl

@[simp] theorem rest_retire (t : Thread) : t.retire.rest = t.rest := rfl

theorem pred_setPred (t : Thread) (p q : BitVec 3) (b : Bool) : (t.setPred p b).pred q = predsWith t p b q := by
  unfold Thread.setPred predsWith
  by_cases hq : q = 0#3
  · subst hq; simp [Thread.pred]
  · by_cases hp : p = 0#3
    · subst hp; simp [hq]
    · have hl : q.toNat < 8 := q.isLt
      by_cases he : q = p
      · subst he; cases b <;> simp_all [Thread.pred]
      · have hn : q.toNat ≠ p.toNat := fun h => he (BitVec.eq_of_toNat_eq h)
        have hd : q.toNat < p.toNat ∨ (¬ q.toNat < p.toNat ∧ q.toNat - p.toNat ≠ 0) := by omega
        rcases hd with h | h <;> cases b <;> simp_all [Thread.pred]

@[simp] theorem rest_setPred (t : Thread) (p : BitVec 3) (b : Bool) : (t.setPred p b).rest = t.rest := by
  unfold Thread.setPred; split <;> rfl

theorem reg_setPred (t : Thread) (p : BitVec 3) (b : Bool) (n : Nat) : (t.setPred p b).reg n = t.reg n := by
  simp [Thread.reg]

/-- A word that writes one register. -/
theorem gives_setReg (u : Thread) (d : BitVec 6) (x : Thread → Reg) : Gives d x u (u.retire.setReg d.toNat (x u)) where
  reg n := by
    rw [reg_setReg _ _ _ _ (by omega)]
    by_cases h : n = d.toNat <;> simp [one, h]
  preds q := by simp
  fpstat := by simp
  pc := by simp
  hint := by simp
  rest := by simp

/-- A word that writes one predicate. -/
theorem sets_setPred (u : Thread) (p : BitVec 3) (b : Thread → Bool) : Sets p b u (u.retire.setPred p (b u)) where
  reg n := by rw [reg_setPred]; exact reg_nothing u n
  preds q := pred_setPred u.retire p q (b u)
  fpstat := by simp
  pc := by simp
  hint := by simp
  rest := by simp

end Sys2Proof.Machine
end

