-- ==== Sys2Proof/Laws/Memory.lean ====
section
/-! SUPPORT. Reading after writing, and the canonical form, which every write keeps and in which equal contents are equal
lists. -/

namespace Sys2Proof.Machine

open Sys2Proof

/-! ## The canonical form -/

theorem memWfFrom_mono {m : Mem} {lo lo' : Nat} (h : memWfFrom lo m = true) (hl : lo' ≤ lo) :
    memWfFrom lo' m = true := by
  cases m with
  | nil => rfl
  | cons c m =>
    simp only [memWfFrom, Bool.and_eq_true, decide_eq_true_eq] at h ⊢
    exact ⟨⟨by omega, h.1.2⟩, h.2⟩

theorem memWfFrom_above {c : Host.Cell} {m : Mem} {lo a : Nat} (h : memWfFrom lo (c :: m) = true) (ha : a < c.1) :
    memWfFrom (a + 1) (c :: m) = true := by
  simp only [memWfFrom, Bool.and_eq_true, decide_eq_true_eq] at h ⊢
  exact ⟨⟨ha, h.1.2⟩, h.2⟩

theorem consByte_wf {m : Mem} {lo a : Nat} (b : Byte) (hl : lo ≤ a) (h : memWfFrom (a + 1) m = true) :
    memWfFrom lo (consByte a b m) = true := by
  unfold consByte
  split
  · exact memWfFrom_mono h (by omega)
  · simp_all [memWfFrom]

/-- A byte written keeps the form. -/
theorem writeByte_wf {m : Mem} {lo a : Nat} (b : Byte) (hl : lo ≤ a) (h : memWfFrom lo m = true) :
    memWfFrom lo (writeByte m a b) = true := by
  induction m generalizing lo with
  | nil => exact consByte_wf b hl rfl
  | cons c m ih =>
    have h' := h
    simp only [memWfFrom, Bool.and_eq_true, decide_eq_true_eq] at h
    unfold writeByte
    split
    · exact consByte_wf b hl (by simp_all)
    · split
      · exact consByte_wf b hl (memWfFrom_above h' (by omega))
      · simp only [memWfFrom, Bool.and_eq_true, decide_eq_true_eq]
        exact ⟨h.1, ih (by omega) h.2⟩

theorem writeBytes_wfFrom {m : Mem} {lo a : Nat} (bs : List Byte) (hl : lo ≤ a) (h : memWfFrom lo m = true) :
    memWfFrom lo (writeBytes m a bs) = true := by
  induction bs generalizing m a with
  | nil => exact h
  | cons b bs ih => exact ih (by omega) (writeByte_wf b hl h)

/-- Bytes written keep the form. -/
@[simp] theorem writeBytes_wf {m : Mem} {a : Nat} (bs : List Byte) (h : Memory.wf m = true) :
    Memory.wf (writeBytes m a bs) = true := writeBytes_wfFrom bs (Nat.zero_le a) h

@[simp] theorem writeLe_wf {m : Mem} {a n v : Nat} (h : Memory.wf m = true) : Memory.wf (writeLe m a n v) = true :=
  writeBytes_wf _ h

theorem filter_wfFrom {m : Mem} {lo : Nat} (p : Host.Cell → Bool) (h : memWfFrom lo m = true) :
    memWfFrom lo (m.filter p) = true := by
  induction m generalizing lo with
  | nil => rfl
  | cons c m ih =>
    simp only [memWfFrom, Bool.and_eq_true, decide_eq_true_eq] at h
    by_cases hp : p c = true
    · rw [List.filter_cons_of_pos hp]
      simp only [memWfFrom, Bool.and_eq_true, decide_eq_true_eq]
      exact ⟨h.1, ih h.2⟩
    · rw [List.filter_cons_of_neg hp]
      exact memWfFrom_mono (ih h.2) (by omega)

/-- Leaving out entries keeps the form. -/
@[simp] theorem filter_wf {m : Mem} (p : Host.Cell → Bool) (h : Memory.wf m = true) :
    Memory.wf (m.filter p) = true := filter_wfFrom p h

@[simp] theorem clearBytes_wf {m : Mem} {a n : Nat} (h : Memory.wf m = true) : Memory.wf (clearBytes m a n) = true :=
  filter_wf _ h

@[simp] theorem nil_wf : Memory.wf [] = true := rfl

/-! ## Reading -/

/-- Nothing is listed below the least address. -/
theorem readByte_below {m : Mem} {lo a : Nat} (h : memWfFrom lo m = true) (ha : a < lo) : readByte m a = 0 := by
  cases m with
  | nil => rfl
  | cons c m =>
    simp only [memWfFrom, Bool.and_eq_true, decide_eq_true_eq] at h
    simp [readByte, show a ≠ c.1 by omega, show a < c.1 by omega]

theorem readByte_consByte {m : Mem} {a x : Nat} (b : Byte) (h : memWfFrom (a + 1) m = true) :
    readByte (consByte a b m) x = if x = a then b else if x < a then 0 else readByte m x := by
  unfold consByte
  split
  · split
    · simp_all [readByte_below h (Nat.lt_succ_self a)]
    · split
      · exact readByte_below h (by omega)
      · rfl
  · rfl

theorem readByte_writeByte_from {m : Mem} {lo a x : Nat} (b : Byte) (h : memWfFrom lo m = true) :
    readByte (writeByte m a b) x = if x = a then b else readByte m x := by
  induction m generalizing lo with
  | nil => simp [writeByte, readByte_consByte b (m := []) rfl, readByte]
  | cons c m ih =>
    have h' := h
    simp only [memWfFrom, Bool.and_eq_true, decide_eq_true_eq] at h
    unfold writeByte
    split
    · rename_i he
      subst he
      rw [readByte_consByte b h.2]
      simp only [readByte]
      split <;> simp_all
    · split
      · rw [readByte_consByte b (memWfFrom_above h' (by omega))]
        split
        · rfl
        · split
          · simp [readByte, show x ≠ c.1 by omega, show x < c.1 by omega]
          · rfl
      · simp only [readByte, ih h.2]
        split
        · simp_all
          omega
        · split
          · simp_all
            omega
          · rfl

/-- A byte written reads back, and every other byte reads as before. -/
theorem readByte_writeByte {m : Mem} {a x : Nat} (b : Byte) (h : Memory.wf m = true) :
    readByte (writeByte m a b) x = if x = a then b else readByte m x := readByte_writeByte_from b h

/-- Bytes written read back, and every other byte reads as before. -/
theorem readByte_writeBytes {m : Mem} {a x : Nat} (bs : List Byte) (h : Memory.wf m = true) :
    readByte (writeBytes m a bs) x = if a ≤ x ∧ x < a + bs.length then bs.getD (x - a) 0 else readByte m x := by
  induction bs generalizing m a with
  | nil => rw [if_neg (by simp only [List.length_nil]; omega)]; rfl
  | cons b bs ih =>
    rw [writeBytes, ih (writeByte_wf b (Nat.zero_le a) h), readByte_writeByte b h]
    by_cases hx : x = a
    · subst hx
      rw [if_neg (by omega), if_pos rfl, if_pos ⟨Nat.le_refl _, by simp only [List.length_cons]; omega⟩, Nat.sub_self]
      rfl
    · simp only [if_neg hx, List.length_cons]
      by_cases hr : a + 1 ≤ x ∧ x < a + 1 + bs.length
      · rw [if_pos hr, if_pos (by omega), show x - a = (x - (a + 1)) + 1 by omega, List.getD_cons_succ]
      · rw [if_neg hr, if_neg (by omega)]

theorem length_readBytes (m : Mem) (a n : Nat) : (readBytes m a n).length = n := by
  induction n generalizing a with
  | zero => rfl
  | succ n ih => simp [readBytes, ih]

theorem readBytes_congr {m m' : Mem} {a n : Nat} (h : ∀ x, a ≤ x → x < a + n → readByte m x = readByte m' x) :
    readBytes m a n = readBytes m' a n := by
  induction n generalizing a with
  | zero => rfl
  | succ n ih =>
    simp only [readBytes]
    rw [h a (by omega) (by omega), ih fun x h1 h2 => h x (by omega) (by omega)]

theorem readBytes_eq_of {m : Mem} {a : Nat} {bs : List Byte} (h : ∀ k, k < bs.length → readByte m (a + k) = bs.getD k 0) :
    readBytes m a bs.length = bs := by
  induction bs generalizing a with
  | nil => rfl
  | cons b bs ih =>
    simp only [List.length_cons, readBytes]
    rw [show readByte m a = b by simpa using h 0 (by simp), ih fun k hk => by
      have := h (k + 1) (by simp; omega)
      rw [List.getD_cons_succ] at this
      rwa [show a + 1 + k = a + (k + 1) by omega]]

/-- What was written is read back. -/
theorem readBytes_writeBytes {m : Mem} {a : Nat} (bs : List Byte) (h : Memory.wf m = true) :
    readBytes (writeBytes m a bs) a bs.length = bs :=
  readBytes_eq_of fun k hk => by
    rw [readByte_writeBytes bs h, if_pos (by omega), show a + k - a = k by omega]

/-! ## Equal contents -/

theorem mem_ext_from {m m' : Mem} {lo : Nat} (h : memWfFrom lo m = true) (h' : memWfFrom lo m' = true)
    (he : ∀ a, readByte m a = readByte m' a) : m = m' := by
  induction m generalizing m' lo with
  | nil =>
    cases m' with
    | nil => rfl
    | cons c m' =>
      have := he c.1
      simp [readByte] at this
      simp_all [memWfFrom]
  | cons c m ih =>
    cases m' with
    | nil =>
      have := he c.1
      simp [readByte] at this
      simp_all [memWfFrom]
    | cons d m' =>
      simp only [memWfFrom, Bool.and_eq_true, decide_eq_true_eq] at h h'
      have hc := he c.1
      have hd := he d.1
      have hk : c.1 = d.1 := by
        apply Decidable.byContradiction
        intro hne
        rcases Nat.lt_or_gt_of_ne hne with hl | hl
        · simp [readByte, hne, hl] at hc
          simp_all
        · simp [readByte, Ne.symm hne, hl] at hd
          simp_all
      have hb : c.2 = d.2 := by simpa [readByte, hk] using hc
      have hcd : c = d := Prod.ext hk hb
      subst hcd
      congr 1
      refine ih h.2 h'.2 fun a => ?_
      have ha := he a
      by_cases h1 : a = c.1
      · rw [readByte_below h.2 (by omega), readByte_below h'.2 (by omega)]
      · by_cases h2 : a < c.1
        · rw [readByte_below h.2 (by omega), readByte_below h'.2 (by omega)]
        · simpa [readByte, h1, h2] using ha

/-- In the canonical form, memories that read alike are equal. -/
theorem mem_ext {m m' : Mem} (h : Memory.wf m = true) (h' : Memory.wf m' = true)
    (he : ∀ a, readByte m a = readByte m' a) : m = m' := mem_ext_from h h' he

end Sys2Proof.Machine
end

