-- ==== Sys2Proof/Laws/MemKept.lean ====
section
/-! SUPPORT. What each operation on a state does to memory: `_mem`, it leaves memory as it was; `_wf`, it keeps memory in its
canonical form. -/

namespace Sys2Proof.Machine

open Sys2Proof

/-- A fold of operations that leave memory leaves it. -/
theorem foldl_mem {α} {f : State → α → State} {s : State} {l : List α} (h : ∀ x a, (f x a).mem = x.mem) :
    (l.foldl f s).mem = s.mem := by
  induction l generalizing s with
  | nil => rfl
  | cons a l ih => simp [ih, h]

/-- A fold of operations that keep the canonical form keeps it. -/
theorem foldl_wf {α} {f : State → α → State} {s : State} {l : List α} (hw : Memory.wf s.mem = true)
    (h : ∀ x a, Memory.wf x.mem = true → Memory.wf (f x a).mem = true) : Memory.wf (l.foldl f s).mem = true := by
  induction l generalizing s with
  | nil => exact hw
  | cons a l ih => exact ih (h _ _ hw)

@[simp] theorem State.count_mem (s : State) (off) : (State.count s off).mem = s.mem := by
  unfold State.count
  simp

@[simp] theorem State.raise_mem (s : State) (d) (bit) : (State.raise s d bit).mem = s.mem := by
  unfold State.raise
  grind [State.modDie_mem, foldl_mem]

@[simp] theorem State.errorRecord_mem (s : State) (d) (unit) (sev) (ctx) (addr) (detail) : (State.errorRecord s d unit
    sev ctx addr detail).mem = s.mem := by
  unfold State.errorRecord
  simp

@[simp] theorem State.endOne_mem (s : State) (l) (code) : (State.endOne s l code).mem = s.mem := by
  unfold State.endOne
  grind [State.modLaunch_mem, foldl_mem]

@[simp] theorem State.endLaunch_mem (s : State) (l) (code) : (State.endLaunch s l code).mem = s.mem := by
  unfold State.endLaunch
  grind [State.endOne_mem, foldl_mem]

@[simp] theorem State.haltTeam_mem (s : State) (a1) : (State.haltTeam s a1).mem = s.mem := by
  unfold State.haltTeam
  simp

@[simp] theorem State.park_mem (s : State) (rs) : (State.park s rs).mem = s.mem := by
  unfold State.park
  grind [State.modThr_mem, foldl_mem]

@[simp] theorem State.relabel_mem (s : State) (rs) : (State.relabel s rs).mem = s.mem := by
  unfold State.relabel
  grind [State.modThr_mem, foldl_mem]

@[simp] theorem State.settle_mem (s : State) (a1) (g) : (State.settle s a1 g).mem = s.mem := by
  unfold State.settle
  simp

@[simp] theorem State.regroup_mem (s : State) (rs) : (State.regroup s rs).mem = s.mem := by
  unfold State.regroup
  grind [State.modThr_mem, foldl_mem]

@[simp] theorem State.fireCv_mem (s : State) (a1) (g) : (State.fireCv s a1 g).mem = s.mem := by
  unfold State.fireCv
  grind [State.modTeam_mem, State.regroup_mem, State.modThr_mem, foldl_mem]

@[simp] theorem State.settleAll_mem (s : State) (rs) : (State.settleAll s rs).mem = s.mem := by
  unfold State.settleAll
  grind [State.settle_mem, foldl_mem]

@[simp] theorem State.dropMessages_mem (s : State) (rs) : (State.dropMessages s rs).mem = s.mem := by
  unfold State.dropMessages
  simp

@[simp] theorem State.trapFrag_mem (s : State) (frag) (faults) (defer) (addr) :
    (State.trapFrag s frag faults defer addr).mem = s.mem := by
  unfold State.trapFrag
  cases frag with
  | nil => rfl
  | cons r l =>
    dsimp only
    (repeat' split) <;> first
      | exact (foldl_mem fun _ _ => State.modThr_mem ..).trans (by simp)
      | simp

@[simp] theorem State.countRetired_mem (s : State) (rs) : (State.countRetired s rs).mem = s.mem := by
  unfold State.countRetired
  grind [State.modGroup_mem, foldl_mem]

@[simp] theorem State.notePath_mem (s0 s : State) (go) : (State.notePath s0 s go).mem = s.mem :=
  foldl_mem fun _ _ => State.modThr_mem ..

@[simp] theorem State.trapBad_mem (s0 : State) (s : State) (v) : (State.trapBad s0 s v).mem = s.mem := by
  unfold State.trapBad
  grind [State.trapFrag_mem, foldl_mem]

@[simp] theorem State.waitStalled_mem (s0 : State) (s : State) (v) : (State.waitStalled s0 s v).mem = s.mem := by
  unfold State.waitStalled
  grind [State.modThr_mem, foldl_mem]

@[simp] theorem State.perform_mem (s : State) (v) (act) (ha : ∀ x l, (act x l).mem = x.mem) : (State.perform s v act).mem =
    s.mem := by
  unfold State.perform
  dsimp only
  rw [State.settleAll_mem, State.trapBad_mem, State.waitStalled_mem, State.countRetired_mem, State.notePath_mem, ha,
    foldl_mem fun _ _ => State.modThr_mem ..]

@[simp] theorem State.lanewise_mem (s : State) (i) (own) (f) : (State.lanewise s i own f).mem = s.mem := by
  unfold State.lanewise
  grind [State.perform_mem, State.modThr_mem, foldl_mem]

@[simp] theorem State.register_mem (s : State) (i) (f) : (State.register s i f).mem = s.mem := by
  unfold State.register
  simp

@[simp] theorem State.orCpstat_mem (s : State) (a1) (c) : (State.orCpstat s a1 c).mem = s.mem := by
  unfold State.orCpstat
  simp

@[simp] theorem State.orEstat_mem (s : State) (a1) (c) : (State.orEstat s a1 c).mem = s.mem := by
  unfold State.orEstat
  simp

@[simp] theorem State.floatwise_mem (s : State) (i) (own) (f) : (State.floatwise s i own f).mem = s.mem := by
  unfold State.floatwise
  grind [State.perform_mem, State.modThr_mem, foldl_mem]

@[simp] theorem State.function_mem (s : State) (i) (f) (d) (a) : (State.function s i f d a).mem = s.mem := by
  unfold State.function
  simp

@[simp] theorem State.evictLine_mem (s : State) (x) (harvest) : (State.evictLine s x harvest).mem = s.mem := by
  unfold State.evictLine
  (repeat' split) <;> simp

@[simp] theorem State.l2Touch_mem (s : State) (pa) (slice) (line) (harvest) (ccls) (mask) : (State.l2Touch s pa slice
    line harvest ccls mask).mem = s.mem := by
  unfold State.l2Touch
  (repeat' split) <;> simp

@[simp] theorem State.l2Dirty_mem (s : State) (line) : (State.l2Dirty s line).mem = s.mem := by
  unfold State.l2Dirty
  simp

@[simp] theorem State.endWatches_mem (s : State) (p) : (State.endWatches s p).mem = s.mem := by
  unfold State.endWatches
  simp

@[simp] theorem State.wakeCounters_mem (s : State) (line) : (State.wakeCounters s line).mem = s.mem := by
  unfold State.wakeCounters
  simp

@[simp] theorem State.triggerLine_mem (s : State) (line) : (State.triggerLine s line).mem = s.mem := by
  unfold State.triggerLine
  (repeat' split) <;> simp

theorem State.imageWrite_wf (s : State) (addr) (bs) (hw : Memory.wf s.mem = true) : Memory.wf (State.imageWrite s addr
    bs).mem = true := by
  unfold State.imageWrite
  simp [*]

theorem State.homeWrite_wf (s : State) (pa) (addr) (bs) (harvest) (ccls) (hw : Memory.wf s.mem = true) : Memory.wf
    (State.homeWrite s pa addr bs harvest ccls).mem = true := by
  unfold State.homeWrite
  grind [State.l2Touch_mem, State.wakeCounters_mem, State.triggerLine_mem, State.imageWrite_wf, State.l2Dirty_mem,
      foldl_wf, foldl_mem]

theorem State.storeLines_wf (s : State) (fuel) (pa) (bs) (hw : Memory.wf s.mem = true) : Memory.wf
    ((State.storeLines s fuel pa bs)).mem = true := by
  induction fuel generalizing s pa bs with
  | zero => exact hw
  | succ k ih =>
    unfold State.storeLines
    grind [State.homeWrite_wf]

@[simp] theorem State.homePoison_mem (s : State) (addr) (n) : (State.homePoison s addr n).mem = s.mem := by
  unfold State.homePoison
  (repeat' split) <;> simp

@[simp] theorem State.l2Read_mem (s : State) (pa) (addr) : (State.l2Read s pa addr).mem = s.mem := by
  unfold State.l2Read
  grind [State.l2Touch_mem, foldl_mem]

theorem State.atHomes_wf (s x : State) (hw : Memory.wf s.mem = true) (hx : Memory.wf x.mem = true) :
    Memory.wf (s.atHomes x).mem = true := by
  unfold State.atHomes
  split <;> assumption
@[simp] theorem State.atHomes_mem (s x : State) (h : x.mem = s.mem) : (s.atHomes x).mem = s.mem := by
  unfold State.atHomes
  split
  · exact h
  · rfl

@[simp] theorem State.findErrors_mem (s : State) (p) : (State.findErrors s p).mem = s.mem := by
  unfold State.findErrors
  grind [State.errorRecord_mem, foldl_mem]

@[simp] theorem State.tlbPut_mem (s : State) (loc) (asid) (va) (l) : (State.tlbPut s loc asid va l).mem = s.mem := by
  unfold State.tlbPut
  simp

@[simp] theorem State.tlbInstall_mem (s : State) (core) (asid) (va) (l) : (State.tlbInstall s core asid va l).mem = s.mem
    := by
  unfold State.tlbInstall
  simp

theorem State.setAccDirty_wf (s : State) (entry) (raw) (wr) (hw : Memory.wf s.mem = true) : Memory.wf (State.setAccDirty
    s entry raw wr).mem = true := by
  unfold State.setAccDirty
  grind [State.homeWrite_wf, foldl_wf, foldl_mem]

@[simp] theorem State.cachePtrs_mem (s : State) (die) (ps) : (State.cachePtrs s die ps).mem = s.mem := by
  unfold State.cachePtrs
  simp

theorem State.walkEnd_wf (s : State) (core) (asid) (va) (w) (pass) (wr) (hw : Memory.wf s.mem = true) :
    Memory.wf (State.walkEnd s core asid va w pass wr).1.mem = true := by
  have h : (w.seen.foldr (fun a x => x.l2Read a a) s).mem = s.mem := by
    induction w.seen with
    | nil => rfl
    | cons a l ih => simp [ih]
  unfold State.walkEnd
  dsimp only
  generalize w.seen.foldr (fun a x => x.l2Read a a) s = x at h
  have hx : Memory.wf x.mem = true := by rw [h]; exact hw
  (repeat' split) <;> simp [State.setAccDirty_wf, hx]

theorem State.walkFor_wf (s : State) (core) (asid) (root) (cm) (va) (need) (acc) (hw : Memory.wf s.mem = true) :
    Memory.wf (State.walkFor s core asid root cm va need acc).1.mem = true := by
  unfold State.walkFor
  grind [State.walkEnd_wf, foldl_wf, foldl_mem]

theorem State.walkNow_wf (s : State) (core) (asid) (root) (cm) (va) (need) (acc) (hw : Memory.wf s.mem = true) :
    Memory.wf (State.walkNow s core asid root cm va need acc).1.mem = true := by
  unfold State.walkNow
  (repeat' split) <;> simp [*, State.walkFor_wf]

@[simp] theorem State.modPiece_mem (s : State) (n) (k) (f) : (State.modPiece s n k f).mem = s.mem := by
  unfold State.modPiece
  simp

@[simp] theorem State.portPush_mem (s : State) (id) (p) : (State.portPush s id p).mem = s.mem := by
  unfold State.portPush
  (repeat' split) <;> simp

@[simp] theorem State.messageBack_mem (s : State) (n) : (State.messageBack s n).mem = s.mem := by
  unfold State.messageBack
  grind [State.modThr_mem, foldl_mem]

@[simp] theorem State.packetArrive_mem (s : State) (p) : (State.packetArrive s p).mem = s.mem := by
  unfold State.packetArrive
  (repeat' split) <;> simp

@[simp] theorem State.packetGo_mem (s : State) (p) : (State.packetGo s p).mem = s.mem := by
  unfold State.packetGo
  (repeat' split) <;> simp

@[simp] theorem State.sendPiece_mem (s : State) (n) (k) : (State.sendPiece s n k).mem = s.mem := by
  unfold State.sendPiece
  simp

@[simp] theorem State.sendReady_mem (s : State) (n) : (State.sendReady s n).mem = s.mem := by
  unfold State.sendReady
  grind [State.sendPiece_mem, foldl_mem]

@[simp] theorem State.sendAll_mem (s : State) : (State.sendAll s).mem = s.mem := by
  unfold State.sendAll
  grind [State.sendReady_mem, foldl_mem]

@[simp] theorem State.respond_mem (s : State) (n) (k) : (State.respond s n k).mem = s.mem := by
  unfold State.respond
  simp

@[simp] theorem State.l1Drop_mem (s : State) (core) (line) : (State.l1Drop s core line).mem = s.mem := by
  unfold State.l1Drop
  simp

@[simp] theorem State.l1Fill_mem (s : State) (core) (line) (const) : (State.l1Fill s core line const).mem = s.mem := by
  unfold State.l1Fill
  simp

@[simp] theorem State.l1Clear_mem (s : State) (core) : (State.l1Clear s core).mem = s.mem := by
  unfold State.l1Clear
  simp

@[simp] theorem State.l1Update_mem (s : State) (core) (addr) (bs) : (State.l1Update s core addr bs).mem = s.mem := by
  unfold State.l1Update
  simp

@[simp] theorem State.l1Renew_mem (s : State) (core) (line) : (State.l1Renew s core line).mem = s.mem := by
  unfold State.l1Renew
  simp

@[simp] theorem State.l1Age_mem (s : State) (block) : (State.l1Age s block).mem = s.mem := by
  unfold State.l1Age
  simp

@[simp] theorem State.ilinePut_mem (s : State) (x) : (State.ilinePut s x).mem = s.mem := by
  unfold State.ilinePut
  simp

@[simp] theorem State.acquireOver_mem (s : State) (r) (scope) (uo) : (State.acquireOver s r scope uo).mem = s.mem := by
  unfold State.acquireOver
  (repeat' split) <;> simp

@[simp] theorem State.acquireAt_mem (s : State) (r) (scope) : (State.acquireAt s r scope).mem = s.mem := by
  unfold State.acquireAt
  simp

@[simp] theorem State.noteAged_mem (s : State) (f) (p) : (State.noteAged s f p).mem = s.mem := by
  unfold State.noteAged
  grind [State.modDie_mem, foldl_mem]

@[simp] theorem State.donePiece_mem (s : State) (n) (k) (bs) (lost) : (State.donePiece s n k bs lost).mem = s.mem := by
  unfold State.donePiece
  grind [State.respond_mem, State.modPiece_mem, State.acquireAt_mem, State.sendAll_mem, foldl_mem]

@[simp] theorem State.launchFlight_mem (s : State) (f) : (State.launchFlight s f).mem = s.mem := by
  unfold State.launchFlight
  simp

@[simp] theorem State.noteFence_mem (s : State) (r) (ord) (scope) : (State.noteFence s r ord scope).mem = s.mem := by
  unfold State.noteFence
  simp

@[simp] theorem State.bufferPush_mem (s : State) (r) (es) : (State.bufferPush s r es).mem = s.mem := by
  unfold State.bufferPush
  simp

@[simp] theorem State.bufferAll_mem (s : State) (rs) (entries) : (State.bufferAll s rs entries).mem = s.mem := by
  unfold State.bufferAll
  grind [State.bufferPush_mem, foldl_mem]

@[simp] theorem State.await_mem (s : State) (r) (u) : (State.await s r u).mem = s.mem := by
  unfold State.await
  simp

@[simp] theorem State.dropPieces_mem (s : State) (core) (ps) : (State.dropPieces s core ps).mem = s.mem := by
  unfold State.dropPieces
  grind [State.l1Drop_mem, foldl_mem]

@[simp] theorem State.loadGo_mem (s : State) (r) (f) (u) : (State.loadGo s r f u).mem = s.mem := by
  unfold State.loadGo
  (repeat' split) <;> simp

@[simp] theorem State.tickStamp_mem (s : State) : (State.tickStamp s).mem = s.mem := by
  unfold State.tickStamp
  simp

@[simp] theorem State.storeGo_mem (s : State) (f) : (State.storeGo s f).mem = s.mem := by
  unfold State.storeGo
  simp

@[simp] theorem State.acquireIf_mem (s : State) (r) (ord) (scope) : (State.acquireIf s r ord scope).mem = s.mem := by
  unfold State.acquireIf
  (repeat' split) <;> simp

@[simp] theorem State.atomGo_mem (s : State) (s1 : State) (rs) (d) (a) (b) (wide) (p) (red) : (State.atomGo s s1 rs d a b
    wide p red).mem = s1.mem := by
  unfold State.atomGo
  grind [State.launchFlight_mem, State.dropPieces_mem, State.await_mem, State.tickStamp_mem, State.bufferAll_mem, foldl_mem]

@[simp] theorem State.prefetch_mem (s : State) (r) (va) (ccls) : (State.prefetch s r va ccls).mem = s.mem := by
  unfold State.prefetch
  (repeat' split) <;> simp

@[simp] theorem State.dropInstr_mem (s : State) (core) : (State.dropInstr s core).mem = s.mem := by
  unfold State.dropInstr
  simp

@[simp] theorem State.releaseWatch_mem (s : State) (r) : (State.releaseWatch s r).mem = s.mem := by
  unfold State.releaseWatch
  (repeat' split) <;> simp

@[simp] theorem State.armLine_mem (s : State) (r) (va) (l) (pa) : (State.armLine s r va l pa).mem = s.mem := by
  unfold State.armLine
  grind [State.releaseWatch_mem, State.l1Drop_mem, State.modThr_mem, State.count_mem, foldl_mem]

@[simp] theorem State.collective_mem (s : State) (i) (own) (act) (ha : ∀ x l, (act x l).mem = x.mem) :
    (State.collective s i own act).mem = s.mem := by
  simp [State.collective, ha]

@[simp] theorem State.shuffle_mem (s : State) (i) (d) (a) (b) (mode) : (State.shuffle s i d a b mode).mem = s.mem := by
  unfold State.shuffle
  grind [State.perform_mem, State.modThr_mem, foldl_mem]

@[simp] theorem State.modBarrier_mem (s : State) (r) (level) (n) (f) : (State.modBarrier s r level n f).mem = s.mem := by
  unfold State.modBarrier
  (repeat' split) <;> simp

@[simp] theorem State.phaseDone_mem (s : State) (r) (level) (n) (b) : (State.phaseDone s r level n b).mem = s.mem := by
  unfold State.phaseDone
  simp

@[simp] theorem State.judgePhase_mem (s : State) (r) (level) (n) : (State.judgePhase s r level n).mem = s.mem := by
  unfold State.judgePhase
  (repeat' split) <;> simp

@[simp] theorem State.barEnter_mem (s : State) (level) (n) (arrives) (waits) (red) (r) : (State.barEnter s level n
    arrives waits red r).mem = s.mem := by
  unfold State.barEnter
  grind [State.modBarrier_mem, State.modThr_mem, foldl_mem]

@[simp] theorem State.barrierWord_mem (s : State) (i) (level) (n) (arrives) (waits) (red) :
    (State.barrierWord s i level n arrives waits red).mem = s.mem := by
  unfold State.barrierWord
  extract_lets v rs s1 held
  have h1 : s1.mem = s.mem := foldl_mem fun x r => State.barEnter_mem ..
  clear_value s1 held rs
  split
  · simp
  · split
    · rw [State.perform_mem _ _ _ fun x l => by split <;> simp [foldl_mem]]
      exact h1
    · rw [foldl_mem fun x r => by split <;> simp]
      exact h1

@[simp] theorem State.judgeAllPhases_mem (s : State) (t) : (s.judgeAllPhases t).mem = s.mem := by
  have run (l : BitVec 2) (n : Nat) (y : State) : ((List.range n).foldl (fun x k =>
      match x.barrierAt ⟨t, 0⟩ l k with
      | some b => if b.arr.isEmpty && !((x.participants t l).isEmpty && x.waitsAt t l k) then x else x.judgePhase ⟨t, 0⟩ l k
      | none => x) y).mem = y.mem :=
    foldl_mem fun x k => by (repeat' split) <;> simp
  unfold State.judgeAllPhases
  extract_lets r go
  exact (run 2 8 _).trans ((run 1 16 _).trans (run 0 64 s))

@[simp] theorem State.setFlags_mem (s : State) (a1) (w) : (State.setFlags s a1 w).mem = s.mem := by
  unfold State.setFlags
  simp

@[simp] theorem State.flagWait_mem (s : State) (i) (all) (d) (a) : (State.flagWait s i all d a).mem = s.mem := by
  unfold State.flagWait
  grind [State.collective_mem, State.acquireAt_mem, State.modThr_mem, foldl_mem]

@[simp] theorem State.modSlot_mem (s : State) (a1) (a2) (n) (f) : (State.modSlot s a1 a2 n f).mem = s.mem := by
  unfold State.modSlot
  grind [State.modHalf_mem, State.modTeam_mem, foldl_mem]

@[simp] theorem State.pushReport_mem (s : State) (a1) (g) (x) : (State.pushReport s a1 g x).mem = s.mem := by
  unfold State.pushReport
  simp

@[simp] theorem State.takeReport_mem (s : State) (r) (x) : (State.takeReport s r x).mem = s.mem := by
  unfold State.takeReport
  simp

@[simp] theorem State.copyAccept_mem (s0 : State) (s : State) (k) (x) (y) (z) (r) : (State.copyAccept s0 s k x y z r).mem
    = s.mem := by
  unfold State.copyAccept
  grind [State.modSlot_mem, State.modGroup_mem, State.modThr_mem, foldl_mem]

@[simp] theorem State.copyLanes_mem (s : State) (i) (k) (x) (y) (z) : (State.copyLanes s i k x y z).mem = s.mem := by
  unfold State.copyLanes
  grind [State.perform_mem, State.copyAccept_mem, foldl_mem]

@[simp] theorem State.endJoins_mem (s : State) (team) (joins) (fault) : (State.endJoins s team joins fault).mem = s.mem
    := by
  unfold State.endJoins
  grind [State.modThr_mem, foldl_mem]

@[simp] theorem State.reportWaits_mem (s0 : State) (s : State) (marks) (r) : (State.reportWaits s0 s marks r).mem = s.mem
    := by
  unfold State.reportWaits
  grind [State.trapFrag_mem, State.pushReport_mem, foldl_mem]

@[simp] theorem State.counterWait_mem (s : State) (i) (d) (a) (b) (scope) : (State.counterWait s i d a b scope).mem =
    s.mem := by
  unfold State.counterWait
  grind [State.perform_mem, State.acquireAt_mem, State.modThr_mem, State.count_mem, foldl_mem]

@[simp] theorem State.discardRegion_mem (s : State) (a1) (g) : (State.discardRegion s a1 g).mem = s.mem := by
  unfold State.discardRegion
  grind [State.endJoins_mem, State.modGroup_mem, foldl_mem]

@[simp] theorem State.discardLoads_mem (s : State) (r) : (State.discardLoads s r).mem = s.mem := by
  unfold State.discardLoads
  simp

@[simp] theorem State.clearCv_mem (s : State) (a1) (g) : (State.clearCv s a1 g).mem = s.mem := by
  unfold State.clearCv
  simp

@[simp] theorem State.abandonRegion_mem (s : State) (a1) (g) : (State.abandonRegion s a1 g).mem = s.mem := by
  unfold State.abandonRegion
  grind [State.clearCv_mem, State.discardRegion_mem, State.discardLoads_mem, State.modThr_mem, foldl_mem]

@[simp] theorem State.accept_mem (s : State) (e) : (State.accept s e).mem = s.mem := by
  unfold State.accept
  simp

@[simp] theorem State.consumeAll_mem (s : State) (r) (slots) : (State.consumeAll s r slots).mem = s.mem := by
  unfold State.consumeAll
  grind [State.modSlot_mem, foldl_mem]

@[simp] theorem State.engineWord_mem (s : State) (i) (own) (slots) : (State.engineWord s i own slots).mem = s.mem := by
  unfold State.engineWord
  grind [State.collective_mem, State.consumeAll_mem, State.accept_mem, foldl_mem]

@[simp] theorem State.drainSlot_mem (s : State) (i) (x) (y) (f) : (State.drainSlot s i x y f).mem = s.mem := by
  unfold State.drainSlot
  grind [State.collective_mem, State.modSlot_mem, State.accept_mem, foldl_mem]

@[simp] theorem State.drainMem_mem (s : State) (i) (x) (y) (f) (add) : (State.drainMem s i x y f add).mem = s.mem := by
  unfold State.drainMem
  grind [State.collective_mem, State.bufferPush_mem, State.accept_mem, State.modThr_mem, foldl_mem]

@[simp] theorem State.heldWord_mem (s : State) (i) (own) (entry) : (State.heldWord s i own entry).mem = s.mem := by
  unfold State.heldWord
  grind [State.perform_mem, State.accept_mem, foldl_mem]

@[simp] theorem State.accWord_mem (s : State) (i) (tile) (y) (save) (n) : (State.accWord s i tile y save n).mem = s.mem
    := by
  unfold State.accWord
  simp

theorem State.loseLine_wf (s : State) (x) (hw : Memory.wf s.mem = true) : Memory.wf (State.loseLine s x).mem = true := by
  unfold State.loseLine
  (repeat' split) <;> simp [*]

theorem State.loseSlice_wf (s : State) (d) (k) (hw : Memory.wf s.mem = true) : Memory.wf (State.loseSlice s d k).mem =
    true := by
  unfold State.loseSlice
  grind [State.loseLine_wf, foldl_wf, foldl_mem]

@[simp] theorem State.loseFlights_mem (s : State) (d) (k) : (State.loseFlights s d k).mem = s.mem := by
  unfold State.loseFlights
  simp

@[simp] theorem State.rehashWatches_mem (s : State) (sx : State) : (State.rehashWatches s sx).mem = s.mem := by
  unfold State.rehashWatches
  simp

@[simp] theorem State.endLaunches_mem (s : State) (p) (code) : (State.endLaunches s p code).mem = s.mem := by
  unfold State.endLaunches
  grind [State.endLaunch_mem, foldl_mem]

@[simp] theorem State.dropGallery_mem (s : State) (g) : (State.dropGallery s g).mem = s.mem := by
  unfold State.dropGallery
  simp

theorem State.writeSpirePwr_mem (s : State) (d) (v) : ∀ nx, State.writeSpirePwr s d v = some nx → nx.mem = s.mem := by
  intro nx h
  unfold State.writeSpirePwr at h
  grind [State.modDie_mem, foldl_mem]

@[simp] theorem State.writeBack_mem (s : State) (p) : (State.writeBack s p).mem = s.mem := by
  unfold State.writeBack
  simp

@[simp] theorem State.boot_mem (s : State) : (State.boot s).mem = s.mem := by
  unfold State.boot
  grind [State.errorRecord_mem, foldl_mem]

theorem State.cold_wf (s : State) (hw : Memory.wf s.mem = true) : Memory.wf (State.cold s).mem = true := by
  unfold State.cold
  simp [*]

theorem State.routerFails_wf (s : State) (d) (k) (hw : Memory.wf s.mem = true) : Memory.wf (State.routerFails s d k).mem
    = true := by
  unfold State.routerFails
  (repeat' split) <;> simp [*, State.loseSlice_wf, State.loseFlights_mem, State.errorRecord_mem, State.modDie_mem]

@[simp] theorem State.restartCurator_mem (s : State) (slot) : (State.restartCurator s slot).mem = s.mem := by
  unfold State.restartCurator
  simp

@[simp] theorem State.orderGrant_mem (s : State) (d) (g) : (State.orderGrant s d g).mem = s.mem := by
  unfold State.orderGrant
  simp

@[simp] theorem State.evaluate_mem (s : State) : (State.evaluate s).mem = s.mem := by
  unfold State.evaluate
  grind [State.orderGrant_mem, State.count_mem, foldl_mem]

@[simp] theorem State.writeBelfryCfg_mem (s : State) (v) : (State.writeBelfryCfg s v).mem = s.mem := by
  unfold State.writeBelfryCfg
  grind [State.evaluate_mem, foldl_mem]

@[simp] theorem State.schSend_mem (s x : State) (a) (b) (r) : (State.schSend s x a b r).mem = x.mem := by
  unfold State.schSend
  split <;> simp

@[simp] theorem State.srdLane_mem (s : State) (d) (n) (r) : (State.srdLane s d n r).mem = s.mem := by
  unfold State.srdLane
  (repeat' split) <;> simp

@[simp] theorem State.csrrLane_mem (s : State) (d) (n) (r) : (State.csrrLane s d n r).mem = s.mem := by
  unfold State.csrrLane
  (repeat' split) <;> simp

@[simp] theorem State.csrwLane_mem (s : State) (n) (v) (r) : (State.csrwLane s n v r).mem = s.mem := by
  unfold State.csrwLane
  (repeat' split) <;> simp

@[simp] theorem State.noShares_mem (s : State) (core) : (State.noShares s core).mem = s.mem := by
  unfold State.noShares
  simp

@[simp] theorem State.invalidate_mem (s : State) (x) : (State.invalidate s x).mem = s.mem := by
  unfold State.invalidate
  grind [State.endWatches_mem, State.abandonRegion_mem, foldl_mem]

@[simp] theorem State.dbgRead_mem (s : State) (d) : (State.dbgRead s d).1.mem = s.mem := by
  unfold State.dbgRead
  (repeat' split) <;> simp

theorem State.dbgPut_mem (s : State) (r) (space) (idx) (aux) (v) : ∀ nx, State.dbgPut s r space idx aux v = some nx →
    nx.mem = s.mem := by
  intro nx h
  unfold State.dbgPut at h
  grind [State.modThr_mem, State.regroup_mem, State.csrwLane_mem, foldl_mem]

@[simp] theorem State.dbgWrite_mem (s : State) (d) (v) : (State.dbgWrite s d v).mem = s.mem := by
  unfold State.dbgWrite
  cases h : s.dbgItem d with
  | none => simp
  | some x =>
    cases h2 : s.dbgPut x.1 (s.die d).dbgSpace (s.die d).dbgIndex (s.die d).dbgaux v with
    | none => simp [h2]
    | some y => simpa [h2] using State.dbgPut_mem _ _ _ _ _ _ _ h2

@[simp] theorem State.writeDbgSel_mem (s : State) (d) (v) : (State.writeDbgSel s d v).mem = s.mem := by
  unfold State.writeDbgSel
  simp

@[simp] theorem State.writeDbgAux_mem (s : State) (d) (v) : (State.writeDbgAux s d v).mem = s.mem := by
  unfold State.writeDbgAux
  simp

@[simp] theorem State.writeDbgStat_mem (s : State) (d) (v) : (State.writeDbgStat s d v).mem = s.mem := by
  unfold State.writeDbgStat
  (repeat' split) <;> simp

@[simp] theorem State.copyTake_mem (s : State) (n) (xs) : (State.copyTake s n xs).mem = s.mem := by
  unfold State.copyTake
  grind [State.orCpstat_mem, State.modCmd_mem, State.modSlot_mem, foldl_mem]

@[simp] theorem State.copyScratch_mem (s : State) (n) (q) : (State.copyScratch s n q).mem = s.mem := by
  unfold State.copyScratch
  grind [State.errorRecord_mem, State.copyTake_mem, foldl_mem]

@[simp] theorem State.copyFlight_mem (s : State) (c) (job) (op) (bs) (marks) (ps) : (State.copyFlight s c job op bs marks
    ps).mem = s.mem := by
  unfold State.copyFlight
  simp

theorem State.copyRead_wf (s : State) (n) (k) (hw : Memory.wf s.mem = true) : Memory.wf (State.copyRead s n k).mem = true
    := by
  unfold State.copyRead
  grind [State.copyScratch_mem, State.walkNow_wf, State.copyFlight_mem, State.modCmd_mem, foldl_wf, foldl_mem]

@[simp] theorem State.copyReadDone_mem (s : State) (n) (k) (f) : (State.copyReadDone s n k f).mem = s.mem := by
  unfold State.copyReadDone
  grind [State.errorRecord_mem, State.copyTake_mem, foldl_mem]

theorem State.copyWrite_wf (s : State) (n) (hw : Memory.wf s.mem = true) : Memory.wf (State.copyWrite s n).mem = true := by
  unfold State.copyWrite
  grind [State.modHalf_mem, State.modCmd_mem, State.modSlot_mem, State.walkNow_wf, State.copyFlight_mem, foldl_wf,
      foldl_mem]

theorem State.copyStep_wf (s : State) (n) (k) (hw : Memory.wf s.mem = true) : Memory.wf (State.copyStep s n k).mem = true
    := by
  unfold State.copyStep
  grind [State.copyWrite_wf, State.copyRead_wf, foldl_wf, foldl_mem]

@[simp] theorem State.dropSlice_mem (s : State) (n) : (State.dropSlice s n).mem = s.mem := by
  unfold State.dropSlice
  simp

@[simp] theorem State.dropWrote_mem (s : State) (c) : (State.dropWrote s c).mem = s.mem := by
  unfold State.dropWrote
  grind [State.l1Drop_mem, foldl_mem]

theorem State.counterSend_wf (s : State) (n) (clean) (hw : Memory.wf s.mem = true) : Memory.wf (State.counterSend s n
    clean).mem = true := by
  unfold State.counterSend
  grind [State.walkNow_wf, State.copyFlight_mem, State.modCmd_mem, foldl_wf, foldl_mem]

@[simp] theorem State.batchesEnd_mem (s : State) (c) (fault) : (State.batchesEnd s c fault).mem = s.mem := by
  unfold State.batchesEnd
  simp

@[simp] theorem State.cpstatFault_mem (s : State) (a1) : (State.cpstatFault s a1).mem = s.mem := by
  unfold State.cpstatFault
  simp

@[simp] theorem State.slotEnd_mem (s : State) (c) (clean) : (State.slotEnd s c clean).mem = s.mem := by
  unfold State.slotEnd
  (repeat' split) <;> simp

@[simp] theorem State.sliceReport_mem (s : State) (c) (fault) : (State.sliceReport s c fault).mem = s.mem := by
  unfold State.sliceReport
  (repeat' split) <;> simp

@[simp] theorem State.estatFault_mem (s : State) (a1) : (State.estatFault s a1).mem = s.mem := by
  unfold State.estatFault
  simp

@[simp] theorem State.drainRecord_mem (s : State) (d) (bad) (pa) (team) (core) : (State.drainRecord s d bad pa team
    core).mem = s.mem := by
  unfold State.drainRecord
  (repeat' split) <;> simp

theorem State.drainPut_wf (s : State) (d) (pa) (plinth) (team) (core) (hw : Memory.wf s.mem = true) : Memory.wf
    (State.drainPut s d pa plinth team core).1.mem = true := by
  unfold State.drainPut
  grind [State.homeWrite_wf, State.homePoison_mem, State.l1Age_mem, State.drainRecord_mem, foldl_wf, foldl_mem]

@[simp] theorem State.drainEnd_mem (s : State) (n) (lost) : (State.drainEnd s n lost).mem = s.mem := by
  unfold State.drainEnd
  (repeat' split) <;> simp

@[simp] theorem State.copyFinish_mem (s : State) (n) : (State.copyFinish s n).mem = s.mem := by
  unfold State.copyFinish
  grind [State.dropWrote_mem, State.modCmd_mem, State.slotEnd_mem, State.batchesEnd_mem, State.cpstatFault_mem,
      State.sliceReport_mem, foldl_mem]

theorem State.copyEnd_wf (s : State) (n) (hw : Memory.wf s.mem = true) : Memory.wf (State.copyEnd s n).mem = true := by
  unfold State.copyEnd
  grind [State.counterSend_wf, State.dropWrote_mem, State.copyFinish_mem, foldl_wf, foldl_mem]

@[simp] theorem State.countDone_mem (s : State) (n) : (State.countDone s n).mem = s.mem := by
  unfold State.countDone
  (repeat' split) <;> simp

@[simp] theorem State.putTile_mem (s : State) (e) (x) (a3) : (State.putTile s e x a3).mem = s.mem := by
  unfold State.putTile
  simp

@[simp] theorem State.poisonTile_mem (s : State) (e) (x) : (State.poisonTile s e x).mem = s.mem := by
  unfold State.poisonTile
  simp

@[simp] theorem State.doMatrix_mem (s : State) (e) (x) (ranges) (tag) (product) : (State.doMatrix s e x ranges tag
    product).1.mem = s.mem := by
  unfold State.doMatrix
  grind [State.poisonTile_mem, State.orEstat_mem, State.putTile_mem, foldl_mem]

@[simp] theorem State.doMma_mem (s : State) (e) (x) (y) (z) (ta) (tb) (depth) : (State.doMma s e x y z ta tb depth).1.mem
    = s.mem := by
  unfold State.doMma
  simp

@[simp] theorem State.doMmas_mem (s : State) (e) (x) (y) (z) (ta) (tb) (k) : (State.doMmas s e x y z ta tb k).1.mem =
    s.mem := by
  unfold State.doMmas
  simp

@[simp] theorem State.doMmaq_mem (s : State) (e) (x) (y) (z) (q) (k) : (State.doMmaq s e x y z q k).1.mem = s.mem := by
  unfold State.doMmaq
  simp

@[simp] theorem State.doMlda_mem (s : State) (e) (x) (y) : (State.doMlda s e x y).1.mem = s.mem := by
  unfold State.doMlda
  simp

@[simp] theorem State.readDrain_mem (s : State) (e) (x) (f) (add) : (State.readDrain s e x f add).1.mem = s.mem := by
  unfold State.readDrain
  grind [State.poisonTile_mem, foldl_mem]

@[simp] theorem State.doDrainSlot_mem (s : State) (e) (x) (y) (f) (add) : (State.doDrainSlot s e x y f add).1.mem = s.mem
    := by
  unfold State.doDrainSlot
  simp

@[simp] theorem State.doDrainMem_mem (s : State) (e) (x) (f) (add) : (State.doDrainMem s e x f add).1.mem = s.mem := by
  unfold State.doDrainMem
  grind [State.readDrain_mem, State.launchFlight_mem, State.orEstat_mem, State.drainRecord_mem, foldl_mem]

@[simp] theorem State.putKnot_mem (s : State) (e) (k) (v) : (State.putKnot s e k v).mem = s.mem := by
  unfold State.putKnot
  simp

@[simp] theorem State.doGrid_mem (s : State) (e) (k) (slots) (reads) (other) (go) (hg : ∀ n a x, (go n a x).mem = x.mem) :
    (State.doGrid s e k slots reads other go).1.mem = s.mem := by
  unfold State.doGrid
  extract_lets h kn
  repeat' (first | split | (extract_lets _) | simp [hg])

@[simp] theorem State.addTile_mem (s : State) (e) (x) (f) : (State.addTile s e x f).mem = s.mem := by
  unfold State.addTile
  grind [State.poisonTile_mem, State.orEstat_mem, State.putTile_mem, foldl_mem]

@[simp] theorem State.doSplev_mem (s : State) (e) (x) (y) (k) : (State.doSplev s e x y k).1.mem = s.mem := by
  unfold State.doSplev
  simp

@[simp] theorem State.doSpldr_mem (s : State) (e) (x) (y) (k) : (State.doSpldr s e x y k).1.mem = s.mem := by
  unfold State.doSpldr
  simp

@[simp] theorem State.doSplgr_mem (s : State) (e) (x) (y) (k) : (State.doSplgr s e x y k).1.mem = s.mem := by
  unfold State.doSplgr
  grind [State.doGrid_mem, State.addTile_mem, foldl_mem]

@[simp] theorem State.doSplkg_mem (s : State) (e) (k) : (State.doSplkg s e k).1.mem = s.mem := by
  unfold State.doSplkg
  simp

@[simp] theorem State.doSplkq_mem (s : State) (e) (k) (y) : (State.doSplkq s e k y).1.mem = s.mem := by
  unfold State.doSplkq
  grind [State.modThr_mem, foldl_mem]

@[simp] theorem State.doSplld_mem (s : State) (e) (x) (y) (z) : (State.doSplld s e x y z).1.mem = s.mem := by
  unfold State.doSplld
  grind [State.modHalf_mem, foldl_mem]

@[simp] theorem State.doSplst_mem (s : State) (e) (x) (y) (z) : (State.doSplst s e x y z).1.mem = s.mem := by
  unfold State.doSplst
  grind [State.modHalf_mem, State.modSlot_mem, State.errorRecord_mem, foldl_mem]

@[simp] theorem State.doSplrf_mem (s : State) (e) (k) : (State.doSplrf s e k).1.mem = s.mem := by
  unfold State.doSplrf
  grind [State.errorRecord_mem, State.modHalf_mem, State.orEstat_mem, State.putKnot_mem, foldl_mem]

@[simp] theorem State.doAccRest_mem (s : State) (e) (x) : (State.doAccRest s e x).1.mem = s.mem := by
  unfold State.doAccRest
  grind [State.modHalf_mem, State.trapFrag_mem, State.putTile_mem, foldl_mem]

@[simp] theorem State.doAccRestV_mem (s : State) (e) : (State.doAccRestV s e).1.mem = s.mem := by
  unfold State.doAccRestV
  simp

@[simp] theorem State.doEntry_mem (s : State) (e) : (State.doEntry s e).1.mem = s.mem := by
  unfold State.doEntry
  (repeat' split) <;> simp

@[simp] theorem State.entryEnd_mem (s : State) (e) : (State.entryEnd s e).mem = s.mem := by
  unfold State.entryEnd
  grind [State.doEntry_mem, State.pushReport_mem, foldl_mem]

theorem State.agentAt_wf (s : State) (die) (sp) (va) (need) (acc) (hw : Memory.wf s.mem = true) : Memory.wf
    (State.agentAt s die sp va need acc).1.mem = true := by
  unfold State.agentAt
  grind [State.walkNow_wf, foldl_wf, foldl_mem]

theorem State.agentRead_wf (s : State) (die) (sp) (need) (k) (va) (n) (hw : Memory.wf s.mem = true) :
    Memory.wf ((State.agentRead s die sp need k va n).1).mem = true := by
  induction k generalizing s va n with
  | zero => exact hw
  | succ k ih =>
    unfold State.agentRead
    have ha := State.agentAt_wf s die sp va need 5 hw
    dsimp only
    split
    · exact hw
    · split <;> rename_i h <;> rw [h] at ha
      · exact ha
      · rename_i s1 l pa
        have hi := ih (s1.l2Read pa (imageAddr l.plinth pa)) (addNat va (min n (128 - slice va 0 7)))
          (n - min n (128 - slice va 0 7)) (by simpa using ha)
        split <;> rename_i h2 <;> rw [h2] at hi <;> exact hi

theorem State.agentLoad_wf (s : State) (die) (sp) (va) (n) (hw : Memory.wf s.mem = true) : Memory.wf (State.agentLoad s
    die sp va n).1.mem = true := by
  unfold State.agentLoad
  simp [*, State.agentRead_wf]

theorem State.agentWrite_wf (s : State) (die) (sp) (harvest) (k) (va) (bs) (hw : Memory.wf s.mem = true) : Memory.wf
    ((State.agentWrite s die sp harvest k va bs).1).mem = true := by
  induction k generalizing s va bs with
  | zero => exact hw
  | succ k ih =>
    unfold State.agentWrite
    grind [State.agentAt_wf, State.homeWrite_wf]

theorem State.agentStore_wf (s : State) (die) (sp) (harvest) (va) (bs) (hw : Memory.wf s.mem = true) : Memory.wf
    (State.agentStore s die sp harvest va bs).1.mem = true := by
  unfold State.agentStore
  simp [*, State.agentWrite_wf]

theorem State.agentCheck_wf (s : State) (die) (sp) (need) (k) (va) (n) (hw : Memory.wf s.mem = true) : Memory.wf
    ((State.agentCheck s die sp need k va n).1).mem = true := by
  induction k generalizing s va n with
  | zero => exact hw
  | succ k ih =>
    unfold State.agentCheck
    grind [State.agentAt_wf]

theorem State.agentAdd_wf (s : State) (die) (sp) (harvest) (va) (inc) (mark) (hw : Memory.wf s.mem = true) : Memory.wf
    (State.agentAdd s die sp harvest va inc mark).1.mem = true := by
  unfold State.agentAdd
  grind [State.agentAt_wf, State.homeWrite_wf, foldl_wf, foldl_mem]

theorem State.redStart_wf (s : State) (die) (sp) (launch) (va) (hw : Memory.wf s.mem = true) : Memory.wf (State.redStart
    s die sp launch va).mem = true := by
  unfold State.redStart
  grind [State.agentLoad_wf, State.raise_mem, foldl_wf, foldl_mem]

theorem State.redOwn_wf (s : State) (x) (hw : Memory.wf s.mem = true) : Memory.wf (State.redOwn s x).1.mem = true := by
  unfold State.redOwn
  grind [State.agentLoad_wf, State.agentCheck_wf, foldl_wf, foldl_mem]

theorem State.redDone_wf (s : State) (n) (code) (hw : Memory.wf s.mem = true) : Memory.wf (State.redDone s n code).mem =
    true := by
  unfold State.redDone
  grind [State.raise_mem, State.agentStore_wf, State.errorRecord_mem, State.agentAdd_wf, foldl_wf, foldl_mem]

@[simp] theorem State.devRead_mem (s : State) (a) (n) : (State.devRead s a n).1.mem = s.mem := by
  unfold State.devRead
  grind [State.dbgRead_mem, foldl_mem]

theorem State.writeL2Class_mem (s : State) (d) (v) : ∀ nx, State.writeL2Class s d v = some nx → nx.mem = s.mem := by
  intro nx h
  unfold State.writeL2Class at h
  grind [State.modDie_mem, foldl_mem]

theorem State.writeBucket_mem (s : State) (k) (v) : ∀ nx, State.writeBucket s k v = some nx → nx.mem = s.mem := by
  intro nx h
  unfold State.writeBucket at h
  grind [foldl_mem]

theorem State.writeQuota_mem (s : State) (a1) (v) : ∀ nx, State.writeQuota s a1 v = some nx → nx.mem = s.mem := by
  intro nx h
  unfold State.writeQuota at h
  grind [foldl_mem]

theorem State.writeFabCfg_mem (s : State) (v) : ∀ nx, State.writeFabCfg s v = some nx → nx.mem = s.mem := by
  intro nx h
  unfold State.writeFabCfg at h
  grind [foldl_mem]

theorem State.curatorWrite_mem (s : State) (o) (v) (mask) : ∀ nx, State.curatorWrite s o v mask = some nx → nx.mem =
    s.mem := by
  intro nx h
  unfold State.curatorWrite at h
  grind [State.writeL2Class_mem, State.writeSpirePwr_mem, State.writeBucket_mem, State.writeQuota_mem,
      State.writeFabCfg_mem, State.writeBelfryCfg_mem, foldl_mem]

@[simp] theorem State.writeTail_mem (s : State) (q) (tail) : (State.writeTail s q tail).mem = s.mem := by
  unfold State.writeTail
  grind [State.modQueue_mem, foldl_mem]

theorem State.outsideWrite_wf (s : State) (door) (o) (v) (mask) (hw : Memory.wf s.mem = true) : ∀ nx, State.outsideWrite
    s door o v mask = some nx → Memory.wf nx.mem = true := by
  intro nx h
  unfold State.outsideWrite at h
  grind [State.writeTail_mem, State.modDie_mem, State.redStart_wf, State.writeDbgSel_mem, State.dbgWrite_mem,
      State.writeDbgAux_mem, State.writeDbgStat_mem, foldl_wf, foldl_mem]

theorem foldl_bind_wf {α} {f : State → α → Option State} {l : List α} {x : Option State}
    (hf : ∀ y a z, Memory.wf y.mem = true → f y a = some z → Memory.wf z.mem = true)
    (hx : ∀ z, x = some z → Memory.wf z.mem = true) :
    ∀ z, l.foldl (fun x a => x.bind fun y => f y a) x = some z → Memory.wf z.mem = true := by
  induction l generalizing x with
  | nil => exact hx
  | cons a l ih =>
    refine ih fun z h => ?_
    obtain ⟨y, rfl, hy⟩ := Option.bind_eq_some_iff.1 h
    exact hf _ _ _ (hx _ rfl) hy
theorem State.devWrite_wf (s : State) (door) (a) (bs) (hw : Memory.wf s.mem = true) :
    ∀ nx, State.devWrite s door a bs = some nx → Memory.wf nx.mem = true := by
  unfold State.devWrite
  exact foldl_bind_wf (fun y o z hy => State.outsideWrite_wf y door o _ _ hy z) (fun z h => by simp_all)

theorem State.outsideAccess_wf (s : State) (write) (pa) (size) (value) (hw : Memory.wf s.mem = true) :
    Memory.wf (State.outsideAccess s write pa size value).mem = true := by
  unfold State.outsideAccess
  split
  · exact hw
  · refine State.atHomes_wf _ _ hw ?_
    split
    · exact State.storeLines_wf _ _ _ _ hw
    · simpa using hw

@[simp] theorem State.loseLink_mem (s : State) (k) : (State.loseLink s k).mem = s.mem := by
  unfold State.loseLink
  simp

@[simp] theorem State.modRing_mem (s : State) (core) (phys) (f) : (State.modRing s core phys f).mem = s.mem := by
  unfold State.modRing
  simp

@[simp] theorem State.modMessage_mem (s : State) (n) (f) : (State.modMessage s n f).mem = s.mem := by
  unfold State.modMessage
  simp

@[simp] theorem State.sendAnswer_mem (s : State) (n) : (State.sendAnswer s n).mem = s.mem := by
  unfold State.sendAnswer
  simp

@[simp] theorem State.answer_mem (s : State) (n) (status) : (State.answer s n status).mem = s.mem := by
  unfold State.answer
  (repeat' split) <;> simp

@[simp] theorem State.noRing_mem (s : State) (p) : (State.noRing s p).mem = s.mem := by
  unfold State.noRing
  grind [State.answer_mem, foldl_mem]

@[simp] theorem State.releaseRings_mem (s : State) (a1) : (State.releaseRings s a1).mem = s.mem := by
  unfold State.releaseRings
  simp

@[simp] theorem State.ringWord_mem (s : State) (i) (n) (own) (act) (ha : ∀ x r y, (act x r y).mem = x.mem) :
    (State.ringWord s i n own act).mem = s.mem := by
  unfold State.ringWord
  refine State.collective_mem _ _ _ _ fun x l => ?_
  (repeat' split) <;> simp [ha]

@[simp] theorem State.sendMessage_mem (s : State) (n) : (State.sendMessage s n).mem = s.mem := by
  unfold State.sendMessage
  grind [State.packetGo_mem, foldl_mem]

@[simp] theorem State.sendWord_mem (s : State) (i) (x) (y) (z) (wait) : (State.sendWord s i x y z wait).mem = s.mem := by
  unfold State.sendWord
  grind [State.perform_mem, State.sendMessage_mem, foldl_mem]

@[simp] theorem State.appendMessage_mem (s : State) (n) (x) : (State.appendMessage s n x).mem = s.mem := by
  unfold State.appendMessage
  simp

theorem State.catalogue_wf (s : State) (die) (sp) (ptr) (hw : Memory.wf s.mem = true) : Memory.wf (State.catalogue s die
    sp ptr).1.mem = true := by
  unfold State.catalogue
  grind [State.agentLoad_wf, foldl_wf, foldl_mem]

theorem State.counterOk_wf (s : State) (die) (sp) (ptr) (inc) (hw : Memory.wf s.mem = true) : Memory.wf (State.counterOk
    s die sp ptr inc).1.mem = true := by
  unfold State.counterOk
  grind [State.agentCheck_wf, foldl_wf, foldl_mem]

theorem State.entryLine_wf (s : State) (die) (sp) (pc) (hw : Memory.wf s.mem = true) : Memory.wf (State.entryLine s die
    sp pc).1.mem = true := by
  unfold State.entryLine
  grind [State.agentAt_wf, State.l2Read_mem, foldl_wf, foldl_mem]

theorem State.blockLines_wf (s : State) (die) (sp) (b) (nclass) (hw : Memory.wf s.mem = true) : Memory.wf
    (State.blockLines s die sp b nclass).1.mem = true := by
  unfold State.blockLines
  grind [State.entryLine_wf, foldl_wf, foldl_mem]

theorem State.blockChecks_wf (s : State) (q) (sp) (part) (bs) (hw : Memory.wf s.mem = true) : Memory.wf
    (State.blockChecks s q sp part bs).1.mem = true := by
  unfold State.blockChecks
  grind [State.catalogue_wf, State.counterOk_wf, State.blockLines_wf, foldl_wf, foldl_mem]

theorem State.takeBlock_wf (s : State) (q) (sp) (part) (va) (hw : Memory.wf s.mem = true) : Memory.wf (State.takeBlock s
    q sp part va).1.mem = true := by
  unfold State.takeBlock
  grind [State.agentLoad_wf, State.blockChecks_wf, foldl_wf, foldl_mem]

@[simp] theorem State.freeStore_mem (s : State) (core) (st) (pos) (team) : (State.freeStore s core st pos team).mem =
    s.mem := by
  unfold State.freeStore
  (repeat' split) <;> simp

@[simp] theorem State.gain_mem (s : State) (core) : (State.gain s core).mem = s.mem := by
  unfold State.gain
  simp

@[simp] theorem State.vacate_mem (s : State) (core) : (State.vacate s core).mem = s.mem := by
  unfold State.vacate
  (repeat' split) <;> simp

@[simp] theorem State.freeHalves_mem (s : State) (hs) (team) : (State.freeHalves s hs team).mem = s.mem := by
  unfold State.freeHalves
  grind [State.freeStore_mem, State.gain_mem, State.vacate_mem, foldl_mem]

@[simp] theorem State.dropOwner_mem (s : State) (core) (a2) : (State.dropOwner s core a2).mem = s.mem := by
  unfold State.dropOwner
  (repeat' split) <;> simp

@[simp] theorem State.dropMonitors_mem (s : State) (a1) : (State.dropMonitors s a1).mem = s.mem := by
  unfold State.dropMonitors
  simp

@[simp] theorem State.releaseTables_mem (s : State) (a1) : (State.releaseTables s a1).mem = s.mem := by
  unfold State.releaseTables
  simp

theorem State.spillPieces_wf (s : State) (die) (sp) (fuel) (va) (n) (off) (hw : Memory.wf s.mem = true) : Memory.wf
    ((State.spillPieces s die sp fuel va n off).1).mem = true := by
  induction fuel generalizing s va n off with
  | zero => exact hw
  | succ k ih =>
    unfold State.spillPieces
    grind [State.agentAt_wf]

theorem State.spillThread_wf (s : State) (r) (hw : Memory.wf s.mem = true) : Memory.wf (State.spillThread s r).1.mem =
    true := by
  unfold State.spillThread
  grind [State.spillPieces_wf, State.launchFlight_mem, foldl_wf, foldl_mem]

theorem State.spillTeam_wf (s : State) (t) (hw : Memory.wf s.mem = true) : Memory.wf (State.spillTeam s t).mem = true := by
  unfold State.spillTeam
  extract_lets out
  have ho : Memory.wf out.1.mem = true := by
    refine List.foldlRecOn _ _ (motive := fun x : State × Bool => Memory.wf x.1.mem = true) hw fun x hx r _ => ?_
    exact State.spillThread_wf _ _ hx
  split
  · simpa using ho
  · exact ho

theorem State.evictTeam_wf (s : State) (a1) (hw : Memory.wf s.mem = true) : Memory.wf (State.evictTeam s a1).mem = true
    := by
  unfold State.evictTeam
  grind [State.discardRegion_mem, State.spillTeam_wf, State.discardLoads_mem, State.modTeam_mem, State.dropMonitors_mem,
      foldl_wf, foldl_mem]

theorem State.evictTeams_wf (s : State) (ts) (hw : Memory.wf s.mem = true) : Memory.wf (State.evictTeams s ts).mem = true
    := by
  unfold State.evictTeams
  grind [State.freeHalves_mem, State.evictTeam_wf, State.dropOwner_mem, foldl_wf, foldl_mem]

@[simp] theorem State.entryLines_mem (s : State) (l) (core) : (State.entryLines s l core).mem = s.mem := by
  unfold State.entryLines
  grind [State.ilinePut_mem, foldl_mem]

@[simp] theorem State.putRings_mem (s : State) (a1) (seats) : (State.putRings s a1 seats).mem = s.mem := by
  unfold State.putRings
  grind [State.releaseRings_mem, foldl_mem]

@[simp] theorem State.seatCores_mem (s : State) (seats) : (State.seatCores s seats).mem = s.mem := by
  unfold State.seatCores
  grind [State.modCore_mem, foldl_mem]

@[simp] theorem State.putFresh_mem (s : State) (a1) (seats) (ctx) : (State.putFresh s a1 seats ctx).mem = s.mem := by
  unfold State.putFresh
  grind [State.modTeam_mem, State.putRings_mem, State.modLaunch_mem, State.seatCores_mem, State.entryLines_mem, foldl_mem]

theorem State.readRecords_wf (s : State) (t) (die) (hw : Memory.wf s.mem = true) :
    Memory.wf (State.readRecords s t die).1.mem = true := by
  unfold State.readRecords
  refine List.foldlRecOn _ _ (motive := fun x : State × Except (BitVec 8) (List (List Byte)) => Memory.wf x.1.mem = true) hw
    fun x hx r _ => ?_
  grind [State.agentLoad_wf]

@[simp] theorem State.reform_mem (s : State) (a1) : (State.reform s a1).mem = s.mem := by
  unfold State.reform
  grind [State.modThr_mem, foldl_mem]

@[simp] theorem State.noticeBack_mem (s : State) (a1) (die) : (State.noticeBack s a1 die).mem = s.mem := by
  unfold State.noticeBack
  (repeat' split) <;> simp

theorem State.putEvicted_wf (s : State) (a1) (seats) (hw : Memory.wf s.mem = true) : Memory.wf (State.putEvicted s a1
    seats).mem = true := by
  unfold State.putEvicted
  grind [State.readRecords_wf, State.endLaunch_mem, State.modTeam_mem, State.putRings_mem, State.entryLines_mem,
      State.seatCores_mem, State.noticeBack_mem, State.reform_mem, foldl_wf, foldl_mem]

theorem State.putTeam_wf (s : State) (a1) (seats) (gone) (ctx) (hw : Memory.wf s.mem = true) : Memory.wf (State.putTeam s
    a1 seats gone ctx).mem = true := by
  unfold State.putTeam
  (repeat' split) <;> simp [*, State.evictTeams_wf, State.putEvicted_wf, State.putFresh_mem]

@[simp] theorem State.startTeams_mem (s : State) (ts) : (State.startTeams s ts).mem = s.mem := by
  unfold State.startTeams
  grind [State.modTeam_mem, foldl_mem]

@[simp] theorem State.tryStart_mem (s : State) (a1) : (State.tryStart s a1).mem = s.mem := by
  unfold State.tryStart
  grind [State.modLaunch_mem, State.startTeams_mem, foldl_mem]

@[simp] theorem State.noteReserve_mem (s : State) (l) : (State.noteReserve s l).mem = s.mem := by
  unfold State.noteReserve
  grind [foldl_mem]

theorem State.placeOne_wf (s : State) (t) (ctx) (cores) (hw : Memory.wf s.mem = true) :
    ∀ nx, State.placeOne s t ctx cores = some nx → Memory.wf nx.mem = true := by
  intro nx h
  obtain ⟨x, _, rfl⟩ := Option.map_eq_some_iff.1 h
  exact State.putTeam_wf _ _ _ _ _ hw

theorem State.placeAll_wf (ctx) (cores) (ts) (s : State) (hw : Memory.wf s.mem = true) :
    ∀ nx, State.placeAll ctx cores ts s = some nx → Memory.wf nx.mem = true := by
  induction ts generalizing s with
  | nil => intro nx h; simp_all [State.placeAll]
  | cons t ts ih =>
    intro nx h
    unfold State.placeAll at h
    split at h
    · exact ih _ (State.placeOne_wf _ _ _ _ hw _ ‹_›) _ h
    · simp at h

@[simp] theorem State.joinCohort_mem (s : State) (l) (ts) (cluster) : (State.joinCohort s l ts cluster).mem = s.mem := by
  unfold State.joinCohort
  grind [State.modTeam_mem, State.modLaunch_mem, foldl_mem]

theorem State.formIn_wf (s : State) (l) (ctx) (ts) (gs) (hw : Memory.wf s.mem = true) :
    ∀ nx, State.formIn s l ctx ts gs = some nx → Memory.wf nx.mem = true := by
  intro nx h
  obtain ⟨g, _, h⟩ := List.exists_of_findSome?_eq_some h
  split at h
  · simp at h
  · dsimp only at h
    split at h
    · injection h with h
      subst h
      rw [State.joinCohort_mem]
      exact State.placeAll_wf _ _ _ _ hw _ ‹_›
    · simp at h

theorem State.formCohort_wf (s : State) (d) (l) (ctx) (hw : Memory.wf s.mem = true) :
    ∀ nx, State.formCohort s d l ctx = some nx → Memory.wf nx.mem = true := by
  intro nx h
  obtain ⟨n, _, h⟩ := List.exists_of_findSome?_eq_some h
  dsimp only at h
  split at h
  · exact State.formIn_wf _ _ _ _ _ hw _ h
  · simp at h

theorem State.placeNext_wf (s : State) (d) (l) (ctx) (hw : Memory.wf s.mem = true) :
    ∀ nx ny, State.placeNext s d l ctx = some (nx, ny) → Memory.wf nx.mem = true := by
  intro nx ny h
  unfold State.placeNext at h
  extract_lets x at h
  split at h
  · simp at h
  · split at h
    · obtain ⟨y, hy, he⟩ := Option.map_eq_some_iff.1 h
      cases he
      exact State.formCohort_wf _ _ _ _ hw _ hy
    · obtain ⟨y, hy, he⟩ := Option.map_eq_some_iff.1 h
      cases he
      exact State.placeOne_wf _ _ _ _ hw _ hy

@[simp] theorem State.drawOne_mem (s : State) (l) (d) : (State.drawOne s l d).mem = s.mem := by
  unfold State.drawOne
  simp

@[simp] theorem State.drawMany_mem (s : State) (l) (d) (n) : (State.drawMany s l d n).mem = s.mem := by
  induction n generalizing s with
  | zero => rfl
  | succ n ih => simp [State.drawMany, ih]

theorem State.placeMore_wf (s : State) (l) (d) (hw : Memory.wf s.mem = true) :
    ∀ nx, State.placeMore s l d = some nx → Memory.wf nx.mem = true := by
  intro nx h
  unfold State.placeMore at h
  extract_lets x at h
  split at h
  · obtain ⟨y, hy, rfl⟩ := Option.map_eq_some_iff.1 h
    exact State.placeNext_wf _ _ _ _ hw _ _ hy
  · split at h
    · simp at h
    · split at h
      · obtain ⟨y, hy, rfl⟩ := Option.map_eq_some_iff.1 h
        exact State.placeNext_wf _ _ _ _ (by simpa using hw) _ _ hy
      · obtain ⟨n, _, h⟩ := List.exists_of_findSome?_eq_some h
        exact State.formCohort_wf _ _ _ _ (by simpa using hw) _ h

@[simp] theorem State.lift_mem (s : State) (tenant) : (State.lift s tenant).mem = s.mem := by
  unfold State.lift
  simp

@[simp] theorem State.countThrottled_mem (s : State) (d) (ctx) : (State.countThrottled s d ctx).mem = s.mem := by
  unfold State.countThrottled
  grind [State.count_mem, State.lift_mem, foldl_mem]

@[simp] theorem State.stopQueue_mem (s : State) (n) (code) : (State.stopQueue s n code).mem = s.mem := by
  unfold State.stopQueue
  simp

theorem State.statusOk_wf (s : State) (n) (ptr) (hw : Memory.wf s.mem = true) : Memory.wf (State.statusOk s n ptr).1.mem
    = true := by
  unfold State.statusOk
  grind [State.agentCheck_wf, foldl_wf, foldl_mem]

theorem State.writeStatus_wf (s : State) (die) (sp) (harvest) (ptr) (bs) (hw : Memory.wf s.mem = true) : Memory.wf
    (State.writeStatus s die sp harvest ptr bs).mem = true := by
  unfold State.writeStatus
  grind [State.agentStore_wf, State.errorRecord_mem, foldl_wf, foldl_mem]

@[simp] theorem State.passHead_mem (s : State) (n) : (State.passHead s n).mem = s.mem := by
  unfold State.passHead
  simp

theorem State.finishHead_wf (s : State) (n) (p) (code) (extra) (hw : Memory.wf s.mem = true) : Memory.wf
    (State.finishHead s n p code extra).mem = true := by
  unfold State.finishHead
  simp [*, State.passHead_mem, State.writeStatus_wf]

theorem State.take_wf (s : State) (n) (mine) (act) (hw : Memory.wf s.mem = true)
    (ha : ∀ x p, Memory.wf x.mem = true → Memory.wf (act x p).mem = true) : Memory.wf (State.take s n mine act).mem = true := by
  have hs := State.statusOk_wf s n
  unfold State.take
  (repeat' split) <;> grind [State.stopQueue_mem]

@[simp] theorem State.noteServed_mem (s : State) (n) : (State.noteServed s n).mem = s.mem := by
  unfold State.noteServed
  simp

theorem State.frontAdd_wf (s : State) (die) (sp) (harvest) (ptr) (inc) (mark) (hw : Memory.wf s.mem = true) : Memory.wf
    (State.frontAdd s die sp harvest ptr inc mark).mem = true := by
  unfold State.frontAdd
  grind [State.agentAdd_wf, State.errorRecord_mem, foldl_wf, foldl_mem]

theorem State.finalAdd_wf (s : State) (die) (sp) (harvest) (ptr) (inc) (mark) (hw : Memory.wf s.mem = true) : Memory.wf
    (State.finalAdd s die sp harvest ptr inc mark).mem = true := by
  unfold State.finalAdd
  (repeat' split) <;> simp [*, State.frontAdd_wf]

theorem State.rejectLaunch_wf (s : State) (n) (p) (c) (hw : Memory.wf s.mem = true) : Memory.wf (State.rejectLaunch s n p
    c).mem = true := by
  unfold State.rejectLaunch
  grind [State.evaluate_mem, State.finishHead_wf, State.counterOk_wf, State.finalAdd_wf, foldl_wf, foldl_mem]

theorem State.takeLaunch_wf (s : State) (n) (p) (hw : Memory.wf s.mem = true) : Memory.wf (State.takeLaunch s n p).mem =
    true := by
  unfold State.takeLaunch
  grind [State.takeBlock_wf, State.noteServed_mem, State.rejectLaunch_wf, State.evaluate_mem, State.passHead_mem,
      foldl_wf, foldl_mem]

theorem State.waitReached_wf (s : State) (n) (p) (hw : Memory.wf s.mem = true) : Memory.wf (State.waitReached s n
    p).1.mem = true := by
  unfold State.waitReached
  grind [State.agentAt_wf, foldl_wf, foldl_mem]

theorem State.judgeWait_wf (s : State) (n) (p) (hw : Memory.wf s.mem = true) : Memory.wf (State.judgeWait s n p).mem =
    true := by
  unfold State.judgeWait
  grind [State.stopQueue_mem, State.waitReached_wf, State.modQueue_mem, State.statusOk_wf, State.finishHead_wf, foldl_wf,
      foldl_mem]

theorem State.retryWait_wf (s : State) (n) (a2) (hw : Memory.wf s.mem = true) : Memory.wf (State.retryWait s n a2).mem =
    true := by
  unfold State.retryWait
  grind [State.stopQueue_mem, State.modQueue_mem, State.agentAt_wf, State.judgeWait_wf, foldl_wf, foldl_mem]

theorem State.finishGang_wf (s : State) (g) (hw : Memory.wf s.mem = true) : Memory.wf (State.finishGang s g).mem = true
    := by
  unfold State.finishGang
  grind [State.finalAdd_wf, State.writeStatus_wf, foldl_wf, foldl_mem]

@[simp] theorem State.badOp_mem (s : State) : (State.badOp s).state.mem = s.mem := by
  unfold State.badOp
  simp

@[simp] theorem State.okOp_mem (s : State) : (State.okOp s).state.mem = s.mem := by
  unfold State.okOp
  simp

@[simp] theorem State.busyOp_mem (s : State) : (State.busyOp s).state.mem = s.mem := by
  unfold State.busyOp
  simp

@[simp] theorem State.rejectOp_mem (s : State) (reason) : (State.rejectOp s reason).state.mem = s.mem := by
  unfold State.rejectOp
  simp

@[simp] theorem State.opQcreate_mem (s : State) (p) : (State.opQcreate s p).state.mem = s.mem := by
  unfold State.opQcreate
  grind [State.badOp_mem, State.busyOp_mem, State.okOp_mem, State.modQueue_mem, foldl_mem]

@[simp] theorem State.opQdestroy_mem (s : State) (p) : (State.opQdestroy s p).state.mem = s.mem := by
  unfold State.opQdestroy
  (repeat' split) <;> simp

@[simp] theorem State.opQprio_mem (s : State) (p) : (State.opQprio s p).state.mem = s.mem := by
  unfold State.opQprio
  grind [State.badOp_mem, State.okOp_mem, State.modQueue_mem, foldl_mem]

theorem State.opQreset_wf (s : State) (p) (hw : Memory.wf s.mem = true) : Memory.wf (State.opQreset s p).state.mem = true
    := by
  unfold State.opQreset
  grind [State.badOp_mem, State.okOp_mem, State.modQueue_mem, State.passHead_mem, State.statusOk_wf, State.finishHead_wf,
      foldl_wf, foldl_mem]

@[simp] theorem State.opRegwrite_mem (s : State) (p) : (State.opRegwrite s p).state.mem = s.mem := by
  unfold State.opRegwrite
  extract_lets addr mask o
  split
  · simp
  · split
    · simp
    · split
      · simp
      · split
        · rw [State.okOp_mem]
          exact State.curatorWrite_mem _ _ _ _ _ ‹_›
        · simp

@[simp] theorem State.opPartition_mem (s : State) (p) : (State.opPartition s p).state.mem = s.mem := by
  unfold State.opPartition
  grind [State.badOp_mem, State.busyOp_mem, State.okOp_mem, foldl_mem]

@[simp] theorem State.requestPreempt_mem (s : State) (a1) : (State.requestPreempt s a1).mem = s.mem := by
  unfold State.requestPreempt
  simp

@[simp] theorem State.opPreempt_mem (s : State) (p) : (State.opPreempt s p).state.mem = s.mem := by
  unfold State.opPreempt
  grind [State.badOp_mem, State.busyOp_mem, State.okOp_mem, State.requestPreempt_mem, foldl_mem]

@[simp] theorem State.resumeTeam_mem (s : State) (a1) : (State.resumeTeam s a1).mem = s.mem := by
  unfold State.resumeTeam
  (repeat' split) <;> simp

@[simp] theorem State.opResume_mem (s : State) (p) : (State.opResume s p).state.mem = s.mem := by
  unfold State.opResume
  grind [State.badOp_mem, State.okOp_mem, State.resumeTeam_mem, foldl_mem]

@[simp] theorem State.opHalt_mem (s : State) (p) : (State.opHalt s p).state.mem = s.mem := by
  unfold State.opHalt
  grind [State.badOp_mem, State.okOp_mem, State.haltTeam_mem, foldl_mem]

@[simp] theorem State.opEnd_mem (s : State) (p) : (State.opEnd s p).state.mem = s.mem := by
  unfold State.opEnd
  grind [State.badOp_mem, State.okOp_mem, State.endOne_mem, foldl_mem]

@[simp] theorem State.opFwload_mem (s : State) (p) : (State.opFwload s p).state.mem = s.mem := by
  unfold State.opFwload
  grind [State.badOp_mem, State.rejectOp_mem, State.okOp_mem, State.restartCurator_mem, foldl_mem]

@[simp] theorem State.opSvncommit_mem (s : State) : (State.opSvncommit s).state.mem = s.mem := by
  unfold State.opSvncommit
  grind [State.rejectOp_mem, State.okOp_mem, foldl_mem]

theorem State.adminOp_wf (s : State) (p) (hw : Memory.wf s.mem = true) : Memory.wf (State.adminOp s p).state.mem = true
    := by
  unfold State.adminOp
  (repeat' split) <;> simp [*, State.opQcreate_mem, State.opQdestroy_mem, State.opQprio_mem, State.opQreset_wf,
      State.opRegwrite_mem, State.opPartition_mem, State.opPreempt_mem, State.opResume_mem, State.opHalt_mem,
      State.opEnd_mem, State.opFwload_mem, State.opSvncommit_mem, State.badOp_mem]

theorem State.adminStep_wf (s : State) (op) (effect) (hw : Memory.wf s.mem = true)
    (he : ∀ x p, Memory.wf x.mem = true → Memory.wf (effect x p).state.mem = true) :
    Memory.wf (State.adminStep s op effect).mem = true := by
  refine State.take_wf _ _ _ _ hw fun x p hx => State.finishHead_wf _ _ _ _ _ ?_
  split
  · exact he _ _ hx
  · simpa using hx

@[simp] theorem State.cycleTrap_mem (s : State) (u) (result) : (State.cycleTrap s u result).mem = s.mem := by
  unfold State.cycleTrap
  grind [State.trapFrag_mem, State.settleAll_mem, foldl_mem]

@[simp] theorem State.holdAcc_mem (s : State) (a1) (k) : (State.holdAcc s a1 k).mem = s.mem := by
  unfold State.holdAcc
  grind [State.modCore_mem, State.noShares_mem, State.modHalf_mem, State.freeStore_mem, foldl_mem]

theorem State.writeSave_wf (s : State) (a1) (hw : Memory.wf s.mem = true) : Memory.wf (State.writeSave s a1).mem = true
    := by
  unfold State.writeSave
  grind [State.storeLines_wf, foldl_wf, foldl_mem]

@[simp] theorem State.jump_mem (s : State) (i) (tgt) (link) : (State.jump s i tgt link).mem = s.mem := by
  unfold State.jump
  simp

@[simp] theorem State.hintWord_mem (s : State) (i) (a2) (own) : (State.hintWord s i a2 own).mem = s.mem := by
  unfold State.hintWord
  grind [State.modThr_mem, State.settleAll_mem, State.trapBad_mem, State.waitStalled_mem, foldl_mem]

theorem State.checkPart_wf (s : State) (q) (seen) (e) (hw : Memory.wf s.mem = true) : Memory.wf (State.checkPart s q seen
    e).1.mem = true := by
  unfold State.checkPart
  grind [State.takeBlock_wf, foldl_wf, foldl_mem]

theorem State.checkParts_wf (q) (es) (s : State) (done) (hw : Memory.wf s.mem = true) :
    Memory.wf (State.checkParts q es s done).1.mem = true := by
  induction es generalizing s done with
  | nil => exact hw
  | cons e es ih =>
    unfold State.checkParts
    grind [State.checkPart_wf]

theorem State.gangCounter_wf (s : State) (q) (ptr) (hw : Memory.wf s.mem = true) : Memory.wf (State.gangCounter s q
    ptr).1.mem = true := by
  unfold State.gangCounter
  grind [State.agentCheck_wf, foldl_wf, foldl_mem]

theorem State.rejectGang_wf (s : State) (n) (p) (code) (hw : Memory.wf s.mem = true) : Memory.wf (State.rejectGang s n p
    code).mem = true := by
  unfold State.rejectGang
  grind [State.evaluate_mem, State.finishHead_wf, State.gangCounter_wf, State.finalAdd_wf, foldl_wf, foldl_mem]

@[simp] theorem State.beginGang_mem (s : State) (n) (p) (parts) : (State.beginGang s n p parts).mem = s.mem := by
  unfold State.beginGang
  simp

theorem State.takeGang_wf (s : State) (n) (p) (hw : Memory.wf s.mem = true) : Memory.wf (State.takeGang s n p).mem = true
    := by
  unfold State.takeGang
  grind [State.agentLoad_wf, State.rejectGang_wf, State.noteServed_mem, State.checkParts_wf, State.gangCounter_wf,
      State.beginGang_mem, foldl_wf, foldl_mem]

@[simp] theorem State.sweep_mem (s : State) (s1 : State) (r) (slots) (sizes) (n) (draws) (f) : (State.sweep s s1 r slots
    sizes n draws f).mem = s1.mem := by
  unfold State.sweep
  grind [State.modHalf_mem, State.modTeam_mem, State.pushReport_mem, foldl_mem]

@[simp] theorem State.optimise_mem (s : State) (i) (slots) (z) (k) (draws) (elem) : (State.optimise s i slots z k draws
    elem).mem = s.mem := by
  unfold State.optimise
  grind [State.collective_mem, State.sweep_mem, foldl_mem]

@[simp] theorem State.vred_mem (s : State) (i) (isMax) (x) (y) (z) (draws) (elem) : (State.vred s i isMax x y z draws
    elem).mem = s.mem := by
  unfold State.vred
  grind [State.collective_mem, State.sweep_mem, foldl_mem]

theorem State.mmvAt_wf (s : State) (n) (va) (need) (acc) (go) (hw : Memory.wf s.mem = true)
    (hg : ∀ x l a, Memory.wf x.mem = true → Memory.wf (go x l a).mem = true) : Memory.wf
    (State.mmvAt s n va need acc go).mem = true := by
  have h := State.walkNow_wf s (s.cmds.getD n default).core (s.cmds.getD n default).asid (s.cmds.getD n default).root
    (s.cmds.getD n default).cm va need acc hw
  unfold State.mmvAt
  dsimp only
  split <;> rename_i h2 <;> rw [h2] at h
  · exact hg _ _ _ h
  · exact h
  · exact h

theorem State.mmvVector_wf (s : State) (n) (hw : Memory.wf s.mem = true) : Memory.wf (State.mmvVector s n).mem = true := by
  unfold State.mmvVector
  dsimp only
  exact State.mmvAt_wf _ _ _ _ _ _ hw fun x l a hx => by simpa using hx

theorem State.mmvWeight_wf (s : State) (n) (hw : Memory.wf s.mem = true) : Memory.wf (State.mmvWeight s n).mem = true := by
  unfold State.mmvWeight
  dsimp only
  split <;> exact State.mmvAt_wf _ _ _ _ _ _ hw fun x l a hx => by (repeat' split) <;> simpa using hx

@[simp] theorem State.mmvTake_mem (s : State) (n) (a) (k) : (State.mmvTake s n a k).mem = s.mem := by
  unfold State.mmvTake
  simp

theorem State.mmvOld_wf (s : State) (n) (hw : Memory.wf s.mem = true) : Memory.wf (State.mmvOld s n).mem = true := by
  unfold State.mmvOld
  dsimp only
  exact State.mmvAt_wf _ _ _ _ _ _ hw fun x l a hx => by simpa using hx

theorem State.mmvResult_wf (s : State) (n) (hw : Memory.wf s.mem = true) : Memory.wf (State.mmvResult s n).mem = true := by
  unfold State.mmvResult
  dsimp only
  exact State.mmvAt_wf _ _ _ _ _ _ hw fun x l a hx => by (repeat' split) <;> simpa using hx

theorem State.mmvStep_wf (s : State) (n) (hw : Memory.wf s.mem = true) : Memory.wf (State.mmvStep s n).mem = true := by
  unfold State.mmvStep
  grind [State.mmvVector_wf, State.mmvWeight_wf, State.mmvOld_wf, State.mmvResult_wf, foldl_wf, foldl_mem]

@[simp] theorem State.mmvFinish_mem (s : State) (n) : (State.mmvFinish s n).mem = s.mem := by
  unfold State.mmvFinish
  grind [State.batchesEnd_mem, State.dropWrote_mem, State.modCmd_mem, State.estatFault_mem, State.cpstatFault_mem,
      foldl_mem]

theorem State.mmvEnd_wf (s : State) (n) (hw : Memory.wf s.mem = true) : Memory.wf (State.mmvEnd s n).mem = true := by
  unfold State.mmvEnd
  grind [State.counterSend_wf, State.dropWrote_mem, State.mmvFinish_mem, foldl_wf, foldl_mem]

@[simp] theorem State.modPort_mem (s : State) (id) (f) : (State.modPort s id f).mem = s.mem := by
  unfold State.modPort
  simp

@[simp] theorem State.recordLost_mem (s : State) (f) (p) : (State.recordLost s f p).mem = s.mem := by
  unfold State.recordLost
  simp

@[simp] theorem State.toHbm_mem (s : State) (n) (k) : (State.toHbm s n k).mem = s.mem := by
  unfold State.toHbm
  simp

@[simp] theorem State.l1Loaded_mem (s : State) (f) (p) : (State.l1Loaded s f p).mem = s.mem := by
  unfold State.l1Loaded
  (repeat' split) <;> simp

@[simp] theorem State.l1Stored_mem (s : State) (f) (p) : (State.l1Stored s f p).mem = s.mem := by
  unfold State.l1Stored
  (repeat' split) <;> simp

@[simp] theorem State.loadPiece_mem (s : State) (n) (k) : (State.loadPiece s n k).mem = s.mem := by
  unfold State.loadPiece
  grind [State.devRead_mem, State.donePiece_mem, State.l1Loaded_mem, State.l2Touch_mem, foldl_mem]

theorem State.storePiece_wf (s : State) (n) (k) (hw : Memory.wf s.mem = true) :
    ∀ nx, State.storePiece s n k = some nx → Memory.wf nx.mem = true := by
  intro nx h
  unfold State.storePiece at h
  dsimp only at h
  split at h
  · obtain ⟨x, hx, rfl⟩ := Option.map_eq_some_iff.1 h
    simpa using State.devWrite_wf _ _ _ _ hw _ hx
  · injection h with h
    subst h
    rw [State.donePiece_mem, State.l1Stored_mem, foldl_mem fun x m => State.homePoison_mem ..]
    exact State.homeWrite_wf _ _ _ _ _ _ hw

@[simp] theorem State.entryRecord_mem (s : State) (a1) (core) (unit) (a) : (State.entryRecord s a1 core unit a).mem =
    s.mem := by
  unfold State.entryRecord
  simp

@[simp] theorem State.atomOld_mem (s : State) (p) : (State.atomOld s p).1.mem = s.mem := by
  unfold State.atomOld
  (repeat' split) <;> simp

theorem State.entryGlobal_wf (s : State) (t) (core) (e) (hw : Memory.wf s.mem = true) :
    ∀ nx, State.entryGlobal s t core e = some nx → Memory.wf nx.mem = true := by
  intro nx h
  unfold State.entryGlobal at h
  extract_lets img door at h
  split at h
  · split at h
    · injection h with h
      subst h
      simpa using hw
    · refine foldl_bind_wf (fun y p z hy h => ?_) (fun z h => ?_) nx h
      · split at h
        · exact State.devWrite_wf _ _ _ _ hy _ h
        · injection h with h
          subst h
          have := State.homeWrite_wf y (e.addr + p.off) (img + p.off) p.bytes (s.harvest t) 0 hy
          split <;> simpa using this
      · injection h with h
        subst h
        exact hw
  · dsimp only at h
    generalize hp : s.atomOld _ = x at h
    have h1 : x.1.mem = s.mem := by rw [← hp]; exact State.atomOld_mem s _
    have h2 : Memory.wf x.1.mem = true := by rw [h1]; exact hw
    split at h
    · injection h with h
      subst h
      simpa using h2
    · split at h
      · exact State.devWrite_wf _ _ _ _ (by exact h2) _ h
      · injection h with h
        subst h
        rw [State.l1Drop_mem]
        exact State.homeWrite_wf _ _ _ _ _ _ (by exact h2)
  · injection h with h
    subst h
    exact hw

theorem State.entryDrain_wf (s : State) (a1) (core) (e) (d) (hw : Memory.wf s.mem = true) : Memory.wf (State.entryDrain s
    a1 core e d).mem = true := by
  unfold State.entryDrain
  grind [State.drainPut_wf, State.endJoins_mem, State.l1Drop_mem, State.orEstat_mem, foldl_wf, foldl_mem]

@[simp] theorem State.entryLost_mem (s : State) (a1) (core) (e) : (State.entryLost s a1 core e).mem = s.mem := by
  unfold State.entryLost
  (repeat' split) <;> simp

theorem State.entryPiece_wf (s : State) (n) (k) (a3) (g) (hw : Memory.wf s.mem = true) : Memory.wf (State.entryPiece s n
    k a3 g).mem = true := by
  unfold State.entryPiece
  grind [State.donePiece_mem, State.entryLost_mem, State.entryDrain_wf, State.entryGlobal_wf, State.modGroup_mem,
      foldl_wf, foldl_mem]

@[simp] theorem State.counted_mem (s : State) (c) : (State.counted s c).mem = s.mem := by
  unfold State.counted
  (repeat' split) <;> simp

@[simp] theorem State.walkTo_mem (s : State) (die) (asid) (w) (x) (q) : (State.walkTo s die asid w x q).mem = s.mem := by
  unfold State.walkTo
  grind [State.modThr_mem, State.tlbPut_mem, foldl_mem]

@[simp] theorem State.entryScratch_mem (s : State) (a1) (a2) (core) (e) : (State.entryScratch s a1 a2 core e).mem = s.mem
    := by
  unfold State.entryScratch
  grind [State.entryRecord_mem, State.modHalf_mem, foldl_mem]

@[simp] theorem State.entrySend_mem (s : State) (a1) (g) (core) (e) : (State.entrySend s a1 g core e).mem = s.mem := by
  unfold State.entrySend
  simp

@[simp] theorem State.cycleStart_mem (s : State) (core) : (State.cycleStart s core).mem = s.mem := by
  unfold State.cycleStart
  grind [State.modThr_mem, foldl_mem]

@[simp] theorem State.cycleEnd_mem (s : State) (u) : (State.cycleEnd s u).mem = s.mem := by
  unfold State.cycleEnd
  grind [State.modThr_mem, State.fireCv_mem, State.judgeAllPhases_mem, foldl_mem]

@[simp] theorem State.tick_mem (s : State) (ns) : (State.tick s ns).mem = s.mem := by
  unfold State.tick
  simp

@[simp] theorem State.interval_mem (s : State) (watts) (t0) (t1) : (State.interval s watts t0 t1).mem = s.mem := by
  unfold State.interval
  simp

@[simp] theorem State.memError_mem (s : State) (addr) (len) : (State.memError s addr len).mem = s.mem := by
  unfold State.memError
  grind [State.homePoison_mem, State.errorRecord_mem, foldl_mem]

@[simp] theorem State.poolError_mem (s : State) (team) (half) (unit) (addr) : (State.poolError s team half unit addr).mem
    = s.mem := by
  unfold State.poolError
  simp

@[simp] theorem State.regError_mem (s : State) (r) (n) : (State.regError s r n).mem = s.mem := by
  unfold State.regError
  simp

@[simp] theorem State.dropL1_mem (s : State) (n) : (State.dropL1 s n).mem = s.mem := by
  unfold State.dropL1
  (repeat' split) <;> simp

@[simp] theorem State.dropILine_mem (s : State) (n) : (State.dropILine s n).mem = s.mem := by
  unfold State.dropILine
  (repeat' split) <;> simp

@[simp] theorem State.dropTlb_mem (s : State) (n) (parity) : (State.dropTlb s n parity).mem = s.mem := by
  unfold State.dropTlb
  (repeat' split) <;> simp

@[simp] theorem State.dropWalk_mem (s : State) (n) (parity) : (State.dropWalk s n parity).mem = s.mem := by
  unfold State.dropWalk
  (repeat' split) <;> simp

@[simp] theorem State.hostAbort_mem (s : State) (n) (k) : (State.hostAbort s n k).mem = s.mem := by
  unfold State.hostAbort
  simp

@[simp] theorem State.tableError_mem (s : State) (unit) (l) : (State.tableError s unit l).mem = s.mem := by
  unfold State.tableError
  grind [State.endLaunch_mem, State.errorRecord_mem, foldl_mem]

end Sys2Proof.Machine
end

