-- ==== Sys2Proof/Tests/Slice0.lean ====
section
/-! SUPPORT. Tests: what the well-formedness check refuses, every word row of the opcode table decoded, one small step of
many instructions with results from the manual, and a witness for the hypotheses of each statement. -/

namespace Sys2Proof.Tests

open Sys2Proof Sys2Proof.Machine

set_option Elab.async false

/-! ## What is not well formed (R232 to R234) -/

theorem test_ill_formed : ([.icmp 0 1 2 3 0 10, .cvt 0 1 2 3 1, .cvti 0 1 2 3 0 0, .atom 0 1 2 3 0 15, .atoms 0 1 2 3 0 15,
    .red 0 0 15 2 3, .bar 0 1 3, .bara 0 1 3, .barw 0 1 3, .barredOr 0 1 2 3 3, .barredAnd 0 1 2 3 3, .barredMax 0 1 2 3 3,
    .mma 0 1 2 3 0 0 3, .mmas 0 1 2 3 0 0 3, .mmaq 0 1 2 3 3 0, .mmaq 0 1 2 3 0 3, .csrr 0 0 0x10,
    .unassignedEncoding 0x040A30E5, .registerWrite 0 3 0, .powerMeasurement 0 0 0 [1] [], .hostAccess 0 false 0 17 0,
    .hostAccess 1 false 0 4 0, .peerAccess 0 false 0 0 0] : List Instr).all (fun i => !i.wellFormed) = true := by
  decide +kernel

/-! ## Decoding: one word of every row that has one, written out from the encoding tables (R222, R232 to R234) -/

/-- The word decodes to the instruction, which is well formed and whose encoding is the word. -/
def reads (p : Word × Instr) : Bool :=
  (match decode p.1 with | .ok i => i == p.2 | .error _ => false) && p.2.wellFormed && encode p.2 == p.1

theorem test_words_01_to_01 : ([(0x0694AD80, .iadd 5 10 21 44),
    (0x0694AD81, .isub 5 10 21 44),
    (0x0694AD82, .imul 5 10 21 44),
    (0x0694AD83, .imulh 5 10 21 44),
    (0x0694AD84, .imulhu 5 10 21 44),
    (0x0694AD85, .idiv 5 10 21 44),
    (0x0694AD86, .idivu 5 10 21 44),
    (0x0694AD87, .irem 5 10 21 44),
    (0x0694AD88, .iremu 5 10 21 44),
    (0x0694AD89, .imin 5 10 21 44),
    (0x0694AD8A, .imax 5 10 21 44),
    (0x0694AD8B, .iminu 5 10 21 44),
    (0x0694AD8C, .imaxu 5 10 21 44),
    (0x0694AD8D, .iadds 5 10 21 44),
    (0x0694AD8E, .isubs 5 10 21 44),
    (0x0694A80F, .iabs 5 10 21)] :
    List (Word × Instr)).all reads = true := by decide +kernel

theorem test_words_02_to_0A : ([(0x0A94AD80, .and 5 10 21 44),
    (0x0A94AD81, .or 5 10 21 44),
    (0x0A94AD82, .xor 5 10 21 44),
    (0x0A94AD83, .andn 5 10 21 44),
    (0x0A94AD84, .orn 5 10 21 44),
    (0x0A94AD85, .xnor 5 10 21 44),
    (0x0A94AD86, .shl 5 10 21 44),
    (0x0A94AD87, .shr 5 10 21 44),
    (0x0A94AD88, .sar 5 10 21 44),
    (0x0A94AD89, .rol 5 10 21 44),
    (0x0A94AD8A, .rot 5 10 21 44),
    (0x0A94A80B, .popc 5 10 21),
    (0x0A94A80C, .clz 5 10 21),
    (0x0A94A80D, .ctz 5 10 21),
    (0x0A94A80E, .brev 5 10 21),
    (0x0A94AD8F, .bfe 5 10 21 44),
    (0x0A94AD90, .bfi 5 10 21 44),
    (0x0A94A811, .mov 5 10 21),
    (0x0E94ADA3, .iaddi 5 10 21 1443),
    (0x1294ADA3, .imuli 5 10 21 1443),
    (0x1694ADA3, .andi 5 10 21 1443),
    (0x1A94ADA3, .ori 5 10 21 1443),
    (0x1E94ADA3, .xori 5 10 21 1443),
    (0x2294ADA3, .shli 5 10 21 1443),
    (0x2694ADA3, .shri 5 10 21 1443),
    (0x2A94ADA3, .sari 5 10 21 1443)] :
    List (Word × Instr)).all reads = true := by decide +kernel

theorem test_words_0B_to_13 : ([(0x2E9405A3, .movi 5 10 1443),
    (0x3294AD80, .aadd 5 10 21 44),
    (0x3294AD81, .asub 5 10 21 44),
    (0x3294AD82, .aadds 5 10 21 44),
    (0x3294AD83, .aaddu 5 10 21 44),
    (0x3294A804, .amov 5 10 21),
    (0x3294AD85, .amuls 5 10 21 44),
    (0x3294AD86, .amulu 5 10 21 44),
    (0x3694ADA3, .aaddi 5 10 21 1443),
    (0x428CAD95, .icmp 5 6 21 44 1 5),
    (0x468C1080, .pand 5 6 2 4),
    (0x468C1081, .por 5 6 2 4),
    (0x468C1082, .pxor 5 6 2 4),
    (0x468C1083, .pandn 5 6 2 4),
    (0x468C1004, .pnot 5 6 2),
    (0x468C1005, .pmov 5 6 2),
    (0x46940006, .pget 5 10),
    (0x46805007, .pput 5 10),
    (0x4A94AD81, .sel 5 10 21 44 1),
    (0x4E8C1000, .voteAny 5 6 2),
    (0x4E8C1001, .voteAll 5 6 2),
    (0x4E941002, .voteBal 5 10 2),
    (0x4E94AD83, .shflIdx 5 10 21 44),
    (0x4E94AD84, .shflUp 5 10 21 44),
    (0x4E94AD85, .shflDown 5 10 21 44),
    (0x4E94AD86, .shflXor 5 10 21 44)] :
    List (Word × Instr)).all reads = true := by decide +kernel

theorem test_words_14_to_16 : ([(0x52CD2A1B, .bra 5 5057051),
    (0x56CD2A1B, .call 5 5057051),
    (0x5A805000, .ret 5 10),
    (0x5A805001, .jmpr 5 10),
    (0x5A805002, .callr 5 10),
    (0x5A8052A3, .brx 5 10 21),
    (0x5A800004, .exit 5),
    (0x5A800005, .nop 5),
    (0x5A800006, .yield 5),
    (0x5A94AD87, .schsel 5 10 21 44)] :
    List (Word × Instr)).all reads = true := by decide +kernel

theorem test_words_18_to_1C : ([(0x6294AD80, .fadd 5 10 21 44),
    (0x6294AD81, .fsub 5 10 21 44),
    (0x6294AD82, .fmul 5 10 21 44),
    (0x6294AD83, .fdiv 5 10 21 44),
    (0x6294AD84, .fmin 5 10 21 44),
    (0x6294AD85, .fmax 5 10 21 44),
    (0x6294A806, .fsqrt 5 10 21),
    (0x6294A807, .fabs 5 10 21),
    (0x6294A808, .fneg 5 10 21),
    (0x6294AD89, .fcpys 5 10 21 44),
    (0x6294A80A, .frcp 5 10 21),
    (0x6294A80B, .frsq 5 10 21),
    (0x6294A80C, .fexp2 5 10 21),
    (0x6294A80D, .flog2 5 10 21),
    (0x6294A80E, .fsin 5 10 21),
    (0x6294A80F, .fcos 5 10 21),
    (0x6294A810, .ftanh 5 10 21),
    (0x6694AD80, .ffma 5 10 21 44),
    (0x6694AD81, .ffnma 5 10 21 44),
    (0x6694AD82, .fdot2 5 10 21 44),
    (0x6694AD83, .fdot4 5 10 21 44),
    (0x6A8CAD81, .fcmp 5 6 21 44 1),
    (0x6E94A800, .fclass 5 10 21),
    (0x6E94A801, .frint 5 10 21),
    (0x6E940002, .fstat 5 10),
    (0x7294AD85, .cvt 5 10 21 44 5)] :
    List (Word × Instr)).all reads = true := by decide +kernel

theorem test_words_1D_to_28 : ([(0x7694AD92, .cvti 5 10 21 44 1 2),
    (0x7A94AD80, .pack 5 10 21 44),
    (0x7A94A801, .unpkLo 5 10 21),
    (0x7A94A802, .unpkHi 5 10 21),
    (0x7A94A8A3, .tagset 5 10 21 5),
    (0x7A8CA8A4, .tagchk 5 6 21 5),
    (0x7A94A805, .tagrd 5 10 21),
    (0x8294AE39, .ld 5 10 21 199 1),
    (0x8694AE39, .st 5 10 21 199 1),
    (0x8A94AE39, .lds 5 10 21 199 1),
    (0x8E94AE39, .sts 5 10 21 199 1),
    (0x9294AE39, .ldc 5 10 21 199 1),
    (0x9694AD95, .atom 5 10 21 44 1 5),
    (0x9A94AD95, .atoms 5 10 21 44 1 5),
    (0x9EAB64C0, .red 5 1 5 44 38),
    (0x9E805001, .pref 5 10),
    (0x9E800002, .fence 5),
    (0x9E800003, .ifence 5),
    (0x9E805004, .mona 5 10),
    (0x9E800005, .mwait 5),
    (0xA2800148, .bar 5 10 1),
    (0xA2800149, .bara 5 10 1),
    (0xA280014A, .barw 5 10 1),
    (0xA294AD8B, .barredOr 5 10 21 44 1),
    (0xA294AD8C, .barredAnd 5 10 21 44 1),
    (0xA294AD8D, .barredMax 5 10 21 44 1)] :
    List (Word × Instr)).all reads = true := by decide +kernel

theorem test_words_29_to_2E : ([(0xA68E05A3, .cvset 5 7 1443),
    (0xAA805000, .qput 5 10),
    (0xAA940001, .qget 5 10),
    (0xAA805002, .flagSet 5 10),
    (0xAA805003, .flagClr 5 10),
    (0xAA94A804, .fwaitAny 5 10 21),
    (0xAA94A805, .fwaitAll 5 10 21),
    (0xAA800006, .rgnc 5),
    (0xAA800007, .rgnx 5),
    (0xAE8055A3, .rgnb 5 10 1443),
    (0xAE8255A3, .rgnn 5 10 1443),
    (0xB294AD80, .cpb 5 10 21 44),
    (0xB694AD80, .cps 5 10 21 44),
    (0xB694AD81, .cpg 5 10 21 44),
    (0xB694AD82, .cpt 5 10 21 44),
    (0xBA940000, .cpseal 5 10),
    (0xBA805001, .cpwait 5 10),
    (0xBA94AD82, .cpctrG 5 10 21 44),
    (0xBA94AD83, .cpctrT 5 10 21 44),
    (0xBA94AD84, .cpctrC 5 10 21 44),
    (0xBA94AD85, .cpctrD 5 10 21 44),
    (0xBA94AD86, .cpctrV 5 10 21 44),
    (0xBA94AD87, .cpctrS 5 10 21 44)] :
    List (Word × Instr)).all reads = true := by decide +kernel

theorem test_words_2F_to_37 : ([(0xBE94A800, .slotx 5 10 21),
    (0xBE940801, .slotw 5 10 1),
    (0xBE940002, .slotr 5 10),
    (0xBE94A803, .slotq 5 10 21),
    (0xC294AD80, .msend 5 10 21 44),
    (0xC294AD81, .msendNb 5 10 21 44),
    (0xC68CA800, .mringSet 5 6 21),
    (0xC68C0001, .mringOff 5 6),
    (0xC68CA802, .mringPop 5 6 21),
    (0xC68C0003, .mringWatch 5 6),
    (0xC68CA804, .mringQ 5 6 21),
    (0xCA94AD8D, .mma 5 10 21 44 1 1 1),
    (0xCE94AD8D, .mmas 5 10 21 44 1 1 1),
    (0xD294AD86, .mmaq 5 10 21 44 1 2),
    (0xD6940000, .mzero 5 10),
    (0xD694A801, .mlda 5 10 21),
    (0xD694A8A2, .mdrnS 5 10 21 5),
    (0xD694A8A3, .mdrnSadd 5 10 21 5),
    (0xD694A8A4, .mdrnG 5 10 21 5),
    (0xD694A8A5, .mdrnGadd 5 10 21 5),
    (0xDA8052A2, .mmv 5 10 21 2),
    (0xDE94AD80, .oadam 5 10 21 44),
    (0xDE94AD81, .osgd 5 10 21 44),
    (0xDE94AD82, .vredAdd 5 10 21 44),
    (0xDE94AD83, .vredMax 5 10 21 44)] :
    List (Word × Instr)).all reads = true := by decide +kernel

theorem test_words_38_to_3F : ([(0xE28EA800, .splkg 5 7 21),
    (0xE28EA801, .splkq 5 7 21),
    (0xE694AD80, .splld 5 10 21 44),
    (0xE694AD81, .splst 5 10 21 44),
    (0xE68E0002, .splrf 5 7),
    (0xEA94AA60, .splev 5 10 21 19),
    (0xEA94AA61, .spldr 5 10 21 19),
    (0xEA94AA62, .splgr 5 10 21 19),
    (0xEE9402A0, .srd 5 10 21),
    (0xEE940001, .clkq 5 10),
    (0xEE8052A2, .clkreq 5 10 21),
    (0xEE800143, .trap 5 10),
    (0xEE800144, .brkpt 5 10),
    (0xEE940005, .probe 5 10),
    (0xF29405A3, .csrr 5 10 1443),
    (0xF28055A3, .csrw 5 10 1443),
    (0xF6800000, .eret 5),
    (0xF6800001, .halt 5),
    (0xF69364C2, .tlbinv 5 2 1 44 38),
    (0xF694A803, .accsave 5 10 21),
    (0xF694A804, .accrest 5 10 21),
    (0xF6805005, .accsaveV 5 10),
    (0xF6805006, .accrestV 5 10),
    (0xFCC5A37E, .hwide 12952446),
    (0xFDC5A37E, .hmod 12952446),
    (0xFEC5A37E, .hsched 12952446)] :
    List (Word × Instr)).all reads = true := by decide +kernel

/-! ## A small machine for one step -/

/-- A launch of one team of two lanes of a role, with a control thread where `ctl` holds. -/
def oneLaunch (role : BitVec 2) (ctl : Bool) : Launch :=
  { probeLaunch role with
    tvec := 0x40000, block := { probeBlock role with tsize := 2, ctlpc := if ctl then 0x20000 else 0 } }
/-- Its team, resident on core 0, with a register file that a function gives. -/
def oneTeam (role : BitVec 2) (ctl : Bool) (reg : Nat → Nat → Reg) : Team :=
  let t := probeTeamOf role 0
  { t with
    tvec := 0x40000
    threads := (startThreads (oneLaunch role ctl).block 0 fun _ => [0]).zipIdx.map fun p =>
      { p.1 with regs := Vector.ofFn fun k => reg p.2 k.val } }
/-- Each register holds its own number. -/
def numbered (_ n : Nat) : Reg := { val := BitVec.ofNat 64 n, tag := tagI32 }
/-- The machine after reset with that team, whose two lanes issue together. -/
def lab (role : BitVec 2 := 0) (ctl : Bool := false) (reg : Nat → Nat → Reg := numbered) : State :=
  { State.reset with
    launches := [oneLaunch role ctl], teams := [oneTeam role ctl reg]
    cores := State.reset.cores.modify 0 fun c => { c with partition := 0x53 }, cur := [⟨0, 0⟩, ⟨0, 1⟩] }
/-- The same with the control thread issuing. -/
def labCtl (reg : Nat → Nat → Reg := numbered) : State := { lab 0 true reg with cur := [⟨0, 2⟩] }

/-- The bundle names threads that exist, each once. -/
def bundledB (s : State) : Bool :=
  s.cur.Nodup && s.cur.all fun r => decide (r.team < s.teams.length) && decide (r.thr < (s.team r.team).threads.length)
/-- The word is accepted in every lane, and each whose guard is true meets a condition. -/
def issuesB (s : State) (i : Instr) (p : Thread → Bool) : Bool :=
  bundledB s && s.cur.all fun r => s.accepts i r && (!(s.thr r).active i || p (s.thr r))
/-- No register that the word reads is poisoned. -/
def cleanB (i : Instr) (t : Thread) : Bool := !t.poisoned (infoOf i).reads

theorem bundled_of {s : State} (h : bundledB s = true) : s.bundled := by
  simp only [bundledB, Bool.and_eq_true, List.all_eq_true, decide_eq_true_eq] at h
  exact ⟨h.1, fun r hr => h.2 r hr⟩

theorem issues_of {s : State} {i : Instr} {p : Thread → Bool} {q : Thread → Prop} (h : issuesB s i p = true)
    (hq : ∀ t, p t = true → q t) : s.issues i q := by
  simp only [issuesB, Bool.and_eq_true, List.all_eq_true, Bool.or_eq_true, Bool.not_eq_true'] at h
  refine ⟨bundled_of h.1, fun r hr => ⟨(h.2 r hr).1, fun ha => hq _ ?_⟩⟩
  rcases (h.2 r hr).2 with h2 | h2
  · simp [h2] at ha
  · exact h2

theorem clean_of {i : Instr} {t : Thread} (h : cleanB i t = true) : Clean i t := by
  simpa [cleanB, Clean] using h

theorem lab_bundled : lab.bundled := bundled_of (by decide +kernel)

/-- One fragment: the bundle is whole, in the lane stream, at one address. -/
def fragB (s : State) : Bool :=
  bundledB s && !s.cur.isEmpty && s.cur.all fun r => s.fragOf r == s.cur && !(s.thr r).ctl &&
    s.cur.all fun q => s.sameFrag q r && (s.thr q).pc == (s.thr r).pc
theorem frag_of {s : State} (h : fragB s = true) : s.oneFragment := by
  simp only [fragB, Bool.and_eq_true, List.all_eq_true, Bool.not_eq_true', beq_iff_eq, List.isEmpty_eq_false_iff] at h
  exact ⟨bundled_of h.1.1, h.1.2, fun r hr => ⟨(h.2 r hr).1.1, (h.2 r hr).1.2, fun q hq => (h.2 r hr).2 q hq⟩⟩
theorem lab_frag : lab.oneFragment := frag_of (by decide +kernel)

/-! ## Witnesses: states and operands that meet the hypotheses of the statements -/

/-- Every one of some words is accepted, with clean sources. -/
theorem clean_words {s : State} {l : List Instr} (h : l.all (fun i => issuesB s i (cleanB i)) = true) :
    ∀ i ∈ l, s.issues i (Clean i) :=
  fun i hi => issues_of (p := cleanB i) (List.all_eq_true.mp h i hi) fun _ => clean_of
theorem any_words {s : State} {l : List Instr} (h : l.all (fun i => issuesB s i fun _ => true) = true) :
    ∀ i ∈ l, s.issues i fun _ => True :=
  fun i hi => issues_of (List.all_eq_true.mp h i hi) fun _ _ => trivial
/-- So, with a condition on each lane that a check decides. -/
theorem some_words {s : State} {l : List Instr} {p : Instr → Thread → Bool} {q : Instr → Thread → Prop}
    (h : l.all (fun i => issuesB s i (p i)) = true) (hq : ∀ i t, p i t = true → q i t) : ∀ i ∈ l, s.issues i (q i) :=
  fun i hi => issues_of (List.all_eq_true.mp h i hi) (hq i)

theorem wit_IntegerResults : ∀ i ∈ ([.iadd 0 5 6 7, .isub 0 63 63 63, .imul 0 0 1 2, .imulh 0 5 6 7, .imulhu 0 5 6 7,
    .idiv 0 5 6 0, .idivu 0 5 6 7, .irem 0 5 6 0, .iremu 0 5 6 7, .imin 0 5 6 7, .imax 0 5 6 7, .iminu 0 5 6 7, .imaxu 0 5 6 7,
    .iadds 0 5 6 7, .isubs 0 5 6 7, .iabs 0 5 6] : List Instr), lab.issues i (Clean i) := clean_words (by decide +kernel)
theorem wit_IntegerResults_control : ∀ i ∈ ([.iadd 0 5 6 7, .idiv 0 31 31 0, .iabs 0 5 6] : List Instr),
    labCtl.issues i (Clean i) := clean_words (by decide +kernel)
theorem wit_LogicShiftAndFieldResults : ∀ i ∈ ([.and 0 5 6 7, .or 0 5 6 7, .xor 0 5 6 7, .andn 0 5 6 7, .orn 0 5 6 7,
    .xnor 0 5 6 7, .shl 0 5 6 63, .shr 0 5 6 7, .sar 0 5 6 7, .rol 0 5 6 7, .rot 0 5 6 7, .bfe 0 5 6 7, .popc 0 5 6, .clz 0 5 0,
    .ctz 0 5 6, .brev 0 5 6, .bfi 0 5 6 7, .mov 0 5 6] : List Instr), lab.issues i (Clean i) := clean_words (by decide +kernel)
/-- Words that take a wide hint, before which one stands. -/
def widened : State := { lab with teams := lab.teams.map fun t =>
  { t with threads := t.threads.map fun u => { u with hint := some (.wide 0x1FFFFF) } } }
theorem wit_ImmediateResults : ∀ i ∈ ([.iaddi 0 5 6 0x7FF, .imuli 0 5 6 3, .andi 0 5 6 3, .ori 0 5 6 3, .xori 0 5 6 3,
    .movi 0 5 0x400, .shli 0 5 6 31, .shri 0 5 6 0, .sari 0 5 6 31] : List Instr), lab.issues i (Clean i) :=
  clean_words (by decide +kernel)
theorem wit_ImmediateResults_wide : ∀ i ∈ ([.iaddi 0 5 6 0x7FF, .movi 0 5 0x400] : List Instr), widened.issues i (Clean i) :=
  clean_words (by decide +kernel)
theorem wit_AddressPairResults : ∀ i ∈ ([.aadd 0 10 12 62, .asub 0 10 12 14, .aadds 0 10 12 15, .aaddu 0 10 10 61,
    .amuls 0 10 5 7, .amulu 0 10 5 7, .aaddi 0 10 10 0x7F0, .amov 0 10 12] : List Instr), lab.issues i (Clean i) :=
  clean_words (by decide +kernel)
theorem wit_CompareAndPredicateResults : ∀ i ∈ ([.icmp 0 1 6 7 0 9, .icmp 0 1 6 8 1 0, .pand 0 1 2 3, .por 0 1 2 3,
    .pxor 0 1 2 3, .pandn 0 1 2 3, .pnot 0 0 2, .pmov 0 1 2, .pget 0 5, .pput 0 5, .sel 0 5 6 7 1] : List Instr),
    lab.issues i (Clean i) := clean_words (by decide +kernel)
theorem wit_VotesAndShuffles : (∀ i ∈ ([.voteAny 0 1 2, .voteAll 0 1 2, .voteBal 0 10 2, .shflIdx 0 5 6 7, .shflUp 0 5 6 7,
    .shflDown 0 5 6 7, .shflXor 0 5 6 7] : List Instr), lab.issues i fun _ => True) ∧
    ∀ r n, ((lab.thr r).reg n).tag ≠ tagPOISON ∨ 64 ≤ n ∨ r ∉ lab.cur := by
  refine ⟨any_words (by decide +kernel), fun r n => ?_⟩
  by_cases h : n < 64
  · by_cases hr : r ∈ lab.cur
    · exact Or.inl (by
        have : lab.cur.all (fun r => (List.range 64).all fun n => decide (((lab.thr r).reg n).tag ≠ tagPOISON)) = true := by
          decide +kernel
        have := List.all_eq_true.mp (List.all_eq_true.mp this r hr) n (List.mem_range.mpr h)
        simpa using this)
    · exact Or.inr (Or.inr hr)
  · exact Or.inr (Or.inl (by omega))
theorem wit_ControlTransfers : (∀ i ∈ ([.bra 0 4, .call 0 0x7FFFFF] : List Instr), lab.issues i fun u =>
      Clean i u ∧ goodTarget (u.wordPc + 4 * (4 : BitVec 23).signExtend 64)) ∧
    (∀ i ∈ ([.ret 0 12, .jmpr 0 12, .callr 0 12] : List Instr), lab.issues i fun u => Clean i u ∧ goodTarget (u.pairVal 12)) ∧
    lab.issues (.brx 0 12 5) fun u => Clean (.brx 0 12 5) u ∧ goodTarget (u.pairVal 12 + 4 * (bitsN u 32 5).setWidth 64) :=
  ⟨some_words (p := fun i u => cleanB i u && decide ((u.wordPc + 4 * (4 : BitVec 23).signExtend 64).toNat % 4 = 0) &&
      canonical (u.wordPc + 4 * (4 : BitVec 23).signExtend 64)) (by decide +kernel) fun i t h => by
        simp only [Bool.and_eq_true, decide_eq_true_eq] at h
        exact ⟨clean_of h.1.1, h.1.2, h.2⟩,
    some_words (p := fun i u => cleanB i u && decide ((u.pairVal 12).toNat % 4 = 0) && canonical (u.pairVal 12))
      (by decide +kernel) fun i t h => by
        simp only [Bool.and_eq_true, decide_eq_true_eq] at h
        exact ⟨clean_of h.1.1, h.1.2, h.2⟩,
    issues_of (p := fun u => cleanB (.brx 0 12 5) u && decide ((u.pairVal 12 + 4 * (bitsN u 32 5).setWidth 64).toNat % 4 = 0) &&
      canonical (u.pairVal 12 + 4 * (bitsN u 32 5).setWidth 64)) (by decide +kernel) fun t h => by
        simp only [Bool.and_eq_true, decide_eq_true_eq] at h
        exact ⟨clean_of h.1.1, h.1.2, h.2⟩⟩
theorem wit_ExitNopYieldAndHints : (∀ i ∈ ([.nop 0, .yield 0, .exit 0] : List Instr), lab.issues i fun _ => True) ∧
    lab.bundled ∧ ∀ r ∈ lab.cur, (lab.thr r).hint = none := ⟨any_words (by decide +kernel), lab_bundled, by decide +kernel⟩
theorem wit_FalseGuardHasNoEffect : ∀ i ∈ ([.iadd 1 5 6 7, .st 1 5 6 0 2, .trap 7 3, .csrw 2 10 0x20] : List Instr),
    lab.issues i (fun _ => True) ∧ ∀ r ∈ lab.cur, (lab.thr r).active i = false := by
  intro i hi
  exact ⟨any_words (by decide +kernel) i hi, by revert i; decide +kernel⟩
/-- Registers of one tag. -/
def tagged (g : Tag) (_ n : Nat) : Reg := { val := if n = 0 then 0 else 0x3F803F80, tag := if n = 0 then tagRAW else g }
theorem tagged_words {s : State} {l : List Instr} {ok : Thread → Bool}
    (h : l.all (fun i => issuesB s i fun t => cleanB i t && ok t) = true) : ∀ i ∈ l, s.issues i (Tagged i ok) :=
  some_words (p := fun i t => cleanB i t && ok t) h fun i t h => by
    simp only [Bool.and_eq_true] at h
    exact ⟨clean_of h.1, h.2⟩
theorem wit_FloatArithmeticResults : ∀ g ∈ [tagF32, tagBF16, tagF16], ∀ i ∈ ([.fadd 0 5 6 7, .fsub 0 5 6 7, .fmul 0 5 6 7,
    .fdiv 0 5 6 7, 
    .fsqrt 0 5 6, .ffma 0 5 6 7, .ffnma 0 5 6 7] : List Instr),
    (lab 0 false (tagged g)).issues i (Tagged i fun u => u.oneTag [tagF32, tagBF16, tagF16] [6, 7]) := by
  intro g hg
  exact tagged_words (by revert g; decide +kernel)
theorem wit_FloatMovesTestsAndStatus : (∀ i ∈ ([.fmin 0 5 6 7, .fmax 0 5 6 7, .fcpys 0 5 6 7, .fcmp 0 1 6 7 2, .frint 0 5 6] :
      List Instr), (lab 0 false (tagged tagF32)).issues i (Tagged i fun u => u.oneTag [tagF32] [6, 7])) ∧
    (∀ i ∈ ([.fabs 0 5 6, .fneg 0 5 6] : List Instr), (lab 0 false (tagged tagE5M2)).issues i (Tagged i fun u =>
      u.oneTag [tagF32, tagBF16, tagF16, tagE4M3, tagE5M2] [6])) ∧
    (lab 0 false (tagged tagF32)).issues (.fclass 0 5 6) (Tagged (.fclass 0 5 6) fun u => u.oneTag [tagF32] [6]) ∧
    lab.issues (.fstat 0 5) fun _ => True :=
  ⟨tagged_words (by decide +kernel), tagged_words (by decide +kernel), tagged_words (l := [.fclass 0 5 6])
    (by decide +kernel) _ (by simp), any_words (l := [.fstat 0 5]) (by decide +kernel) _ (by simp)⟩
/-- A in a format, D in F32. -/
def dotRegs (g : Tag) (_ n : Nat) : Reg := { val := if n = 0 then 0 else 0x38383838, tag := if n = 5 then tagF32 else g }
theorem wit_DotProductsAndFunctions : (∀ g ∈ [tagBF16, tagF16], (lab 0 false (dotRegs g)).issues (.fdot2 0 5 6 7)
      (Tagged (.fdot2 0 5 6 7) fun u => u.tagAt 6 == g && u.tagAt 7 == g && u.tagAt 5 == tagF32 && !u.ctl)) ∧
    (∀ g ∈ [tagE4M3, tagE5M2], (lab 0 false (dotRegs g)).issues (.fdot4 0 5 6 7)
      (Tagged (.fdot4 0 5 6 7) fun u => u.tagAt 6 == g && u.tagAt 7 == g && u.tagAt 5 == tagF32 && !u.ctl)) ∧
    ∀ i ∈ ([.frcp 0 5 6, .frsq 0 5 6, .fexp2 0 5 6, .flog2 0 5 6, .fsin 0 5 6, .fcos 0 5 6, .ftanh 0 5 6] : List Instr),
      (lab 0 false (tagged tagF32)).issues i (Tagged i fun u => u.oneTag [tagF32] [6]) := by
  refine ⟨fun g hg => ?_, fun g hg => ?_, tagged_words (by decide +kernel)⟩
  · exact tagged_words (l := [.fdot2 0 5 6 7]) (by revert g; decide +kernel) _ (by simp)
  · exact tagged_words (l := [.fdot4 0 5 6 7]) (by revert g; decide +kernel) _ (by simp)
theorem wit_ConversionsAndTags : (lab 0 false (tagged tagF32)).issues (.cvt 0 5 6 7 3) (fun u => Clean (.cvt 0 5 6 7 3) u ∧
      u.cvtSrc 6 7 3 = some ((u.cvtSrc 6 7 3).getD [])) ∧
    (lab 0 false (tagged tagF32)).issues (.cvti 0 5 6 0 0 1) (Tagged (.cvti 0 5 6 0 0 1) fun u => u.cvtiOk 6 0 1 && !u.ctl) ∧
    (lab 0 false (tagged tagBF16)).issues (.pack 0 5 6 7) (Tagged (.pack 0 5 6 7) fun u =>
      u.tagAt 6 == u.tagAt 7 && decide (3 ≤ (u.tagAt 6).toNat) && decide ((u.tagAt 6).toNat ≤ 9)) ∧
    (∀ i ∈ ([.unpkLo 0 5 6, .unpkHi 0 5 6] : List Instr),
      (lab 0 false (tagged tagF16)).issues i (Tagged i fun u => u.tagAt 6 == tagF16 && !u.ctl)) ∧
    tagsetOk false tagPOISON = true ∧ lab.issues (.tagset 0 5 6 tagPOISON) (fun u =>
      Clean (.tagset 0 5 6 tagPOISON) u ∧ u.ctl = false) ∧
    lab.issues (.tagchk 0 1 6 13) (fun _ => True) ∧ lab.issues (.tagrd 0 5 6) (Clean (.tagrd 0 5 6)) := by
  refine ⟨?_, tagged_words (l := [.cvti 0 5 6 0 0 1]) (by decide +kernel) _ (by simp),
    tagged_words (l := [.pack 0 5 6 7]) (by decide +kernel) _ (by simp), tagged_words (by decide +kernel), by decide, ?_,
    any_words (l := [.tagchk 0 1 6 13]) (by decide +kernel) _ (by simp),
    clean_words (l := [.tagrd 0 5 6]) (by decide +kernel) _ (by simp)⟩
  · refine issues_of (p := fun u => cleanB (.cvt 0 5 6 7 3) u && (u.cvtSrc 6 7 3).isSome) (by decide +kernel) fun u h => ?_
    simp only [Bool.and_eq_true] at h
    refine ⟨clean_of h.1, ?_⟩
    cases hc : u.cvtSrc 6 7 3 <;> simp_all
  · refine issues_of (p := fun u => cleanB (.tagset 0 5 6 tagPOISON) u && !u.ctl) (by decide +kernel) fun u h => ?_
    simp only [Bool.and_eq_true, Bool.not_eq_true'] at h
    exact ⟨clean_of h.1, h.2⟩
theorem wit_SpecialRegisterReads : (∀ i ∈ ([.srd 0 10 0x05, .srd 0 10 0x17, .srd 0 10 0x13] : List Instr),
      lab.issues i fun _ => True) ∧ (∀ n ∈ [0x05#6, 0x17#6], srdExists n = true) ∧
    lab.active (.srd 0 10 0x13) = [⟨0, 0⟩, ⟨0, 1⟩] := ⟨any_words (by decide +kernel), by decide, by decide +kernel⟩
/-- The machine with its lanes in custodian mode. -/
def custodian : State := { lab with teams := lab.teams.map fun t =>
  { t with threads := t.threads.map fun u => { u with cm := true, tr := { u.tr with epc := 0x10040 } } } }
theorem wit_SpecialRegisterReads_custodian : (∀ i ∈ ([.csrr 0 10 0x010, .csrr 0 10 0x041, .csrr 0 10 0x020] : List Instr),
      custodian.issues i fun _ => True) ∧ custodian.active (.csrr 0 10 0x010) = [⟨0, 0⟩, ⟨0, 1⟩] :=
  ⟨any_words (by decide +kernel), by decide +kernel⟩
/-- A handler's address, aligned to 128 bytes, in a pair. -/
def handlerRegs (_ n : Nat) : Reg := { val := if n = 10 then 0x10080 else 0, tag := tagI32 }
/-- One lane in custodian mode. -/
def oneCustodian : State := { custodian with
  teams := custodian.teams.map fun t => { t with threads := t.threads.map fun u => { u with regs := Vector.ofFn fun k => handlerRegs 0 k.val } }
  cur := [⟨0, 0⟩] }
theorem wit_ControlRegisterWrites : (∀ n ∈ [0x020#11, 0x021, 0x02A, 0x030, 0x038, 0x040, 0x041, 0x031],
      oneCustodian.issues (.csrw 0 10 n) fun u => Clean (.csrw 0 10 n) u ∧ u.active (.csrw 0 10 n) = true) ∧
    ((oneCustodian.thr ⟨0, 0⟩).pairVal 10).toNat % 128 = 0 ∧ canonical ((oneCustodian.thr ⟨0, 0⟩).pairVal 10) = true ∧
    ((oneCustodian.thr ⟨0, 0⟩).val32 10).getLsbD 17 = false := by
  refine ⟨fun n hn => ?_, by decide +kernel⟩
  refine issues_of (p := fun u => cleanB (.csrw 0 10 n) u && u.active (.csrw 0 10 n)) (by revert n; decide +kernel) fun u h => ?_
  simp only [Bool.and_eq_true] at h
  exact ⟨clean_of h.1, h.2⟩
/-- A request of 16 and of no preference, and a CRIT. -/
def clockRegs (_ n : Nat) : Reg := { val := if n = 6 then 0x00100004 else if n = 7 then 15 else 0, tag := tagI32 }
theorem wit_ClockWordsAndSelection : lab.issues (.clkq 0 5) (fun _ => True) ∧
    (lab 0 false clockRegs).issues (.clkreq 0 6 7) (fun u => Clean (.clkreq 0 6 7) u ∧ (u.val32 7).toNat < 16 ∧
      u.val32 6 &&& 0xE0E0E0E0 = 0 ∧ ∀ k, k < 4 → let x := (u.val32 6).toNat / 2 ^ (8 * k) % 32; x = 0 ∨ (4 ≤ x ∧ x ≤ 16)) ∧
    lab.issues (.schsel 0 12 8 9) (Clean (.schsel 0 12 8 9)) ∧
    (∀ r ∈ lab.active (.schsel 0 12 8 9), lab.schSelect r ((lab.thr r).val32 8) ((lab.thr r).val32 9) = .found .nothing) := by
  refine ⟨any_words (l := [.clkq 0 5]) (by decide +kernel) _ (by simp), ?_,
    clean_words (l := [.schsel 0 12 8 9]) (by decide +kernel) _ (by simp), fun r hr => ?_⟩
  · refine issues_of (p := fun u => cleanB (.clkreq 0 6 7) u && u.val32 6 == 0x00100004 && u.val32 7 == 15)
      (by decide +kernel) fun u h => ?_
    simp only [Bool.and_eq_true, beq_iff_eq] at h
    rw [h.1.2, h.2]
    exact ⟨clean_of h.1.1, by decide⟩
  · have : (lab.launchOf r.team).nclass ≤ ((lab.thr r).val32 8).toNat := by
      have : lab.active (.schsel 0 12 8 9) = [⟨0, 0⟩, ⟨0, 1⟩] := by decide +kernel
      rw [this] at hr
      revert r; decide +kernel
    simp only [State.schSelect]
    rw [if_pos this]
/-- A decided condition on every lane of the bundle. -/
theorem all_lanes {l : List Ref} {p : Ref → Bool} {q : Ref → Prop} (h : l.all p = true)
    (hq : ∀ r, p r = true → q r) : ∀ r ∈ l, q r := fun r hr => hq r (List.all_eq_true.mp h r hr)

theorem any_some {α : Type} {o : Option α} {p : α → Bool} (h : o.any p = true) : ∃ b, o = some b ∧ p b = true := by
  cases o <;> simp_all

/-- A thread has begun nothing that its messages or arrivals would show. -/
theorem fresh_of {s : State} {r : Ref} (h : (s.thr r).wait = none ∧ s.messages = []) : s.fresh r := by
  refine ⟨fun lv n ph d o => by simp [h.1], fun m hm => ?_⟩
  rw [h.2] at hm
  cases hm
theorem wit_TrapEntry : lab.oneFragment ∧ (∀ r ∈ lab.cur, (lab.thr r).hint = none ∧
      ((lab.group r.team (lab.thr r).group).open_ = false ∧ lab.harvest r.team = false) ∧
      (lab.team r.team).dbgctl.getLsbD 0 = false ∧ (lab.thr r).cm = false ∧ (lab.team r.team).tvec ≠ 0 ∧
      (lab.launchOf r.team).status = .running) ∧ (∀ r ∈ lab.cur, lab.fresh r) ∧ ∃ r ∈ lab.cur, (lab.thr r).pred 0 = true :=
  ⟨lab_frag, by decide +kernel, fun r hr => fresh_of (by revert r; decide +kernel), ⟨0, 0⟩, by decide +kernel, by decide +kernel⟩
theorem wit_TrapEntry_words : (Instr.trap 0 5, ({ cause := .software, info := 5 } : LaneFault)) ∈ trapping 0 5 ∧
    (Instr.unassignedEncoding 0xF8000000, ({ cause := .illegal, reason := 0x20 } : LaneFault)) ∈ trapping 0 5 := by
  simp [trapping]
/-- The machine without a handler, and with one whose lanes are in custodian mode. -/
def noHandler : State := { lab with teams := lab.teams.map fun t => { t with tvec := 0 } }
theorem wit_TrapEntry_ends : noHandler.oneFragment ∧ custodian.oneFragment ∧
    (∀ q ∈ noHandler.cur, (noHandler.thr q).cm = false ∧ (noHandler.team q.team).tvec = 0) ∧
    (∀ q ∈ custodian.cur, (custodian.thr q).cm = true ∧ custodian.fresh q) ∧ ∀ q ∈ noHandler.cur, noHandler.fresh q :=
  ⟨frag_of (by decide +kernel), frag_of (by decide +kernel), by decide +kernel,
    fun q hq => ⟨by revert q; decide +kernel, fresh_of (by revert q; decide +kernel)⟩,
    fun q hq => fresh_of (by revert q; decide +kernel)⟩
/-- Lane registers for the failing words: an odd address, an address outside the window, a poisoned register. -/
def badRegs (_ n : Nat) : Reg :=
  { val := if n = 6 then 0x401 else if n = 7 then 0x1000000 else 0, tag := if n = 9 then tagPOISON else tagI32 }
theorem wit_FailingWordsTrap : (lab 0 false badRegs).oneFragment ∧
    (∀ i ∈ ([.lds 0 5 6 0 2, .sts 0 5 6 0 2, .lds 0 5 7 0 2, .atom 0 5 6 12 0 0, .fadd 0 5 6 7, .qput 0 12, .qget 0 12, .iadd 0 5 6 9] :
      List Instr), ∀ r ∈ (lab 0 false badRegs).cur, (lab 0 false badRegs).accepts i r = true ∧
        ((lab 0 false badRegs).thr r).active i = true) ∧
    ∀ r ∈ (lab 0 false badRegs).cur, let s := lab 0 false badRegs
      (s.thr r).cm = false ∧ (s.team r.team).tvec ≠ 0 ∧ (s.group r.team (s.thr r).group).open_ = false ∧
      ((s.thr r).scratchSa 6 0 2).toNat % sizeW 2 ≠ 0 ∧ ((s.thr r).scratchSa 7 0 2).toNat % sizeW 2 = 0 ∧
      (s.scratchAt r ((s.thr r).scratchSa 7 0 2) (sizeW 2)).isNone = true ∧ ((s.thr r).pairVal 6).toNat % 4 ≠ 0 ∧
      (s.thr r).oneTag [tagF32, tagBF16, tagF16] [6, 7] = false ∧ s.hasCtl r.team = false ∧
      (s.thr r).poisoned (infoOf (.iadd 0 5 6 9)).reads = true ∧ (s.thr r).wait = none ∧ s.messages = [] :=
  ⟨frag_of (by decide +kernel), by decide +kernel, by decide +kernel⟩
theorem wit_ReturnAndHalt : (∀ i ∈ ([.eret 0, .halt 0] : List Instr), custodian.issues i fun _ => True) ∧
    ({ lab with teams := lab.teams.map fun t => { t with dbgctl := 1 } } : State).issues (.brkpt 0 3) (fun _ => True) ∧
    labCtl.cur = [⟨0, 2⟩] ∧ labCtl.bundled ∧ (labCtl.thr ⟨0, 2⟩).ctl = true ∧ (labCtl.thr ⟨0, 2⟩).hint = none ∧
    (labCtl.thr ⟨0, 2⟩).pred 0 = true ∧ (labCtl.thr ⟨0, 2⟩).exited = false ∧ (labCtl.team 0).dbgctl.getLsbD 0 = false ∧
    (labCtl.thr ⟨0, 2⟩).wait = none ∧ labCtl.messages = [] :=
  ⟨any_words (by decide +kernel), any_words (l := [.brkpt 0 3]) (by decide +kernel) _ (by simp), rfl,
    bundled_of (by decide +kernel), by decide +kernel⟩

/-! ### Accesses -/

/-- Pairs 10 and 12 address a page that the core's TLB maps, and register 14 a scratch word. -/
def addrRegs (r n : Nat) : Reg :=
  { val := if n = 10 ∨ n = 12 then BitVec.ofNat 64 (0x10100 + 8 * r) else if n = 14 then BitVec.ofNat 64 (0x40 + 8 * r) else 0,
    tag := tagI32 }
/-- The machine with that page mapped to itself. -/
def mapped (role : BitVec 2 := 0) : State :=
  { lab role false addrRegs with tlb := [{ loc := 0, asid := 0, vpage := 0x10000, leaf := probeLeaf }] }
/-- The same with every die of the machine reached. -/
def linked (role : BitVec 2 := 0) : State := { mapped role with ready := BitVec.allOnes 64 }
/-- A translated access is a success. -/
def isOk {α β : Type} : Except α β → Bool
  | .ok _ => true
  | .error _ => false
/-- What a success holds. -/
def okOr {α β : Type} (d : β) : Except α β → β
  | .ok x => x
  | .error _ => d
theorem okOr_eq {α β : Type} {x : Except α β} (d : β) (h : isOk x = true) : x = .ok (okOr d x) := by
  cases x <;> simp_all [isOk, okOr]
/-- Where the words of the test go: pair 10 at an offset of 0. -/
def loadAt (r : Ref) (n : Nat) : Parts := okOr [] (mapped.loadParts r ((mapped.thr r).pairVal 10) n)
theorem wit_GlobalAccessesIssue_load : mapped.issues (.ld 0 5 10 0 2) (Clean (.ld 0 5 10 0 2)) ∧
    ∀ r ∈ mapped.active (.ld 0 5 10 0 2), mapped.loadParts r ((mapped.thr r).globalVa 10 0 2) (sizeW 2) = .ok (loadAt r 4) ∧
      ∀ q ∈ piecesOf (loadAt r 4), mapped.loadHeld r none q.addr q.len = false ∧ mapped.drainsSo r = false := by
  refine ⟨clean_words (l := [.ld 0 5 10 0 2]) (by decide +kernel) _ (by simp), ?_⟩
  refine all_lanes (p := fun r => isOk (mapped.loadParts r ((mapped.thr r).pairVal 10) 4) &&
    decide ((mapped.thr r).globalVa 10 0 2 = (mapped.thr r).pairVal 10) &&
    (piecesOf (loadAt r 4)).all fun q => !mapped.loadHeld r none q.addr q.len && !mapped.drainsSo r) (by decide +kernel) fun r h => ?_
  simp only [Bool.and_eq_true, decide_eq_true_eq, List.all_eq_true, Bool.not_eq_true'] at h
  refine ⟨?_, h.2⟩
  rw [h.1.2]
  exact okOr_eq [] h.1.1
theorem wit_GlobalAccessesIssue : (∀ i ∈ ([.st 0 5 10 0 2, .atom 0 5 10 6 0 0, .red 0 0 0 10 6, .ldc 0 5 6 0 2] : List Instr),
      mapped.issues i (Clean i)) ∧
    (∀ r ∈ mapped.cur, isOk (mapped.storeParts r ((mapped.thr r).globalVa 10 0 2) 4) = true ∧ mapped.buffers r = false ∧
      mapped.drainsOwn r = false ∧ isOk (mapped.atomParts r ((mapped.thr r).pairVal 10) 4 false) = true ∧
      isOk (mapped.atomParts r ((mapped.thr r).pairVal 10) 4 true) = true ∧ (mapped.thr r).ctl = false ∧
      ((mapped.thr r).pairVal 10).toNat % 4 = 0 ∧ (mapped.thr r).constOff 6 0 2 = 0) :=
  ⟨clean_words (by decide +kernel), by decide +kernel⟩
theorem wit_ScratchAccesses : (∀ i ∈ ([.lds 0 5 14 0 2, .sts 0 5 14 0 2, .atoms 0 5 14 6 0 0] : List Instr),
      mapped.issues i (Clean i)) ∧
    ∀ r ∈ mapped.cur, (mapped.thr r).scratchSa 14 0 2 = (mapped.thr r).val32 14 ∧ ((mapped.thr r).val32 14).toNat % 4 = 0 ∧
      (mapped.scratchAt r ((mapped.thr r).val32 14) 4).isSome = true ∧ mapped.scratchMay r (mapped.thr r).ord true = true ∧
      mapped.scratchMay r (mapped.thr r).ord false = true ∧ mapped.buffers r = false ∧ mapped.drainsOwn r = false ∧
      mapped.drainsScratch r = false :=
  ⟨clean_words (by decide +kernel), by decide +kernel⟩
/-- A fence of acquire and release order at die scope is asked for by a modifier hint. -/
def fencing (ord scope : BitVec 24) : State := { lab with teams := lab.teams.map fun t =>
  { t with threads := t.threads.map fun u => { u with hint := some (.mods (ord <<< 4 ||| scope <<< 7)) } } }
theorem wit_FencesAndMonitors : (∀ i ∈ ([.pref 0 10, .mona 0 10] : List Instr), linked.issues i (Clean i)) ∧
    (fencing 3 3).issues (.fence 0) (fun _ => True) ∧
    (∀ r ∈ (fencing 3 3).cur, ((fencing 3 3).thr r).ord = 3 ∧ (fencing 3 3).readsPerformed r true = true) ∧
    (∀ i ∈ ([.ifence 0, .mwait 0] : List Instr), lab.issues i fun _ => True) ∧
    (∀ r ∈ lab.cur, lab.allPerformed r true = true ∧ (lab.thr r).watch = none) ∧
    ∀ r ∈ linked.cur, (okOr [] (linked.loadParts r ((linked.thr r).pairVal 10) 1)).length = 1 ∧
      ∀ l ∈ okOr [] (linked.loadParts r ((linked.thr r).pairVal 10) 1),
        linked.lineOpen l.2.2.2 (imageAddr l.2.2.1.plinth l.2.2.2) = true :=
  ⟨clean_words (by decide +kernel), any_words (l := [.fence 0]) (by decide +kernel) _ (by simp), by decide +kernel,
    any_words (by decide +kernel), by decide +kernel, by decide +kernel⟩
theorem wit_BarrierPhases : (∀ i ∈ ([.bar 0 0 0, .bara 0 0 0, .barredOr 0 5 6 0 0, .barredAnd 0 5 6 0 0, .barredMax 0 5 6 7 0] :
      List Instr), lab.issues i (Clean i)) ∧ lab.oneFragment ∧
    (∀ n ∈ [0, 7], ∃ b, lab.barrierAt ⟨0, 0⟩ 0 n = some b ∧ b.op = none ∧ b.arr = []) ∧
    (∀ q ∈ lab.cur, (lab.thr q).wait = none ∧ lab.allPerformed q false = true) ∧ lab.participants 0 0 = lab.cur ∧
    labCtl.issues (.bara 0 0 0) (fun u => u.ctl = true) ∧ (labCtl.barrierAt ⟨0, 2⟩ 0 0).isSome = true := by
  refine ⟨clean_words (by decide +kernel), lab_frag, fun n hn => ?_, by decide +kernel, by decide +kernel,
    issues_of (p := fun u => u.ctl) (by decide +kernel) fun _ h => h, by decide +kernel⟩
  have h : (lab.barrierAt ⟨0, 0⟩ 0 n).any (fun b => b.op.isNone && b.arr.isEmpty) = true := by revert n; decide +kernel
  obtain ⟨b, hb, h⟩ := any_some h
  simp only [Bool.and_eq_true, Option.isNone_iff_eq_none, List.isEmpty_iff] at h
  exact ⟨b, hb, h⟩

/-! ### Queues, flags, regions, slots, copies, rings -/

/-- A state whose teams are changed. -/
def withTeams (s : State) (f : Team → Team) : State := { s with teams := s.teams.map f }
/-- Pair 10 holds a value. -/
def pairRegs (v : BitVec 64) (_ n : Nat) : Reg :=
  { val := if n = 10 then v &&& 0xFFFFFFFF else if n = 11 then v >>> 32 else if n = 4 then 1 else 0, tag := tagI32 }
theorem wit_QueuesFlagsAndConvergence : lab.issues (.cvset 0 7 3) (fun _ => True) ∧
    lab.active (.cvset 0 7 3) = [⟨0, 0⟩, ⟨0, 1⟩] ∧ ((lab.halfOf ⟨0, 0⟩).cvs[7]?).any (fun x => !x.valid) = true ∧
    canonical ((lab.thr ⟨0, 0⟩).label 3) = true ∧
    (∀ i ∈ ([.qput 0 10, .flagSet 0 5, .flagClr 0 5] : List Instr), (lab 0 true).issues i (Clean i)) ∧
    (lab 0 true).noPartner ⟨0, 0⟩ = false ∧ ((lab 0 true).team 0).up.length < 16 ∧
    labCtl.issues (.qput 0 10) (Clean (.qput 0 10)) ∧ labCtl.noPartner ⟨0, 2⟩ = false ∧
    (withTeams (lab 0 true) fun t => { t with down := [zeroReg] }).issues (.qget 0 10) (fun _ => True) ∧
    (withTeams labCtl fun t => { t with up := [zeroReg] }).issues (.qget 0 10) (fun _ => True) ∧
    (∀ i ∈ ([.fwaitAny 0 5 4, .fwaitAll 0 5 4] : List Instr),
      (withTeams (lab 0 false (pairRegs 0)) fun t => { t with tflags := 3 }).issues i (Clean i)) :=
  ⟨any_words (l := [.cvset 0 7 3]) (by decide +kernel) _ (by simp), by decide +kernel, by decide +kernel, by decide +kernel,
    clean_words (by decide +kernel), by decide +kernel, by decide +kernel,
    clean_words (l := [.qput 0 10]) (by decide +kernel) _ (by simp), by decide +kernel,
    any_words (l := [.qget 0 10]) (by decide +kernel) _ (by simp), any_words (l := [.qget 0 10]) (by decide +kernel) _ (by simp),
    clean_words (by decide +kernel)⟩
/-- The machine with a control thread whose lanes watch something that has not come. -/
def watching : State := withTeams (lab 0 true (pairRegs 0)) fun t => { t with threads := t.threads.map fun u =>
  { u with watch := some { (default : Watch) with ring := none, line := some 0x10100, triggered := false, entry := true } } }
theorem wit_BlockingPointsWait : (lab 0 true (pairRegs 0)).oneFragment ∧ watching.oneFragment ∧
    (∀ i ∈ ([.qget 0 10, .qput 0 10, .fwaitAny 0 5 4, .fwaitAll 0 5 4] : List Instr),
      (lab 0 true (pairRegs 0)).issues i (Clean i)) ∧ watching.issues (.mwait 0) (Clean (.mwait 0)) ∧
    ((lab 0 true (pairRegs 0)).team 0).down = [] ∧ (lab 0 true (pairRegs 0)).noPartner ⟨0, 0⟩ = false ∧
    ((lab 0 true (pairRegs 0)).team 0).tflags &&& ((lab 0 true (pairRegs 0)).thr ⟨0, 0⟩).val32 4 = 0 ∧
    ((lab 0 true (pairRegs 0)).thr ⟨0, 0⟩).val32 4 ≠ 0 ∧
    ((watching.thr ⟨0, 0⟩).watch.any fun x => !watching.watchOver x) = true ∧
    ∀ q ∈ watching.cur, (watching.thr q).wait = none :=
  ⟨frag_of (by decide +kernel), frag_of (by decide +kernel), clean_words (by decide +kernel),
    clean_words (l := [.mwait 0]) (by decide +kernel) _ (by simp), by decide +kernel⟩
/-- A harvest launch, whose regions live in registers 10 and 11. -/
def harvesting (isOpen : Bool) : State :=
  let s := lab 0 false (pairRegs 0x0C00)
  { withTeams s fun t => { t with groups := t.groups.map fun g => { g with
      open_ := isOpen, phase := if isOpen then .region else .between, label := 0x10020 } } with
    launches := s.launches.map fun l => { l with harvest := true } }
theorem wit_RegionWords : (harvesting false).issues (.rgnb 0 10 2) (Clean (.rgnb 0 10 2)) ∧
    (∀ i ∈ ([.rgnn 0 10 2, .rgnc 0, .rgnx 0] : List Instr), (harvesting true).issues i (Clean i)) ∧
    (∀ i ∈ ([.rgnb 0 10 2, .rgnn 0 10 2, .rgnc 0, .rgnx 0] : List Instr),
      (harvesting true).active i = [⟨0, 0⟩, ⟨0, 1⟩] ∧ (harvesting true).wholeGroup i ⟨0, 0⟩ = true) ∧
    badMask ((harvesting true).block 0).regs (((harvesting true).thr ⟨0, 0⟩).pairVal 10) = false ∧
    canonical (((harvesting true).thr ⟨0, 0⟩).label 2) = true ∧ ((harvesting false).group 0 0).open_ = false ∧
    ((harvesting true).group 0 0).open_ = true ∧ ((harvesting true).group 0 0).draining = [] :=
  ⟨clean_words (l := [.rgnb 0 10 2]) (by decide +kernel) _ (by simp), clean_words (by decide +kernel), by decide +kernel⟩
/-- Slot 3's descriptor: 256 bytes of the window from its start, RAW, 256 bytes expected. -/
def armWord : BitVec 64 := 0x0000100000010000
/-- The machine for slot words, with slot 5 READY. -/
def slotted : State := withTeams (lab 1 false (pairRegs armWord)) fun t => { t with halves := t.halves.map fun h => { h with
  slots := h.slots.modify 5 fun x => { x with size := 4, state := .ready } } }
theorem wit_SlotWords : (∀ i ∈ ([.slotx 0 3 10] : List Instr), slotted.issues i (Clean i)) ∧
    (∀ i ∈ ([.slotw 0 3 0, .slotr 0 5, .slotq 0 3 12] : List Instr), slotted.issues i fun _ => True) ∧
    ((slotted.slotAt ⟨0, 0⟩ 3).any fun x => x.state == .empty && !x.phase) = true ∧
    ((slotted.slotAt ⟨0, 0⟩ 5).any fun x => x.state == .ready) = true ∧
    (let w := ((slotted.thr ⟨0, 0⟩).pairVal 10).toNat
     w / 2 ^ 13 % 8 = 0 ∧ w / 2 ^ 29 % 8 = 0 ∧ w / 2 ^ 57 = 0 ∧ w / 2 ^ 16 % 2 ^ 13 ≠ 0 ∧ w / 2 ^ 32 % 16 < 14 ∧
       w / 2 ^ 36 % 2 ^ 21 = 256 ∧ slotted.inWindow 0 (w % 2 ^ 13 * 256) (w / 2 ^ 16 % 2 ^ 13 * 256) = true) :=
  ⟨clean_words (by decide +kernel), any_words (by decide +kernel), by decide +kernel⟩
/-- A descriptor of four words copied between two places of global memory, in registers 16 to 23. -/
def descRegs (_ n : Nat) : Reg :=
  { val := if n = 16 then 0x10100 else if n = 18 then 0x10200 else if n = 20 then 15 else 0, tag := tagI32 }
theorem wit_CopyCommandsAccepted : (lab 1 false descRegs).issues (.cps 0 0 16 0) (fun u => u.poisoned (copyUses 16 0) = false) ∧
    ∀ q ∈ (lab 1 false descRegs).active (.cps 0 0 16 0), (lab 1 false descRegs).copyMay .cps 2 0 16 0 q := by
  refine ⟨issues_of (p := fun u => !u.poisoned (copyUses 16 0)) (by decide +kernel) fun u h => by simpa using h, ?_⟩
  have h : ((lab 1 false descRegs).active (.cps 0 0 16 0)).all (fun q =>
      let s := lab 1 false descRegs
      let d := (s.thr q).desc 16
      !badDesc .cps d false 0 && (descAlign d ((s.thr q).ctrOf 0)).isNone && decide (s.copyHeld (s.coreOf q) + 2 ≤ 256) &&
        s.allPerformed q false && !descSscr d && !descDscr d) = true := by decide +kernel
  intro q hq
  have := List.all_eq_true.mp h q hq
  simp only [Bool.and_eq_true, Bool.not_eq_true', decide_eq_true_eq, Option.isNone_iff_eq_none] at this
  exact ⟨this.1.1.1.1.1, this.1.1.1.1.2, this.1.1.1.2, this.1.1.2, Or.inl ⟨this.1.2, this.2⟩⟩
/-- The same into slot 3 of the window, which is FILLING. -/
def fillRegs (_ n : Nat) : Reg :=
  { val := if n = 16 then 0x10100 else if n = 20 then 15 else if n = 21 then 0x02000000 else 0, tag := tagI32 }
def filling : State := withTeams (lab 1 false fillRegs) fun t => { t with halves := t.halves.map fun h => { h with
  slots := h.slots.modify 3 fun x => { x with size := 4, state := .filling, expect := 1024 } } }
theorem wit_CopyCommandsAccepted_slot : (∀ i ∈ ([.cpt 0 3 16 0, .cpb 0 3 16 0] : List Instr),
      filling.issues i fun u => u.poisoned (copyUses 16 0) = false) ∧
    (∀ k ∈ [CmdKind.cpt, .cpb], ∀ q ∈ filling.cur, filling.copyMay k 2 3 16 0 q) ∧
    (∀ q ∈ filling.liveRefs 0 0, q ∈ filling.active (.cpb 0 3 16 0)) ∧ filling.reportRoom ⟨0, 0⟩ .run = .run := by
  refine ⟨some_words (p := fun _ u => !u.poisoned (copyUses 16 0)) (by decide +kernel) fun _ u h => by simpa using h, ?_,
    by decide +kernel⟩
  have h : ([CmdKind.cpt, .cpb].all fun k => filling.cur.all fun q =>
      let s := filling
      let d := (s.thr q).desc 16
      !badDesc k d false 3 && (descAlign d ((s.thr q).ctrOf 0)).isNone && decide (s.copyHeld (s.coreOf q) + 2 ≤ 256) &&
        s.allPerformed q false && !descSscr d && (s.slotAt q 3).any fun sl => s.descSlot q.team k d sl == .run && sl.state == .filling &&
          !(s.halfOf q).scratchAway (descDst d).toNat (destSpan (k == .cpt) d)) = true := by decide +kernel
  intro k hk q hq
  have := List.all_eq_true.mp (List.all_eq_true.mp h k hk) q hq
  simp only [Bool.and_eq_true, Bool.not_eq_true', decide_eq_true_eq, Option.isNone_iff_eq_none] at this
  obtain ⟨sl, hs, h2⟩ := any_some this.2
  simp only [Bool.and_eq_true, beq_iff_eq, Bool.not_eq_true'] at h2
  exact ⟨this.1.1.1.1.1, this.1.1.1.1.2, this.1.1.1.2, this.1.1.2, Or.inr ⟨sl, hs, h2.1.1, fun hc =>
    (Bool.false_ne_true (this.1.2.symm.trans hc)).elim, fun _ => ⟨h2.1.2, h2.2⟩⟩⟩
/-- A lane whose first batch is sealed and complete. -/
def batched : State := withTeams (lab 1 false (pairRegs 0)) fun t => { t with threads := t.threads.map fun u =>
  { u with batchNo := 1, batches := [{ number := 0, sealed := true, open_ := 0, faults := [] }] } }
theorem wit_BatchAndCounterWaits : batched.issues (.cpseal 0 5) (fun u => u.wait = none ∧ (u.batches.filter Batch.incomplete).length < 8) ∧
    batched.issues (.cpwait 0 0) (fun u => let n := u.val32 0
      Clean (.cpwait 0 0) u ∧ u.batchNo ≠ n ∧ (u.batchNo - n).toNat ≤ 2 ^ 31 ∧
        ∀ x ∈ u.batches, u.covers n x = true → x.open_ = 0 ∧ x.faults = []) ∧
    (∀ i ∈ ([.cpctrG 0 20 10 12, .cpctrT 0 20 10 12, .cpctrC 0 20 10 12, .cpctrD 0 20 10 12, .cpctrV 0 20 10 12,
        .cpctrS 0 20 10 12] : List Instr), (linked 1).issues i (fun u => Clean i u ∧ (u.pairVal 10).toNat % 8 = 0 ∧ u.wait = none)) ∧
    (∀ r ∈ batched.cur, batched.allPerformed r true = true ∧ batched.reportRoom r .run = .run) ∧
    ∀ r ∈ (linked 1).cur, (linked 1).counterMay 10 r = true ∧ (((linked 1).counterOf 10 r).bind (linked 1).counterAt).isSome = true ∧
      (okOr [] ((linked 1).loadParts r (((linked 1).thr r).pairVal 10) 8)).length = 1 := by
  refine ⟨issues_of (p := fun u => u.wait.isNone && decide ((u.batches.filter Batch.incomplete).length < 8)) (by decide +kernel)
      fun u h => by simpa using h, ?_, ?_, by decide +kernel, by decide +kernel⟩
  · refine issues_of (p := fun u => cleanB (.cpwait 0 0) u && decide (u.batchNo ≠ u.val32 0) &&
      decide ((u.batchNo - u.val32 0).toNat ≤ 2 ^ 31) && u.batches.all fun x => decide (x.open_ = 0 ∧ x.faults = []))
      (by decide +kernel) fun u h => ?_
    simp only [Bool.and_eq_true, decide_eq_true_eq, List.all_eq_true] at h
    exact ⟨clean_of h.1.1.1, h.1.1.2, h.1.2, fun x hx _ => h.2 x hx⟩
  · refine some_words (p := fun i u => cleanB i u && decide ((u.pairVal 10).toNat % 8 = 0) && u.wait.isNone)
      (by decide +kernel) fun i u h => ?_
    simp only [Bool.and_eq_true, decide_eq_true_eq, Option.isNone_iff_eq_none] at h
    exact ⟨clean_of h.1.1, h.1.2, h.2⟩
/-- A core with one ring of the team, set at the start of the window with two entries, one of them used. -/
def ringing : State :=
  { withTeams (lab 1 false (pairRegs 0x2000)) fun t => { t with halves := t.halves.map fun h => { h with rings := [3] } } with
    rings := [{ core := 0, phys := 3, team := 0, half := 0, tail := 1, head := 0, base := 0, logn := 1, en := true }] }
theorem wit_MessagesAndRings : (ringing.teamRing ⟨0, 0⟩ 0).any (fun x => x.en && decide ((x.tail - x.head).toNat = 1)) = true ∧
    ({ ringing with rings := ringing.rings.map fun x => { x with en := false } } : State).issues (.mringSet 0 0 10)
      (Clean (.mringSet 0 0 10)) ∧
    (let w := ((ringing.thr ⟨0, 0⟩).val32 10).toNat
     w < 2 ^ 16 ∧ w / 2 ^ 13 ≠ 0 ∧ ringing.inWindow 0 (w % 2 ^ 13 * 256) (64 + 64 * 2 ^ (w / 2 ^ 13)) = true ∧
       (ringing.half 0 0).scratchAway (w % 2 ^ 13 * 256) (64 + 64 * 2 ^ (w / 2 ^ 13)) = false) ∧
    (∀ q ∈ ringing.active (.mringPop 0 0 4), ringing.drainsScratch q = false) ∧ ringing.messages = [] ∧
    (∀ i ∈ ([.mringOff 0 0, .mringQ 0 0 20] : List Instr), ringing.issues i fun _ => True) ∧
    ringing.issues (.mringPop 0 0 4) (Clean (.mringPop 0 0 4)) ∧ ((ringing.thr ⟨0, 0⟩).val32 4).toNat = 1 ∧
    ({ ringing with cur := [⟨0, 0⟩] } : State).issues (.mringWatch 0 0) (fun _ => True) ∧
    ringing.coreEnabled 0 = false ∧ (ringing.ringAt 0 3).any (fun x => decide (x.used < 2 ^ x.logn.toNat)) = true :=
  ⟨by decide +kernel, clean_words (l := [.mringSet 0 0 10]) (by decide +kernel) _ (by simp), by decide +kernel,
    by decide +kernel, rfl, any_words (by decide +kernel), clean_words (l := [.mringPop 0 0 4]) (by decide +kernel) _ (by simp), by decide +kernel,
    any_words (l := [.mringWatch 0 0]) (by decide +kernel) _ (by simp), by decide +kernel⟩
/-- A lane that sends: eight bytes of its window to ring 0 of core 0. -/
def sending : State := { lab 1 false (pairRegs 0x800) with cur := [⟨0, 0⟩] }
theorem wit_MessagesAndRings_send : (∀ i ∈ ([.msend 0 5 10 0, .msendNb 0 5 10 0] : List Instr), sending.issues i fun u =>
      Clean i u ∧ u.wait = none) ∧ (sending.thr ⟨0, 0⟩).active (.msend 0 5 10 0) = true ∧
    (let w := ((sending.thr ⟨0, 0⟩).val32 10).toNat
     w / 2 ^ 11 % 8 ≠ 0 ∧ w / 2 ^ 14 % 4 = 0 ∧ ((sending.thr ⟨0, 0⟩).val32 0).toNat % 8 = 0 ∧
       (sending.scratchAt ⟨0, 0⟩ ((sending.thr ⟨0, 0⟩).val32 0) (w / 2 ^ 11 % 8 * 8)).any
         (fun p => !(sending.half 0 p.1).scratchAway p.2 (w / 2 ^ 11 % 8 * 8)) = true) ∧
    sending.allPerformed ⟨0, 0⟩ false = true := by
  refine ⟨some_words (p := fun i u => cleanB i u && u.wait.isNone) (by decide +kernel) fun i u h => ?_, by decide +kernel⟩
  simp only [Bool.and_eq_true, Option.isNone_iff_eq_none] at h
  exact ⟨clean_of h.1, h.2⟩
/-- The machine whose ring has room, with a message of lane 0 in a given condition. -/
def messaging (m : Message → Message) : State :=
  { ringing with
    ready := BitVec.allOnes 64
    messages := [m { own := ⟨0, 0⟩, core := 0, ring := 3, utag := 7, payload := [1, 2, 3, 4, 5, 6, 7, 8], poison := false, wait := true,
                     dst := 5, done := false, here := true }] }
theorem wit_MessagesAndRings_append : ((messaging id).messages[0]?.any fun m => !m.done && m.here && m.status.isNone && m.dst != 0) = true ∧
    (messaging id).coreEnabled 0 = true ∧ ((messaging id).ringAt 0 3).any (fun x => x.en && decide (x.used < 2 ^ x.logn.toNat) &&
      ((messaging id).team x.team).status == .resident && ((messaging id).team x.team).xasid == ((messaging id).team 0).xasid) = true ∧
    (messaging id).has ⟨0, 0⟩ ∧ ((messaging fun m => { m with met := true }).messages[0]?.any fun m => m.met && m.status.isNone) = true :=
  ⟨by decide +kernel, by decide +kernel, by decide +kernel, ⟨by decide +kernel, by decide +kernel⟩, by decide +kernel⟩
/-- Two lanes that have met in no cycle for a millisecond, and a group with a report that no thread is left to take. -/
def stuckLab : State :=
  { withTeams (lab 0 true) fun t => { t with threads := t.threads.map fun u => if u.ctl then u else { u with wait := some .qget } } with
    gtime := 2000000 }
def orphaned : State := withTeams lab fun t =>
  { t with groups := t.groups.map fun g => { g with reports := [{ (default : Report) with from_ := [] }] } }
theorem wit_ProbesAndReports_watchdog : (stuckLab.team 0).onCore = true ∧ stuckLab.unitBlocked (0, 0) = true ∧
    stuckLab.blockedSince (0, 0) + 1000000 ≤ stuckLab.gtime ∧ stuckLab.probeFrom (0, 0) ≠ 1 ∧ orphaned.reportThread 0 { (default : Report) with from_ := [] } = none ∧
    (orphaned.group 0 0).reports = [{ (default : Report) with from_ := [] }] := by decide +kernel
theorem wit_ProbesAndReports : lab.issues (.probe 0 5) (fun _ => True) ∧ lab.blockedUnits 0 = [] ∧
    lab.unitBlocked (0, 0) = false ∧ (lab.group 0 0).reports = [] ∧ ∀ r ∈ lab.liveRefs 0 0, (lab.thr r).group = 0 :=
  ⟨any_words (l := [.probe 0 5]) (by decide +kernel) _ (by simp), by decide +kernel⟩

/-! ### The engines -/

/-- Slots 0 to 7 of 8 KiB and one state, of formats that a function gives; a vitrine; one page mapped. -/
def engined (fmt : Nat → Tag) (state : SlotState := .ready) (reg : Nat → Nat → Reg := pairRegs 0x10400) : State :=
  { withTeams (lab 2 false reg) fun t => { t with halves := t.halves.map fun h => { h with
      vit := some [], slots := h.slots.zipIdx.map fun p => { p.1 with size := 32, fmt := fmt p.2, state := state } } } with
    tlb := [{ loc := 0, asid := 0, vpage := 0x10000, leaf := probeLeaf }] }
/-- Everything that the acceptance of an engine word needs of a state. -/
def engineB (s : State) (i : Instr) (what : List Nat) (p : Thread → Bool := fun _ => true) : Bool :=
  issuesB s i p && s.active i == [⟨0, 0⟩, ⟨0, 1⟩] && !(s.halfOf ⟨0, 0⟩).accAway i && !s.engineBusy ⟨0, 0⟩ what &&
    !s.accOwned ⟨0, 0⟩ && s.engine.isEmpty && !s.harvest 0 && (s.cur.all fun q => s.allPerformed q false) &&
    (s.group 0 (s.thr ⟨0, 0⟩).group).reports.isEmpty
theorem engine_of {s : State} {i : Instr} {what : List Nat} {p : Thread → Bool} {q : Thread → Prop}
    (h : engineB s i what p = true) (hq : ∀ t, p t = true → q t) :
    s.issues i q ∧ s.active i = [⟨0, 0⟩, ⟨0, 1⟩] ∧ s.engineMay i ⟨0, 0⟩ what := by
  simp only [engineB, Bool.and_eq_true, Bool.not_eq_true', beq_iff_eq, List.isEmpty_iff, List.all_eq_true] at h
  obtain ⟨⟨⟨⟨⟨⟨⟨⟨h1, h2⟩, h3⟩, h4⟩, h5⟩, h6⟩, h7⟩, h8⟩, h9⟩ := h
  refine ⟨issues_of h1 hq, h2, ⟨h3, h4, by simp [h6], fun hh => ?_, fun r hr => ?_, Or.inr ?_⟩, h5⟩
  · exact (Bool.false_ne_true (h7.symm.trans hh)).elim
  · exact h8 r (List.mem_filter.mp hr).1
  · simp [h9]
/-- The operands of a tile instruction. -/
def operandsB (s : State) (x : Nat) (slots : List Nat) (form : List Tag → Option Tag) (bytes : List Tag → List Nat) : Bool :=
  let fmts := slots.map fun n => (s.slotOf ⟨0, 0⟩ n).fmt
  s.inTables ⟨0, 0⟩ [x] slots && (s.notReady ⟨0, 0⟩ slots).isNone && (slots.all fun n => !(s.slotOf ⟨0, 0⟩ n).err) &&
    ((slots.zip (bytes fmts)).all fun p => decide (p.2 ≤ (s.slotOf ⟨0, 0⟩ p.1).len)) && s.tileTag ⟨0, 0⟩ x == tagRAW &&
    (form fmts).isSome
theorem operands_of {s : State} {x : Nat} {slots : List Nat} {form : List Tag → Option Tag} {bytes : List Tag → List Nat}
    (h : operandsB s x slots form bytes = true) : s.operandsMay ⟨0, 0⟩ x slots form bytes := by
  simp only [operandsB, Bool.and_eq_true, Bool.not_eq_true', beq_iff_eq, List.all_eq_true, decide_eq_true_eq,
    Option.isNone_iff_eq_none, Option.isSome_iff_exists] at h
  obtain ⟨⟨⟨⟨⟨h1, h2⟩, h3⟩, h4⟩, h5⟩, want, h6⟩ := h
  exact ⟨h1, h2, h3, h4, by rw [h5]; decide, want, h6, Or.inl h5⟩
/-- Data in the even slots and scales in the odd ones. -/
def scaled (n : Nat) : Tag := if n % 2 = 0 then tagE4M3 else tagE8M0
/-- Integers, and their parameters in slot 3. -/
def quantised (n : Nat) : Tag := if n = 3 then tagADHI else tagI8
/-- An engine word of any clean lane is accepted. -/
def Takes (s : State) (i : Instr) (what : List Nat) : Prop :=
  s.issues i (fun _ => True) ∧ s.active i = [⟨0, 0⟩, ⟨0, 1⟩] ∧ s.engineMay i ⟨0, 0⟩ what
theorem takes_of {s : State} {i : Instr} {what : List Nat} (h : engineB s i what = true) : Takes s i what :=
  engine_of h fun _ _ => trivial
theorem wit_EngineWordsAccepted_tiles :
    Takes (engined fun _ => tagBF16) (.mma 0 1 2 3 0 1 0) [1] ∧
    (engined fun _ => tagBF16).operandsMay ⟨0, 0⟩ 1 [2, 3] mmaTag (fun _ => [32 * 64, 32 * 64]) ∧
    Takes (engined scaled) (.mmas 0 1 2 4 0 0 0) [1] ∧
    (engined scaled).operandsMay ⟨0, 0⟩ 1 [2, 3, 4, 5] mmasTag (fun _ => [32 * 64, 2, 32 * 64, 2]) ∧
    Takes (engined quantised) (.mmaq 0 1 1 2 0 0) [1] ∧
    (engined quantised).operandsMay ⟨0, 0⟩ 1 [1, 2, 3] mmaqTag (fun _ => [32 * 64, 32 * 64, 128 * 2]) :=
  ⟨takes_of (by decide +kernel), operands_of (by decide +kernel), takes_of (by decide +kernel), operands_of (by decide +kernel),
    takes_of (by decide +kernel), operands_of (by decide +kernel)⟩
theorem wit_EngineWordsAccepted : (∀ i ∈ ([.mzero 0 7, .mlda 0 7 0] : List Instr), Takes (engined fun _ => tagF32) i []) ∧
    (let s := engined fun _ => tagF32
     s.inTables ⟨0, 0⟩ [7] [0] = true ∧ s.notReady ⟨0, 0⟩ [0] = none ∧ 4096 ≤ (s.slotOf ⟨0, 0⟩ 0).len ∧
       (s.slotOf ⟨0, 0⟩ 0).err = false) ∧
    (∀ i ∈ ([.splev 0 1 2 7, .spldr 0 1 2 0, .splgr 0 1 2 0] : List Instr), Takes (engined fun _ => tagBF16) i [1]) ∧
    (∀ i ∈ ([.splrf 0 7, .splld 0 35 2 1] : List Instr), Takes (engined fun _ => tagBF16) i []) ∧
    (engined fun _ => tagBF16).splineMay ⟨0, 0⟩ 7 ∧
    (engined fun _ => tagBF16).operandsMay ⟨0, 0⟩ 1 [2, 3] gridForm gridSizes := by
  refine ⟨fun i hi => takes_of (by revert i; decide +kernel), by decide +kernel, fun i hi => takes_of (by revert i; decide +kernel),
    fun i hi => takes_of (by revert i; decide +kernel), ⟨by decide +kernel, by decide +kernel⟩, operands_of (by decide +kernel)⟩
/-- Register 16 on: a descriptor of one row of four weights; registers 8 to 11: a knot grid. -/
def mmvRegs (_ n : Nat) : Reg :=
  { val := if n = 16 then 0x10100 else if n = 18 then 0x10200 else if n = 20 then 0x10300 else if n = 22 then 4 else if n = 23 then 1
      else if n = 8 then 0 else if n = 9 then 0x3F800000 else if n = 10 then 0x148 else 0, tag := if n = 8 ∨ n = 9 then tagF32 else tagI32 }
theorem wit_EngineProducersAndHolders_slots :
    (∀ i ∈ ([.mdrnS 0 1 2 2, .mdrnSadd 0 1 2 2] : List Instr), Takes (engined (fun _ => tagBF16) .filling) i [1]) ∧
    Takes (engined (fun _ => tagBF16) .filling) (.splst 0 35 2 1) [] ∧
    (let s := engined (fun _ => tagBF16) .filling
     let sl := s.slotOf ⟨0, 0⟩ 2
     s.inTables ⟨0, 0⟩ [1] [2] = true ∧ s.tileTag ⟨0, 0⟩ 1 = tagRAW ∧ sl.state = .filling ∧ sl.off % (1024 * drainBytes 2) = 0 ∧
       sl.fmt = drainTag 2 ∧ 1024 * drainBytes 2 ≤ sl.len ∧ (s.halfOf ⟨0, 0⟩).vit.isSome = true) := by
  refine ⟨fun i hi => takes_of (by revert i; decide +kernel), takes_of (by decide +kernel), by decide +kernel⟩
theorem wit_EngineProducersAndHolders :
    (∀ i ∈ ([.mdrnG 0 1 10 4, .mdrnGadd 0 1 10 4] : List Instr), Takes (engined fun _ => tagBF16) i [1] ∧
      (engined fun _ => tagBF16).issues i (Clean i)) ∧
    (let s := engined fun _ => tagBF16
     let p := (s.thr ⟨0, 0⟩).pairVal 10
     p.toNat % (1024 * drainBytes 4) = 0 ∧
       (match s.transAccess ⟨0, 0⟩ p 1024 { wr := true } 6 with | .ok l => !farParts l | .error _ => false) = true ∧
       s.buffers ⟨0, 0⟩ = false) ∧
    (lab 2 false mmvRegs).issues (.mmv 0 16 0 0) (fun u => u.poisoned (copyUses 16 0) = false) ∧
    (let d := ((lab 2 false mmvRegs).thr ⟨0, 0⟩).desc 16
     (lab 2 false mmvRegs).reportRoom ⟨0, 0⟩ .run = .run ∧ badMmv d 0 = false ∧ (mmvBase d 0).toNat % 256 = 0 ∧ (mmvBase d 1).toNat % 2 = 0 ∧ (mmvBase d 2).toNat % 4 = 0) ∧
    Takes (engined (fun _ => tagBF16) .ready mmvRegs) (.splkg 0 7 8) [] ∧
    (let u := (engined (fun _ => tagBF16) .ready mmvRegs).thr ⟨0, 0⟩
     let w := u.blockWord 8
     badKnot (w 0) (w 1) (w 2) (w 3) = false ∧ u.blockTag 8 0 = tagF32 ∧ u.blockTag 8 1 = tagF32) ∧
    Takes (engined fun _ => tagBF16) (.splkq 0 7 12) [] ∧ (engined fun _ => tagBF16).oneFragment := by
  refine ⟨fun i hi => ⟨takes_of (by revert i; decide +kernel), clean_words (l := [.mdrnG 0 1 10 4, .mdrnGadd 0 1 10 4])
    (by decide +kernel) i hi⟩, by decide +kernel, ?_, by decide +kernel, takes_of (by decide +kernel), by decide +kernel,
    takes_of (by decide +kernel), frag_of (by decide +kernel)⟩
  exact issues_of (p := fun u => !u.poisoned (copyUses 16 0)) (by decide +kernel) fun u h => by simpa using h
/-- The engined machine in custodian mode, and with the lanes waiting for an entry that the engine no longer has. -/
def saving (w : Option Wait) : State := withTeams (engined fun _ => tagBF16) fun t => { t with threads := t.threads.map fun u =>
  { u with cm := true, wait := w } }
theorem wit_EngineProducersAndHolders_records :
    (∀ i ∈ ([.accsave 0 7 10, .accrest 0 7 10, .accsaveV 0 10, .accrestV 0 10] : List Instr), Takes (saving none) i [] ∧
      Takes (saving (some (.engine 9))) i []) ∧ (saving none).oneFragment ∧
    (let s := saving none
     (s.halfOf ⟨0, 0⟩).tiles.length = 8 ∧ s.accSource 0 0 = (0, 0) ∧ ((s.thr ⟨0, 0⟩).pairVal 10).toNat % 128 = 0 ∧ s.allPerformed ⟨0, 0⟩ true = true ∧
       isOk (s.recordParts ⟨0, 0⟩ 10 true 4224) = true ∧ isOk (s.recordParts ⟨0, 0⟩ 10 false 4224) = true) := by
  refine ⟨fun i hi => ⟨takes_of (by revert i; decide +kernel), takes_of (by revert i; decide +kernel)⟩, frag_of (by decide +kernel),
    by decide +kernel⟩
/-- The engine with MZERO and an MMA of integers in its queue. -/
def stepping : State := { engined (fun _ => tagI8) with engine := [
  { (default : MEntry) with id := 1, instr := .mzero 0 1 }, { (default : MEntry) with id := 2, instr := .mma 0 1 2 3 0 0 0 }] }
theorem wit_EngineSteps : stepping.engineNext 0 = some { (default : MEntry) with id := 1, instr := .mzero 0 1 } ∧
    (stepping.doEntry { (default : MEntry) with id := 1, instr := .mzero 0 1 }).2 = none ∧
    stepping.recordFlight { (default : MEntry) with id := 1, instr := .mzero 0 1 } = none ∧
    (stepping.recordFlight { (default : MEntry) with id := 1, instr := .accrest 0 1 2 }).isSome = true ∧
    (let h := stepping.half 0 0
     h.slotBad 2 2048 = false ∧ (h.tiles.getD 1 default).bad = [] ∧ (h.tiles.getD 1 default).tag ≠ tagPOISON ∧
       mmaTag [h.slotTag 2, h.slotTag 3] = some tagI32 ∧ h.slotBad 2 4096 = false) := by decide +kernel
/-- One MMV in a given stage. -/
def multiplying (c : Cmd → Cmd) : State := { lab with cmds := [c { (default : Cmd) with kind := .mmv, stage := .queued }] }
theorem wit_EngineSteps_mmv : (let s := multiplying fun c => { c with stop := true }
      let c := s.cmds.getD s.sel default
      c.kind = .mmv ∧ s.mmvTurn s.sel = true ∧ c.stage = .queued ∧ c.stop = true ∧ c.hasCtr = false ∧ c.fault = none ∧
        c.countFault = none) ∧
    ((multiplying id).cmds.getD 0 default).stop = false ∧
    (let s := multiplying fun c => { c with stage := .started, desc := [0, 0, 0, 0, 0, 0, 4, 1] }
     let c := s.cmds.getD s.sel default
     c.stage = .started ∧ s.mmvTurn s.sel = true ∧ s.mmvWaits s.sel = false ∧ c.mmvOver = false) ∧
    (let s := multiplying fun c => { c with stage := .started, row := 1, hasCtr := true, desc := [0, 0, 0, 0, 0, 0, 4, 1] }
     let c := s.cmds.getD s.sel default
     s.mmvWaits s.sel = false ∧ c.mmvOver = true ∧ s.jobOut (fun j => j == .result s.sel) = false ∧ c.hasCtr = true) := by
  decide +kernel
/-- Slots of F32, and a count of elements in registers 23 and 24. -/
def sweepRegs (_ n : Nat) : Reg := { val := if n = 23 ∨ n = 24 then 8 else 0, tag := if n = 0 then tagRAW else tagF32 }
theorem wit_OptimiserAndReductionWords :
    (let s := withTeams (engined (fun _ => tagF32) .ready sweepRegs) fun t => { t with groups := t.groups.map fun g => { g with role := 0 } }
     (∀ i ∈ ([.vredAdd 0 0 1 24, .vredMax 0 0 1 24] : List Instr), s.issues i (Clean i)) ∧
     s.issues (.oadam 0 0 4 16) (fun u => u.poisoned (paramUses 16 7) = false ∧ ∀ j, j < 7 → u.blockTag 16 j = tagF32) ∧
     s.issues (.osgd 0 0 4 16) (fun u => u.poisoned (paramUses 16 3) = false ∧ ∀ j, j < 3 → u.blockTag 16 j = tagF32) ∧
     s.inTables ⟨0, 0⟩ [] [0, 1, 2, 4] = true ∧ ((s.thr ⟨0, 0⟩).blockWord 16 7).toNat = 8 ∧ s.notReady ⟨0, 0⟩ [0, 1, 2, 4] = none ∧
     (∀ q ∈ s.cur, s.scratchMay q 0 true = true ∧ s.drainsScratch q = false) ∧ s.reportRoom ⟨0, 0⟩ .run = .run ∧
     (∀ k ∈ [0, 1, 2, 4], let sl := s.slotOf ⟨0, 0⟩ k
       sl.err = false ∧ 8 * elemBytes sl.fmt ≤ sl.len ∧
         (s.halfOf ⟨0, 0⟩).scratchAway sl.off (8 * elemBytes sl.fmt) = false) ∧
     optFmts ([0, 1, 2, 4].map fun k => (s.slotOf ⟨0, 0⟩ k).fmt) = true ∧ vredFmts false [tagF32, tagF32] = true) := by
  refine ⟨clean_words (by decide +kernel), ?_, ?_, by decide +kernel⟩
  · refine issues_of (p := fun u => !u.poisoned (paramUses 16 7) && (List.range 7).all fun j => u.blockTag 16 j == tagF32)
      (by decide +kernel) fun u h => ?_
    simp only [Bool.and_eq_true, Bool.not_eq_true', List.all_eq_true, List.mem_range, beq_iff_eq] at h
    exact h
  · refine issues_of (p := fun u => !u.poisoned (paramUses 16 3) && (List.range 3).all fun j => u.blockTag 16 j == tagF32)
      (by decide +kernel) fun u h => ?_
    simp only [Bool.and_eq_true, Bool.not_eq_true', List.all_eq_true, List.mem_range, beq_iff_eq] at h
    exact h

/-! ### The front end, launches, placement -/

/-- A packet: its type, then its words from byte 16 (R403). -/
def packet (type : Nat) (ws : List Nat) : List Byte :=
  let bs := leBytes 16 type ++ ws.flatMap (leBytes 8)
  bs ++ List.replicate (64 - bs.length) 0
/-- One page mapped for an agent of each die, queue 0 enabled with one packet, everything ready, the curator running. -/
def fronted (p : List Byte) : State :=
  { mapped with
    mem := writeBytes [] 0x20000 p, ready := BitVec.allOnes 64
    curator := { mapped.curator with running := some 0 }
    queues := mapped.queues.modify 0 fun q => { q with en := true, admin := true, qbase := 0x20000, logsz := 4, tail := 1 }
    tlb := [{ loc := 0, asid := 0, vpage := 0x10000, leaf := probeLeaf }] }
/-- The front end would take the packet now. -/
def takenB (p : List Byte) : Bool :=
  (fronted p).homesOpen && (fronted p).readyHead 0 == some (some p) && !pktBad p && pktStatus p == 0
theorem taken_of {p : List Byte} (h : takenB p = true) : Taken (fronted p) p (pktType p) (fronted p) := by
  simp only [takenB, Bool.and_eq_true, beq_iff_eq, Bool.not_eq_true'] at h
  refine ⟨⟨h.1.1.1, h.1.1.2, h.1.2, rfl⟩, ?_⟩
  simp [State.statusOk, h.2]
theorem admin_of {p : List Byte} (h : takenB p = true) (hp : pktType p = 0x10) : AdminTaken (fronted p) p (fronted p) :=
  ⟨hp ▸ taken_of h, rfl, rfl, rfl⟩
theorem wit_FrontEndPackets : Taken (fronted (packet 5 [])) (packet 5 []) 5 (fronted (packet 5 [])) ∧
    (let p := packet 4 [0x10100, 3]
     Taken (fronted p) p 4 (fronted p) ∧ (pktWord p 16).toNat % 8 = 0 ∧
       ((fronted p).agentCheck 0 ((fronted p).queue 0).space { rd := true, wr := true } 3 (pktWord p 16) 8).2 = none) ∧
    (let p := packet 4 [0x30100, 3]
     ((fronted p).agentCheck 0 ((fronted p).queue 0).space { rd := true, wr := true } 3 (pktWord p 16) 8).2.isSome = true) ∧
    (∀ b ∈ [0, 4], let p := packet (3 + 2 ^ 64 * b) [0x10100, 0]
     (fronted p).homesOpen = true ∧ (fronted p).readyHead 0 = some (some p) ∧ pktBad p = false ∧ pktType p = 3 ∧
       ((fronted p).waitReached 0 p).2 = .yes ∧ ((fronted p).statusOk 0 (pktStatus p)).2 = (b == 0)) ∧
    (∀ v ∈ [(0x10100, Reached.no), (0x30100, .fault)], let p := packet 3 [v.1, 9]
     (fronted p).homesOpen = true ∧ (fronted p).readyHead 0 = some (some p) ∧ pktBad p = false ∧ pktType p = 3 ∧
       ((fronted p).waitReached 0 p).2 = v.2) ∧
    (let p := packet 3 [0x10100, 9]
     let s := (fronted p).modQueue 0 fun q => { q with held := true }
     s.homesOpen = true ∧ (s.queue 0).stopped = false ∧ s.headPacket 0 = some p ∧ isOk (s.agentAt 0 (s.queue 0).space (pktWord p 16) { rd := true } 1).2 = true) :=
  ⟨taken_of (by decide +kernel), ⟨taken_of (by decide +kernel), by decide +kernel⟩, by decide +kernel, by decide +kernel,
    by decide +kernel, by decide +kernel⟩
theorem wit_BadPacketStopsQueue : (fronted (packet 6 [])).homesOpen = true ∧ (fronted (packet 6 [])).readyHead 0 = some (some (packet 6 [])) ∧ pktBad (packet 6 []) = true ∧
    ((fronted (packet 6 [])).queue 0).homedie.toNat < (fronted (packet 6 [])).dies.length ∧
    0 < (fronted (packet 6 [])).queues.length := by decide +kernel
/-- An administrative packet: its operation, its queue, a byte, its launch's number (R408). -/
def adminPacket (op q b seq : Nat) : List Byte := packet 0x10 [op + 2 ^ 32 * q + 2 ^ 48 * b, seq]
theorem wit_AdminOperations : (∀ op ∈ ([2, 7, 8, 9, 10, 12] : List Nat), takenB (adminPacket op 0 0 0) = true) ∧
    takenB (adminPacket 6 1 0 0) = true ∧
    AdminTaken (fronted (adminPacket 3 0 7 0)) (adminPacket 3 0 7 0) (fronted (adminPacket 3 0 7 0)) ∧
    pktQueue (adminPacket 3 0 7 0) = some 0 ∧ recNum (adminPacket 3 0 7 0) 22 1 ≤ 15 ∧ 15 < recNum (adminPacket 3 0 16 0) 22 1 ∧
    recNum (adminPacket 6 1 0 0) 20 1 = 1 ∧
    (let s := { fronted (adminPacket 6 1 0 0) with launches := [] }
     ∀ l ∈ s.launches, l.status = .retired) ∧
    (fronted (adminPacket 10 0 0 0)).namedLaunches (adminPacket 10 0 0 0) = [0] ∧
    (fronted (adminPacket 10 0 0 5)).namedLaunches (adminPacket 10 0 0 5) = [] ∧
    ((fronted (adminPacket 12 0 0 0)).curator.slot 1).length < 352 :=
  ⟨by decide +kernel, by decide +kernel, admin_of (by decide +kernel) (by decide +kernel), by decide +kernel⟩
/-- A launch block: one team of 16 lanes of one group, entry 0x10000 (R191). -/
def blockBytes : List Byte :=
  let f (n v : Nat) : List Byte := leBytes n v
  let a := f 4 1 ++ f 4 0x80 ++ f 8 0x10000 ++ f 8 0 ++ f 4 16 ++ f 4 1 ++ f 4 0x53 ++ f 2 64 ++ f 2 4 ++ f 1 8 ++ f 1 8 ++
    f 1 8 ++ f 1 8 ++ f 1 8
  a ++ List.replicate (256 - a.length) 0
/-- A LAUNCH packet, and the machine with that block. -/
def launching : State := let s := fronted (packet 1 [0x10100]); { s with mem := writeBytes s.mem 0x10100 blockBytes }
/-- A GANG packet whose table is in a page that is not mapped. -/
def gangPacket : List Byte := packet 2 [0x30100, 2 + 2 ^ 32 * 10, 0, 0]
theorem wit_LaunchPackets : launching.nextQueue 0 = some 0 ∧ Taken launching (packet 1 [0x10100]) 1 launching ∧
    (launching.takeBlock (launching.queue 0) (launching.queue 0).space 0 0x10100).2.code = 0 ∧
    (fronted gangPacket).nextQueue 0 = some 0 ∧ Taken (fronted gangPacket) gangPacket 2 (fronted gangPacket) ∧
    isOk ((fronted gangPacket).agentLoad 0 ((fronted gangPacket).queue 0).space 0x30100 32).2 = false :=
  ⟨by decide +kernel, ⟨⟨by decide +kernel, by decide +kernel, by decide +kernel, by decide +kernel⟩, rfl⟩, by decide +kernel,
    by decide +kernel, taken_of (by decide +kernel), by decide +kernel⟩
theorem wit_LaunchPackets_rejected :
    ((fronted (packet 1 [0x10100])).takeBlock ((fronted (packet 1 [0x10100])).queue 0)
      ((fronted (packet 1 [0x10100])).queue 0).space 0 0x10100).2.code ≠ 0 := by decide +kernel
/-- A gang of the one launch, with its launch and its team in given conditions. -/
def ganged (l : LaunchStatus) (t : TeamStatus) : State :=
  { withTeams lab fun x => { x with status := t } with
    launches := lab.launches.map fun x => { x with status := l }, gtime := 1000
    gangs := [{ (default : Gang) with parts := [0], started := 0, timeout := 1, committed := false, done := false, code := 0 }] }
theorem wit_GangsAndLaunchesEnd :
    ((ganged .ending .placed).gangs[0]?.any fun y => !y.committed && !y.done && (ganged .ending .placed).gangBroken y) = true ∧
    ((ganged .reserving .placed).gangs[0]?.any fun y => !(ganged .reserving .placed).gangBroken y &&
      y.parts.all (ganged .reserving .placed).gridWhole) = true ∧
    ((ganged .reserving .drawn).gangs[0]?.any fun y => y.code == 0 && !y.parts.all (ganged .reserving .drawn).gridWhole &&
      decide (y.started + 1000 * y.timeout ≤ (ganged .reserving .drawn).gtime)) = true ∧
    ((ganged .running .retired).launches[0]?.any fun l => (ganged .running .retired).launchDone 0 && l.gang.isNone) = true ∧
    (ganged .running .retired).homesOpen = true ∧ (ganged .running .placed).launchDone 0 = false := by decide +kernel
/-- A launch whose team is still to be drawn, and the machine once it is. -/
def drawing : State :=
  { lab with launches := lab.launches.map (fun x => { x with counter := 0, placed := 0 }), teams := [], cur := [], ready := BitVec.allOnes 64 }
def nextOf (o : Host.Outcome State Fault Refusal) : State :=
  match o with
  | .next t => t
  | _ => lab
def drawn : State := nextOf (exec .dispatchDraw drawing)
theorem wit_TeamsDrawnPlacedAndRetired : 0 < drawing.launches.length ∧ drawing.placing 0 = true ∧ 0 ∈ drawing.partDies 0 ∧
    (drawing.launches.getD 0 default).counter < (drawing.launches.getD 0 default).block.nteam ∧
    drawn.ctxUsed 1 = false ∧ drawn.homesOpen = true ∧ drawn.placeOrder 0 = [0] ∧ drawn.mayPlace 0 = true ∧ drawn.returnFirst 0 0 = false ∧
    (drawn.placeNext 0 0 1).any (fun y => y.1.gridsKept) = true := by decide +kernel
/-- A granule to be zeroed, and a team whose threads have exited. -/
def leaving : State :=
  { withTeams lab fun t => { t with threads := t.threads.map fun u => { u with exited := true } } with
    zeroing := [{ core := 0, store := .regs, pos := [3], team := none }] }
theorem wit_TeamsDrawnPlacedAndRetired_ends : (let s := withTeams lab fun t => { t with status := .placed }
      (s.launchOf 0).status = .running ∧ (s.launchOf 0).block.gbar = 0 ∧ (s.team 0).canStart = true) ∧
    (leaving.zeroing[0]?.any fun z => z.pos == [3] && leaving.zeroMay z &&
      leaving.zeroing.all fun y => decide (z.store.rank ≤ y.store.rank)) = true ∧
    leaving.teamDone 0 = true := by decide +kernel
/-- A team whose threads wait, with a request to leave its core and a save area; and one that has left. -/
def requested (w : Option Wait) (status : TeamStatus) : State :=
  { withTeams lab fun t => { t with
      preemptReq := true, status := status, threads := t.threads.map fun u => { u with wait := w } } with
    launches := lab.launches.map fun l => { l with savestride := 0x1000000, saveptr := 0x800000 }
    curator := { lab.curator with running := some 0, restarting := false }, ready := BitVec.allOnes 64 }
theorem wit_PreemptionAndReturn : ((requested none .resident).team 0).onCore = true ∧
    (requested none .resident).harvest 0 = false ∧ ((requested none .resident).launchOf 0).saves = true ∧
    (requested none .resident).curator.running.isSome = true ∧ (requested none .resident).curator.restarting = false ∧
    (requested (some (.slotReady 5 (false, .empty))) .resident).mayPreempt 0 = true ∧ (requested none .resident).mayPreempt 0 = false ∧
    (requested none .resident).homesOpen = true ∧ (requested none .runnable).homesOpen = true ∧
    (∃ r ∈ (requested (some .qput) .preempted).allRefs 0, ((requested (some .qput) .preempted).thr r).exited = false ∧
      ((requested (some .qput) .preempted).thr r).wait = some .qput ∧ (requested (some .qput) .preempted).wakes r .qput = true) ∧
    ({ requested none .runnable with ready := 0 } : State).returnSeats 0 = none ∧
    ((requested none .runnable).returnSeats 0).any (fun x => x.2.isEmpty) = true ∧
    ∀ l ∈ (requested none .runnable).launches, l.openGrid = false := by
  refine ⟨by decide +kernel, by decide +kernel, by decide +kernel, by decide +kernel, by decide +kernel, by decide +kernel,
    by decide +kernel, by decide +kernel, by decide +kernel, ⟨⟨0, 0⟩, by decide +kernel⟩, by decide +kernel, by decide +kernel,
    by decide +kernel⟩

/-! ### The memory path -/

/-- One access of lane 0 with one piece of eight bytes at 0x10100, in a given stage. -/
def accessing (op : AccOp) (pa : Nat) (stage : PieceStage) : State :=
  { lab with ready := BitVec.allOnes 64, flights := [{ (default : Flight) with
      op := op, returned := false, performed := false, bytes := [1, 2, 3, 4, 5, 6, 7, 8]
      pieces := [{ (default : Piece) with pa := pa, addr := pa, off := 0, len := 8, stage := stage, lost := false }] }] }
/-- Its piece is at its home. -/
def homeB (s : State) : Bool :=
  s.flights[0]?.any fun f => f.pieces[0]?.any fun p => s.served 0 0 && !s.pieceLost f p
def addOp : AccOp := .atom 0 true 3 tagI32 0 0 false
theorem wit_StoreChangesItsBytesAlone : homeB (accessing .store 0x10100 .slice) = true ∧
    ((accessing .store 0x10100 .slice).flights[0]?.any fun f => f.op == .store && f.job == .thread &&
      f.pieces.all fun p => p.len == 8 && spaceOf p.pa == .hbm) = true ∧
    spaceOf ((accessing .store 0x10100 .slice).loopPa 0x10100) = .hbm ∧ Memory.wf (accessing .store 0x10100 .slice).mem = true := by
  decide +kernel
/-- Its line is held whole. -/
def holding (s : State) : State :=
  { s with l2 := [{ (default : L2Line) with line := 0x10100, valid := BitVec.allOnes 128 }] }
theorem wit_LoadsAndAtomicsAtTheirHome : homeB (accessing .load 0x10100 .slice) = true ∧
    ((accessing .load 0x10100 .slice).flights[0]?.any fun f => f.op == .load && !f.harvest && f.job == .thread && f.pieces.all fun p =>
      spaceOf p.pa == .hbm && !p.fetched && !(accessing .load 0x10100 .slice).l2Has p) = true ∧
    ((accessing .load 0x800000000000 .slice).flights[0]?.any fun f => f.pieces.all fun p => spaceOf p.pa == .host) = true ∧
    homeB (accessing .load 0x800000000000 .slice) = true ∧
    homeB (holding (accessing addOp 0x10100 .slice)) = true ∧
    ((holding (accessing addOp 0x10100 .slice)).flights[0]?.any fun f => f.op == addOp && f.pieces.all fun p =>
      spaceOf p.pa == .hbm && (holding (accessing addOp 0x10100 .slice)).l2Has p) = true ∧
    (accessing addOp 0x10100 .slice).poison = [] ∧ (accessing addOp 0x10100 .slice).reaches 0x10100 = true ∧
    (accessing addOp 0x10100 .slice).loopPa 0x10100 = 0x10100 := by decide +kernel
/-- A harvest request of a pseudo-channel, for that load. -/
def asking : State :=
  { accessing .load 0x10100 .hbm with
    hbmq := [{ channel := 0, line := 0x10100, harvest := true, load := .piece 0 0, aged := false, bytes := 32, since := 0 }]
    dies := lab.dies.map fun d => { d with mem8 := 40000 } }
theorem wit_HbmRequests : lab.hbmNext 0 = none ∧ (asking.hbmNext 0).isSome = true ∧
    (asking.hbmq[0]?.any fun q => q.channel == 0 && q.harvest && !q.aged &&
      decide (q.since + 8 * 4096 ≤ (asking.die 0).mem8)) = true ∧ (∀ p ∈ (asking.die 0).aged, p.1 ≠ 64) ∧
    asking.dies.length = 2 := by decide +kernel
theorem wit_ResponsesAreTaken : ((accessing .load 0x10100 .done).flights[0]?.any fun f => f.op == .load && f.job == .thread && !f.returned &&
      f.pieces.all fun p => p.stage == .done) = true ∧
    ((accessing addOp 0x10100 .done).flights[0]?.any fun f => f.op == addOp && !f.returned &&
      f.pieces.all fun p => p.stage == .done) = true := by decide +kernel
/-- An egress port with one packet, of the load's one piece. -/
def busyPort (route : List Nat) (harvest : Bool) (age : Nat) : Port :=
  { id := 5, fifo := [{ load := .piece 0 0, resp := false, harvest := harvest, prio := 0, input := 1, age := age, route := route }],
    last := 0, lastSat := 0, sinceSat := 4095 }
def carrying (x : Port) : State := { accessing .load 0x10100 .net with ports := [x], sel := 5 }
theorem wit_PacketsHopAndAge : ∀ x ∈ [busyPort [] false 3, busyPort [9] false 3, busyPort [] true 4095],
    (carrying x).ports.find? (fun y => y.id == 5) = some x ∧ x.winner [] = some (0, false) ∧
    ((carrying x).flights[0]?.any fun f => decide (f.pieces.length = 1)) = true ∧ x.heads = [0] ∧
    ({ x with fifo := [] } : Port).winner [] = none := by decide +kernel
/-- The mapped machine with its memory ready, and its lanes with another wait. -/
def walking (w : Option Wait) : State :=
  { withTeams mapped fun t => { t with threads := t.threads.map fun u => { u with wait := w } } with
    ready := BitVec.allOnes 64 }
/-- The same with the fill of its instruction line under way. -/
def filled (stage : PieceStage) : State :=
  { walking none with flights := [{ (default : Flight) with
      op := .load, job := .fetch, core := 0, returned := false
      pieces := [{ (default : Piece) with pa := 0x10000, addr := 0x10000, len := 128, stage := stage, bytes := [1], bad := [false] }] }] }
theorem wit_WalksAndFills :
    (walking (some (.walk 0x10000 true false false))).wantsWalk ⟨0, 0⟩ = some (0x10000, { rd := true }) ∧
    (walking (some (.walk 0x10000 true false false))).has ⟨0, 0⟩ ∧ (walking none).wantsWalk ⟨0, 0⟩ = none ∧
    (walking none).fetch ⟨0, 0⟩ = .wait (.fetch 0x10000 false) ∧ (walking none).flights = [] ∧
    (walking (some (.walk 0x10000 true false false))).homesOpen = true ∧
    ((filled .done).flights[0]?.any fun f => f.job == .fetch && !f.returned && f.pieces.all fun p =>
      p.stage == .done && p.bad.length == p.bytes.length) = true ∧ (filled .net).fetch ⟨0, 0⟩ = .wait (.fetch 0x10000 false) :=
  ⟨by decide +kernel, ⟨by decide +kernel, by decide +kernel⟩, by decide +kernel⟩

/-! ### The copy engine -/

/-- One command of slot 3 in a given stage, with a descriptor of one 16-byte row, of which some rows are moved. -/
def moving (kind : CmdKind) (stage : CmdStage) (rows : Nat) : State :=
  { filling with
    cmds := [{ (default : Cmd) with
      kind := kind, stage := stage, own := ⟨0, 0⟩, half := 0, core := 0, slot := 3, desc := (filling.thr ⟨0, 0⟩).desc 16
      row := rows, pa := 0x10000, drain := some { (default : Drain) with add := true } }]
    slotReads := [{ team := 0, half := 0, slot := 5, live := true }] }
/-- The command that a step is about. -/
def cmdB (s : State) (p : Cmd → Bool) : Bool := s.cmds[0]?.any p
theorem wit_CopyEngineSteps : (moving .cpt .queued 0).firstQueued 0 = some 0 ∧
    cmdB (moving .cpt .queued 0) (fun c => c.core == 0 && c.kind != .cpb) = true ∧
    (moving .cpt .started 0).firstQueued 0 ≠ some 0 ∧
    cmdB (moving .cpb .slice 0) (fun c => c.kind == .cpb && c.stage == .slice && (moving .cpb .slice 0).bulkReady c &&
      ((moving .cpb .slice 0).slicesOf c).all fun n => ((moving .cpb .slice 0).cmds.getD n default).bulkKey == c.bulkKey) = true ∧
    cmdB (moving .cpb .started 0) (fun c => !(moving .cpb .started 0).bulkReady c) = true ∧
    cmdB (moving .cpt .started 0) (fun c => c.kind.isCopy && descDscr c.desc && !c.finished &&
      decide (c.own.team < (moving .cpt .started 0).teams.length) &&
      decide (c.half < ((moving .cpt .started 0).team c.own.team).halves.length) &&
      Memory.wf ((moving .cpt .started 0).half c.own.team c.half).scratch) = true ∧
    ((moving .cpt .started 0).slotReads[0]?.any (·.live)) = true ∧
    cmdB (moving .cpt .started 99999) (fun c => c.finished && c.fault.isNone && !c.hasCtr) = true := by decide +kernel
theorem wit_CopyEngineSteps_ends :
    (let s := mapped
     match s.walkNow 0 0 1 false 0x10100 { rd := true, wr := true } 6 with
     | (x, .ok l pa) => (x.counterAt (imageAddr l.plinth pa)).isSome
     | _ => false) = true ∧
    cmdB (moving .drain .started 0) (fun c => (c.drain.getD default).add &&
      !c.blockLines.any (moving .drain .started 0).lineReserved) = true ∧
    (let s := { moving .drain .started 0 with reservedLines := [(0x10000, 7)] }
     cmdB s fun c => (c.drain.getD default).add && c.blockLines.any s.lineReserved) = true ∧
    cmdB (moving .drain .reserved 0) (fun c => c.kind == .drain && c.stage == .reserved) = true := by decide +kernel

/-! ### System words, the outside, power, reliability -/

/-- Lanes in custodian mode with a wait, and one invalidation. -/
def invalidating (w : Option Wait) (done : Bool) : State :=
  { withTeams custodian fun t => { t with threads := t.threads.map fun u => { u with wait := w } } with
    tlbinvs := [{ (default : TlbInv) with done := done, after := [0] }]
    flights := [{ (default : Flight) with performed := done }] }
theorem wit_InvalidationsAndClaims :
    (invalidating (some (.tlbinv 0)) true).issues (.tlbinv 0 1 0 10 12) (fun u => ∃ k, u.wait = some (.tlbinv k) ∧
      ((invalidating (some (.tlbinv 0)) true).tlbinvs.getD k default).done = true) ∧
    custodian.oneFragment ∧ custodian.active (.tlbinv 0 1 0 10 12) = [⟨0, 0⟩, ⟨0, 1⟩] ∧
    custodian.issues (.tlbinv 0 1 0 10 12) (fun u => u.wait = none ∧ Clean (.tlbinv 0 1 0 10 12) u ∧
      canonical (u.pairVal 10) = true) ∧
    (∀ q ∈ custodian.cur, (custodian.thr q).wait = none ∧ (custodian.group q.team (custodian.thr q).group).open_ = false ∧
      custodian.writesPerformed q = true) ∧
    (invalidating none true).invDone ((invalidating none true).tlbinvs.getD 0 default) = true ∧
    (invalidating none false).invDone ((invalidating none false).tlbinvs.getD 0 default) = false := by
  refine ⟨issues_of (p := fun u => u.wait == some (.tlbinv 0)) (by decide +kernel) fun u h => ⟨0, by simpa using h, rfl⟩,
    frag_of (by decide +kernel), by decide +kernel, ?_, by decide +kernel⟩
  refine issues_of (p := fun u => u.wait.isNone && cleanB (.tlbinv 0 1 0 10 12) u && canonical (u.pairVal 10))
    (by decide +kernel) fun u h => ?_
  simp only [Bool.and_eq_true, Option.isNone_iff_eq_none] at h
  exact ⟨h.1.1, clean_of h.1.2, h.2⟩
/-- Accumulator storage held for another context, which lane 0 claims. -/
def claiming : State :=
  { withTeams (lab 2) fun t => { t with
      halves := t.halves.map (fun h => { h with shares := true })
      threads := t.threads.map fun u => { u with wait := some .claim } } with
    cores := lab.cores.modify 0 fun c => { c with owner := 9, held := true } }
theorem wit_InvalidationsAndClaims_claim : (claiming.thr ⟨0, 0⟩).wait = some .claim ∧ claiming.accOwned ⟨0, 0⟩ = true ∧
    claiming.coreOf ⟨0, 0⟩ < claiming.cores.length ∧ (claiming.half 0 0).core = 0 := by decide +kernel
/-- A halted team that the debug window of die 0 selects: lane 0's space `sp`, index 5. -/
def debugged (sp : Nat) : State :=
  { withTeams lab fun t => { t with dbgctl := 3 } with
    dies := lab.dies.map fun d => { d with dbgsel := BitVec.ofNat 64 (1 + 2 ^ 27 * sp + 2 ^ 32 * (if sp = 0 then 5 else 0)) } }
theorem wit_OutsideAccesses :
    (((fronted (packet 5 [])).queue 0).en && decide ((1#32 - ((fronted (packet 5 [])).queue 0).head).toNat ≤ 2 ^ 4)) = true ∧
    (lab.queue 0).en = false ∧ (0x2000 % 8 = 0 ∧ dbgDataAt 0x2000 = none) ∧
    (let s := { lab with ready := BitVec.allOnes 64 }
     s.lineHeld 0x10100 0x10100 = false ∧ s.lineHeld 0x10107 0x10107 = false ∧ s.reaches 0x10100 = true ∧
       (∀ a, 0x10100 ≤ a → a < 0x10108 → a ∉ s.poison) ∧ Memory.wf s.mem = true) ∧
    lab.dbgItem 0 = none ∧ (debugged 0).dbgItem 0 = some (⟨0, 0⟩, { val := 5, tag := tagI32 }) ∧
    ((debugged 0).die 0).dbgSpace = 0 ∧ ((debugged 2).die 0).dbgSpace = 2 ∧ ((debugged 4).die 0).dbgSpace = 4 ∧
    ((debugged 2).dbgItem 0).isSome = true ∧ ((debugged 4).dbgItem 0).isSome = true :=
  ⟨by decide +kernel, by decide +kernel, by decide +kernel,
    ⟨by decide +kernel, by decide +kernel, by decide +kernel, fun _ _ _ => List.not_mem_nil, by decide +kernel⟩, by decide +kernel⟩
theorem wit_OutsideAccesses_queue :
    (let s := { lab with queues := lab.queues.modify 0 fun q => { q with destroying := true } }
     (s.queue 0).destroying = true ∧ (∀ l ∈ ({ s with launches := [] } : State).launches, l.status = .retired) ∧
       0 < s.queues.length ∧ ∃ l ∈ s.launches, l.queue = 0 ∧ l.status ≠ .retired) ∧
    (lab.launches[0]?.any fun l => l.status != .ending && l.status != .retired) = true := by
  refine ⟨⟨by decide +kernel, by decide +kernel, by decide +kernel, ?_⟩, by decide +kernel⟩
  exact ⟨oneLaunch 0 false, List.mem_singleton.mpr rfl, rfl, by decide +kernel⟩
/-- BELFRYCFG of share 100/256 and cap 2000 W; a machine over its cap, with a grant to come into effect. -/
def powered : State :=
  { lab with pnow := 2500, dies := lab.dies.map fun d => { d with newGrant := some 0x10101010 } }
theorem wit_PowerControl : (let v := BitVec.ofNat 32 (100 + 2 ^ 8 * 2000)
     v.extractLsb' 20 12 = 0 ∧ 32 ≤ (v.extractLsb' 0 8).toNat ∧ (v.extractLsb' 8 12).toNat = 2000 ∧
       v.extractLsb' 0 8 ≠ lab.share0) ∧
    (({ lab with dies := lab.dies.map fun d => { d with hot := true } } : State).die 0).hot = true ∧
    lab.capw.toNat < powered.pnow.toNat ∧ lab.pnow.toNat ≤ lab.capw.toNat ∧
    (powered.die 0).newGrant = some 0x10101010 ∧ (lab.die 0).newGrant = none ∧ (lab.team 0).onCore = true ∧
    (lab.team 0).die = 0 := by decide +kernel
/-- Nothing is permitted below zero, and a first grant stays one where it is permitted. -/
theorem wit_PowerControl_grants (d : Die) (q : List Nat) (c : BitVec 4) : bestGrant d (-1) q c = none ∧
    ∃ g, bestGrant d (256 * (d.power [16, 16, 16, 16] : Int)) q c = some g := by
  constructor
  · have h : ∀ l : List (List Nat), l.foldl (fun best g =>
        if (-1 : Int) < 256 * (d.power g : Int) then best
        else match best with
          | none => some g
          | some b =>
            let x := grantCost q c g
            let y := grantCost q c b
            if x < y ∨ (x = y ∧ ratioSum b < ratioSum g) then some g else best) none = none := by
      intro l
      induction l with
      | nil => rfl
      | cons g l ih => rw [List.foldl_cons, if_pos (by omega)]; exact ih
    exact h _
  · have hs : ∀ (f : Option (List Nat) → List Nat → Option (List Nat)), (∀ o g, o.isSome → (f o g).isSome) →
        ∀ (l : List (List Nat)) o, o.isSome → (l.foldl f o).isSome := by
      intro f hf l
      induction l with
      | nil => exact fun _ h => h
      | cons g l ih => exact fun o h => ih _ (hf o g h)
    have hm : [16, 16, 16, 16] ∈ allGrants := by
      simp only [allGrants, List.mem_flatMap, List.mem_map]
      exact ⟨16, by decide, 16, by decide, 16, by decide, 16, by decide, rfl⟩
    obtain ⟨l1, l2, hl⟩ := List.append_of_mem hm
    rw [← Option.isSome_iff_exists, bestGrant, hl, List.foldl_append, List.foldl_cons, if_neg (by omega)]
    apply hs
    · intro o g h
      dsimp only
      split
      · exact h
      · split
        · rfl
        · split <;> rfl
    · generalize l1.foldl _ _ = o
      cases o with
      | none => rfl
      | some b => dsimp only; split <;> rfl
/-- A team on each die of one class: neither budget is low. -/
def twoDies : State :=
  { lab with
    launches := [oneLaunch 0 false, oneLaunch 0 false]
    teams := [oneTeam 0 false numbered, { oneTeam 0 false numbered with
      launch := 1, halves := (oneTeam 0 false numbered).halves.map (fun h => { h with core := 128 }) }] }
theorem wit_PowerControl_budget : twoDies.lowBudget 0 = false ∧ twoDies.lowBudget 1 = false ∧
    twoDies.governClass 0 = twoDies.governClass 1 := by decide +kernel
theorem wit_SpirePower : lab.sel < lab.dies.length ∧ lab.sel2 < 8 ∧
    (0, 0, false) ∈ ({ lab with spireChange := [(0, 0, false), (0, 8, false)] } : State).spireChange ∧
    (0, 0, true) ∈ ({ lab with spireChange := [(0, 0, true), (0, 8, false)] } : State).spireChange ∧
    (∀ x ∈ ({ lab with spireChange := [(0, 8, false)] } : State).spireChange, x.1 = lab.sel → x.2.1 = 8) := by decide +kernel
/-- A reduction of two members, 256 bytes of BF16, with a page mapped, its links live, and the other's contribution. -/
def reducing (abort : Bool) (others : List Contribution) : State :=
  { mapped with
    ready := BitVec.allOnes 64, fabcfg := 0xFFFF0010, gtime := 3000000, contributions := others
    redq := [{ die := 0, src := 0x10100, dst := 0x10200, ctr := 0, len := 256, fmt := 2, group := 1, members := 3, seq := 0,
               timeout := 0, asid := 0, root := 1, launch := none, time := 0, abort := abort, live := true }] }
def other : Contribution :=
  { group := 1, seq := 0, member := 1, abort := false, len := 256, fmt := 2, members := 3, data := List.replicate 256 0, time := 0 }
/-- The reduction that a step is about is at the head of its group, with its own vector. -/
def redB (s : State) (p : RedDesc → Bool) : Bool :=
  s.redq[0]?.any fun x => x.live && s.redFirst 0 && p x
theorem wit_ReductionEvents :
    redB (reducing true []) (·.abort) = true ∧
    redB { reducing false [] with fabcfg := 0 } (fun x => decide (0 < x.len) &&
      !({ reducing false [] with fabcfg := 0 } : State).linkLive 0) = true ∧
    redB (reducing false [{ other with len := 512 }]) (fun x => ((reducing false []).redOwn x).2.isSome) = true ∧
    redB (reducing false []) (fun x => x.members.getLsbD 1) = true ∧ (reducing false []).fid ≠ 1 ∧
    redB (reducing false [other]) (fun x => (redFmt x.fmt).isSome && ((reducing false [other]).redOwn x).2.isSome) = true ∧
    redB (reducing false []) (fun x => decide ((reducing false []).redSince x + 1000 * 2000 ≤ 3000000)) = true ∧
    redB { reducing false [] with gtime := 10 } (fun x => x.timeout == 0) = true := by decide +kernel
/-- A reduction descriptor at the start of the mapped page. -/
def doorbellBytes : List Byte :=
  leBytes 8 0x10100 ++ leBytes 8 0x10200 ++ leBytes 8 0x10300 ++ leBytes 4 256 ++ [2, 1, 3, 0] ++ leBytes 4 0 ++ leBytes 4 0 ++
    List.replicate 24 0
theorem wit_ReductionEvents_doorbell :
    (let s := { mapped with mem := writeBytes [] 0x10000 doorbellBytes, ready := BitVec.allOnes 64 }
     match s.agentLoad 0 { asid := (s.team 0).xasid.setWidth 16, root := (s.team 0).xroot } 0x10000 64 with
     | (_, .ok bs) => bs.map (·.1) == doorbellBytes && bs.all fun b => !b.2
     | _ => false) = true := by decide +kernel
/-- A dirty line of slice 3 of die 0; latent errors; an image running. -/
def failing : State :=
  { lab with
    l2 := [{ (default : L2Line) with die := 0, slice := 3, line := 0x10100, valid := BitVec.allOnes 128
                                     dirty := some (List.replicate 128 7) }]
    latent := [(0x10100, false)], curator := { lab.curator with running := some 0 }, fabcfg := 0x00010000 }
theorem wit_FailuresAndReliability : (failing.die 0).bypass.getLsbD 3 = false ∧ (failing.die 0).live.getLsbD 3 = true ∧
    (({ failing with dies := lab.dies.map fun d => { d with bypass := 8 } } : State).die 0).bypass.getLsbD 3 = true ∧
    failing.launchResident 0 = true ∧ (failing.l2.filter fun y => y.die == 0 && y.slice == 3) = failing.l2 ∧
    (failing.team 0).inGallery 0 = true ∧ failing.fabcfg.getLsbD 16 = true ∧ failing.fabcfg.getLsbD 17 = false ∧
    (failing.latent.filter fun x => channelOf x.1 == channelOf 0x10100) = [(0x10100, false)] ∧
    lab.ready.getLsbD 3 = false ∧ lab.failed.getLsbD 3 = false ∧ failing.curator.running.isSome = true ∧
    lab.curator.running = none ∧ lab.curator.restarting = false ∧ Memory.wf lab.mem = true ∧
    lab.archive.Pairwise (fun x y => x.1 < y.1) ∧ archiveGet lab.archive 0x508 < 2 ^ 64 - 1 := by decide +kernel

/-! ### Steps and decoding -/

/-- A machine about to issue a word. -/
def about (w : Nat) : State := State.reset.withFetchWord 32 w
theorem wit_StepRunsDecoded :
    ((about 0x040A30E5).issue.any fun u => u.todo.any fun b =>
      let s := about 0x040A30E5
      !(s.bySlot (s.stillReady b)).isEmpty && (s.bySlot (s.stillReady b)).all fun q => s.fetch q == .word 0x040A30E5) = true ∧
    decode 0x040A30E5 = .ok (.idiv 0 5 6 7) ∧ State.reset.issue = none ∧
    State.reset.agenda = [] ∧
    ({ State.reset with agenda := [.event .timeSliceRequest 0 0] } : State).agenda = [.event .timeSliceRequest 0 0] :=
  ⟨by decide +kernel, rfl, by decide +kernel⟩
theorem wit_DecodeEncode : (Instr.idiv 0 5 6 7).wellFormed = true ∧ encode (.idiv 0 5 6 7) ≠ 0 ∧
    decode 0x040A30E5 = .ok (.idiv 0 5 6 7) := ⟨by decide +kernel, by decide +kernel, rfl⟩
theorem wit_MemoryStaysCanonical : Memory.wf (about 0x040A30E5).mem = true ∧
    (match step (about 0x040A30E5) with
     | .next t => Memory.wf t.mem
     | _ => false) = true := by decide +kernel

/-! ## One step of an instruction, with the manual's results -/

def after (s : State) (i : Instr) : State := nextOf (exec i s)
/-- Lane 0's registers 6 and 7 with a tag, every other register 0. -/
def two (a b : BitVec 64) (tag : Tag := tagI32) (_ n : Nat) : Reg :=
  if n = 6 then { val := a, tag := tag } else if n = 7 then { val := b, tag := tag } else { val := 0, tag := tagI32 }
/-- Register `d` of lane 0 after an instruction over those registers. -/
def result (i : Instr) (a b : BitVec 64) (tag : Tag := tagI32) (d : Nat := 5) : Reg :=
  ((after (lab 0 false (two a b tag)) i).thr ⟨0, 0⟩).reg d
def I32 (v : BitVec 64) : Reg := { val := v, tag := tagI32 }
/-- The table under R247. -/
theorem test_idiv : result (.idiv 0 5 6 7) 0xFFFFFFF9 2 = I32 0xFFFFFFFD ∧ result (.irem 0 5 6 7) 0xFFFFFFF9 2 = I32 0xFFFFFFFF ∧
    result (.idiv 0 5 6 7) 7 0xFFFFFFFE = I32 0xFFFFFFFD ∧ result (.irem 0 5 6 7) 7 0xFFFFFFFE = I32 1 := by decide +kernel
theorem test_idiv_corners : result (.idiv 0 5 6 7) 5 0 = I32 0xFFFFFFFF ∧ result (.irem 0 5 6 7) 5 0 = I32 5 ∧
    result (.idivu 0 5 6 7) 5 0 = I32 0xFFFFFFFF ∧ result (.iremu 0 5 6 7) 5 0 = I32 5 ∧
    result (.idiv 0 5 6 7) 0x80000000 0xFFFFFFFF = I32 0x80000000 ∧ result (.irem 0 5 6 7) 0x80000000 0xFFFFFFFF = I32 0 := by
  decide +kernel
theorem test_integer : result (.iadd 0 5 6 7) 0x7FFFFFF0 0x20 = I32 0x80000010 ∧
    result (.iadds 0 5 6 7) 0x7FFFFFF0 0x20 = I32 0x7FFFFFFF ∧ result (.imulh 0 5 6 7) 0xFFFFFFFF 0xFFFFFFFF = I32 0 ∧
    result (.imulhu 0 5 6 7) 0xFFFFFFFF 0xFFFFFFFF = I32 0xFFFFFFFE ∧ result (.iabs 0 5 6) 0x80000000 0 = I32 0x80000000 := by
  decide +kernel
/-- The frame address under R252: registers 10, 11 hold STKBASE and 61 the stack offset. -/
def frameRegs (_ n : Nat) : Reg := I32 (if n = 11 then 0x40 else if n = 61 then 0x61800 else 0)
theorem test_frame_address :
    (let t := (after (lab 0 false frameRegs) (.aaddu 0 10 10 61)).thr ⟨0, 0⟩
     t.pairVal 10 = 0x4000061800) ∧
    (let s := withTeams (lab 0 false frameRegs) fun t => { t with threads := t.threads.map fun u =>
        { u with regs := u.regs.set 10 (I32 0x61800) } }
     ((after s (.aaddi 0 10 10 0x7F0)).thr ⟨0, 0⟩).pairVal 10 = 0x40000617F0) := by decide +kernel
/-- The example under R302, over two threads. -/
def tens (r n : Nat) : Reg := I32 (if n = 6 then BitVec.ofNat 64 (10 * r) else if n = 7 then 1 else 0)
theorem test_shfl_xor : ((after (lab 0 false tens) (.shflXor 0 5 6 7)).thr ⟨0, 0⟩).reg 5 = I32 10 ∧
    ((after (lab 0 false tens) (.shflXor 0 5 6 7)).thr ⟨0, 1⟩).reg 5 = I32 0 := by decide +kernel
/-- The example under R100, and R276's FSQRT of −0 and the division by zero. -/
theorem test_float_specials : result (.fadd 0 5 6 7) 0xFF800001 0x3F800000 tagF32 = { val := 0x7FC00000, tag := tagF32 } ∧
    result (.fneg 0 5 6) 0xFF800001 0 tagF32 = { val := 0x7F800001, tag := tagF32 } ∧
    result (.fsqrt 0 5 6) 0x80000000 0 tagF32 = { val := 0x80000000, tag := tagF32 } ∧
    ((after (lab 0 false (two 0xBF800000 0 tagF32)) (.fdiv 0 5 6 7)).thr ⟨0, 0⟩).fpstat = 16 ∧
    result (.fdiv 0 5 6 7) 0xBF800000 0 tagF32 = { val := 0xFF800000, tag := tagF32 } := by decide +kernel
/-- The conversions worked out under R107, and the listing under R289. -/
theorem test_cvt_bf16 : result (.cvt 0 5 6 7 3) 0x3F808000 0x40490FDB tagF32 = { val := 0x40493F80, tag := tagBF16 } ∧
    result (.cvt 0 5 6 7 3) 0x3F818000 0x3F808001 tagF32 = { val := 0x3F813F82, tag := tagBF16 } ∧
    result (.cvt 0 5 6 7 3) 0x7F7FFFFF 0 tagF32 = { val := 0x00007F80, tag := tagBF16 } := by decide +kernel
theorem test_cvt_e4m3 : result (.cvt 0 5 6 7 5) 0x5F304B30 0x7C008000 tagF16 = { val := 0x7F807E56, tag := tagE4M3 } ∧
    ((after (lab 0 false (two 0x5F304B30 0x7C008000 tagF16)) (.cvt 0 5 6 7 5)).thr ⟨0, 0⟩).fpstat = 8 := by decide +kernel
/-- The table of R286: −2.5, −0.3, 3.0e9 and NaN, signed and unsigned. -/
theorem test_cvti : result (.cvti 0 5 6 0 0 1) 0xC0200000 0 tagF32 = I32 0xFFFFFFFE ∧
    result (.cvti 0 5 6 0 1 1) 0xC0200000 0 tagF32 = I32 0 ∧ result (.cvti 0 5 6 0 0 1) 0xBE99999A 0 tagF32 = I32 0 ∧
    result (.cvti 0 5 6 0 0 1) 0x4F32D05E 0 tagF32 = I32 0x7FFFFFFF ∧ result (.cvti 0 5 6 0 1 1) 0x4F32D05E 0 tagF32 = I32 0xB2D05E00 ∧
    result (.cvti 0 5 6 0 0 1) 0x7FC00000 0 tagF32 = I32 0 := by decide +kernel
theorem test_cvti_flags : ((after (lab 0 false (two 0xC0200000 0 tagF32)) (.cvti 0 5 6 0 0 1)).thr ⟨0, 0⟩).fpstat = 8 ∧
    ((after (lab 0 false (two 0xC0200000 0 tagF32)) (.cvti 0 5 6 0 1 1)).thr ⟨0, 0⟩).fpstat = 1 := by decide +kernel
/-- The dot product of the listing under R289: 0 + 1.0 × 1.0 + (201/64)². -/
theorem test_fdot2 : (let reg (_ n : Nat) : Reg := if n = 3 then { val := 0x40493F80, tag := tagBF16 } else { val := 0, tag := tagF32 }
    ((after (lab 0 false reg) (.fdot2 0 4 3 3)).thr ⟨0, 0⟩).reg 4 = { val := 0x412DD100, tag := tagF32 }) := by decide +kernel
/-- R394: 1 − 2^−23, and the hints of the encoding example under R236 and of R285's example. -/
theorem test_ffnma : (let reg (_ n : Nat) : Reg :=
      { val := if n = 5 then 0x3F800000 else if n = 6 then 0x34000000 else 0x3F800000, tag := tagF32 }
    let t := (after (lab 0 false reg) (.ffnma 0 5 6 7)).thr ⟨0, 0⟩
    t.reg 5 = { val := 0x3F7FFFFE, tag := tagF32 } ∧ t.fpstat = 0) := by decide +kernel
/-- Lane 0's result with a hint before the instruction. -/
def hinted (h : Hint) (i : Instr) (a b : BitVec 64) (tag : Tag) (d : Nat) : Reg :=
  let s := withTeams (lab 0 false (two a b tag)) fun t => { t with threads := t.threads.map fun u => { u with hint := some h } }
  ((after s i).thr ⟨0, 0⟩).reg d
theorem test_hints : hinted (.wide 0x1FFFFE) (.iaddi 0 3 4 0x448) 0 0 tagI32 3 = I32 0xFFFFF448 ∧
    hinted (.mods 8) (.cvt 0 5 6 7 5) 0x5F304B30 0x7C008000 tagF16 5 = { val := 0x7E807E56, tag := tagE4M3 } := by decide +kernel
/-- Four words of a slot's bytes from a byte address, as F32 elements. -/
def words (xs : List Nat) : List Byte := xs.flatMap (leBytes 4)
/-- The example under R341: slots 8 to 11 hold w, m, v and g; pair 24 and the registers above hold the parameters. -/
def adam : State :=
  let reg (_ n : Nat) : Reg :=
    { val := BitVec.ofNat 64 ([0x3F000000, 0x3F000000, 0x3F400000, 0, 0, 0x40000000, 0x40800000, 3].getD (n - 24) 0)
      tag := if n = 31 then tagI32 else tagF32 }
  withTeams (lab 0 false reg) fun t => { t with halves := t.halves.map fun h => { h with
    slots := List.replicate 8 (default : Slot) ++ (List.range 4).map fun k => { (default : Slot) with
      base := BitVec.ofNat 13 k, size := 1, fmt := tagF32, state := .ready }
    scratch := writeBytes (writeBytes (writeBytes (writeBytes [] 0 (words [0x3F800000, 0x3F800000, 0x3F800000])) 512
      (words [0, 0xC0800000, 0x7FC00000])) 768 (words [0x40000000, 0, 0x3F800000])) 256 (words [0, 0, 0]) } }
theorem test_oadam : (let t := after adam (.oadam 0 8 11 24)
    (List.range 9).map (fun k => readLe (t.half 0 0).scratch (4 * (k % 3) + 256 * (k / 3)) 4) =
        [0x3F000000, 0x3F800000, 0x3F800000, 0x3F800000, 0, 0, 0x3F800000, 0xC0400000, 0x7FC00000] ∧
      (t.team 0).estat = 0x60) := by decide +kernel

end Sys2Proof.Tests
end

section
/-! PROOFS. The words of R222 and the decoder: each format's fields are read back from its word, every word of a major is
a word of that major's format, and so decoding and encoding invert each other (R5, R222, R232 to R234). -/

namespace Sys2Proof

open BitVec

/-! ## Parts of concatenated bit strings -/

theorem exists_append {m n : Nat} (x : BitVec (m + n)) : ∃ (a : BitVec m) (b : BitVec n), x = a ++ b :=
  ⟨x.extractLsb' n m, x.extractLsb' 0 n, by
    rw [extractLsb'_append_extractLsb'_eq_extractLsb' (by simp), extractLsb'_eq_self]⟩

/-- A field above the last part of a concatenation is a field of what stands before that part. -/
theorem extractLsb'_append_high {v w s n : Nat} {x : BitVec v} {y : BitVec w} {z : BitVec n}
    (hx : x.extractLsb' (s - w) n = z) (h : w ≤ s := by decide) : (x ++ y).extractLsb' s n = z :=
  (extractLsb'_append_eq_of_le h).trans hx

/-! The selectors that share the minor, or the D field, of a word (R222, R234): the lemma's name gives their widths. -/

@[simp] theorem extractLsb'_append_1_4 (x : BitVec 1) (y : BitVec 4) :
    (x ++ y : BitVec 5).extractLsb' 4 1 = x ∧ (x ++ y : BitVec 5).extractLsb' 0 4 = y :=
  ⟨extractLsb'_append_eq_left, extractLsb'_append_eq_right⟩
@[simp] theorem extractLsb'_append_2_3 (x : BitVec 2) (y : BitVec 3) :
    (x ++ y : BitVec 5).extractLsb' 3 2 = x ∧ (x ++ y : BitVec 5).extractLsb' 0 3 = y :=
  ⟨extractLsb'_append_eq_left, extractLsb'_append_eq_right⟩
@[simp] theorem extractLsb'_append_3_2 (x : BitVec 3) (y : BitVec 2) :
    (x ++ y : BitVec 5).extractLsb' 2 3 = x ∧ (x ++ y : BitVec 5).extractLsb' 0 2 = y :=
  ⟨extractLsb'_append_eq_left, extractLsb'_append_eq_right⟩
@[simp] theorem extractLsb'_append_1_2_2 (x : BitVec 1) (y z : BitVec 2) :
    (x ++ y ++ z : BitVec 5).extractLsb' 4 1 = x ∧ (x ++ y ++ z : BitVec 5).extractLsb' 2 2 = y ∧
    (x ++ y ++ z : BitVec 5).extractLsb' 0 2 = z := by
  revert x y z; decide
@[simp] theorem extractLsb'_append_1_1_1_2 (x y z : BitVec 1) (u : BitVec 2) :
    (x ++ y ++ z ++ u : BitVec 5).extractLsb' 4 1 = x ∧ (x ++ y ++ z ++ u : BitVec 5).extractLsb' 3 1 = y ∧
    (x ++ y ++ z ++ u : BitVec 5).extractLsb' 2 1 = z ∧ (x ++ y ++ z ++ u : BitVec 5).extractLsb' 0 2 = u := by
  revert x y z u; decide
@[simp] theorem extractLsb'_append_1_1_4 (x y : BitVec 1) (z : BitVec 4) :
    (x ++ y ++ z : BitVec 6).extractLsb' 5 1 = x ∧ (x ++ y ++ z : BitVec 6).extractLsb' 4 1 = y ∧
    (x ++ y ++ z : BitVec 6).extractLsb' 0 4 = z := by
  revert x y z; decide
@[simp] theorem extractLsb'_append_2_2_2 (x y z : BitVec 2) :
    (x ++ y ++ z : BitVec 6).extractLsb' 4 2 = x ∧ (x ++ y ++ z : BitVec 6).extractLsb' 2 2 = y ∧
    (x ++ y ++ z : BitVec 6).setWidth 2 = z := by
  revert x y z; decide

/-! An index narrower than its six-bit field (R226): the field holds just the index when the bits above it are zero. -/

@[simp] theorem extractLsb'_setWidth_six {n k : Nat} (x : BitVec n) : (x.setWidth 6).extractLsb' n k = 0 := by
  ext; simp

@[simp] theorem setWidth_six_setWidth_eq_iff {n : Nat} {x : BitVec 6} :
    (x.setWidth n).setWidth 6 = x ↔ x.extractLsb' n (6 - n) = 0 := by
  constructor <;> intro h
  · rw [← h, extractLsb'_setWidth_six]
  · ext i hi
    have hbit := congrArg (getLsbD · (i - n)) h
    simp only [getLsbD_extractLsb'] at hbit
    simp only [getElem_setWidth, getLsbD_setWidth]
    grind

@[simp] theorem zero_append_1_4_eq_iff (x : BitVec 6) :
    0#1 ++ x.extractLsb' 4 1 ++ x.extractLsb' 0 4 = x ↔ x.extractLsb' 5 1 = 0 := by
  revert x; decide

@[simp] theorem zero_append_2_2_eq_iff (x : BitVec 6) :
    0#2 ++ x.extractLsb' 2 2 ++ x.setWidth 2 = x ↔ x.extractLsb' 4 2 = 0 := by
  revert x; decide

/-! ## The fields of the five word formats (R222, R227) -/

section

variable (m : Nat) (g : BitVec 3) (d a b : BitVec 6) (f : BitVec 5) (i : BitVec 11) (o : BitVec 8) (c : BitVec 3)
  (t : BitVec 23) (k : Nat) (p : BitVec 24)

@[simp] theorem fF_wordRRR : fF (wordRRR m g d a b f) = f :=
  extractLsb'_append_eq_right
@[simp] theorem fB_wordRRR : fB (wordRRR m g d a b f) = b :=
  extractLsb'_append_high <| extractLsb'_append_eq_right
@[simp] theorem fA_wordRRR : fA (wordRRR m g d a b f) = a :=
  extractLsb'_append_high <| extractLsb'_append_high <| extractLsb'_append_eq_right
@[simp] theorem fD_wordRRR : fD (wordRRR m g d a b f) = d :=
  extractLsb'_append_high <| extractLsb'_append_high <| extractLsb'_append_high <|
    extractLsb'_append_eq_right
@[simp] theorem fG_wordRRR : fG (wordRRR m g d a b f) = g :=
  extractLsb'_append_high <| extractLsb'_append_high <| extractLsb'_append_high <| extractLsb'_append_high <|
    extractLsb'_append_eq_right
@[simp] theorem fMajor_wordRRR : fMajor (wordRRR m g d a b f) = BitVec.ofNat 6 m :=
  extractLsb'_append_high <| extractLsb'_append_high <| extractLsb'_append_high <| extractLsb'_append_high <|
    extractLsb'_append_eq_left
@[simp] theorem extractLsb'_wordRRR {s n : Nat} (h : s + n ≤ 5) :
    (wordRRR m g d a b f).extractLsb' s n = f.extractLsb' s n := extractLsb'_append_eq_of_add_le h

@[simp] theorem fI_wordRI : fI (wordRI m g d a i) = i :=
  extractLsb'_append_eq_right
@[simp] theorem fA_wordRI : fA (wordRI m g d a i) = a :=
  extractLsb'_append_high <| extractLsb'_append_eq_right
@[simp] theorem fD_wordRI : fD (wordRI m g d a i) = d :=
  extractLsb'_append_high <| extractLsb'_append_high <| extractLsb'_append_eq_right
@[simp] theorem fG_wordRI : fG (wordRI m g d a i) = g :=
  extractLsb'_append_high <| extractLsb'_append_high <| extractLsb'_append_high <|
    extractLsb'_append_eq_right
@[simp] theorem fMajor_wordRI : fMajor (wordRI m g d a i) = BitVec.ofNat 6 m :=
  extractLsb'_append_high <| extractLsb'_append_high <| extractLsb'_append_high <|
    extractLsb'_append_eq_left

@[simp] theorem fW_wordM : fW (wordM m g d a o c) = c :=
  extractLsb'_append_eq_right
@[simp] theorem fO_wordM : fO (wordM m g d a o c) = o :=
  extractLsb'_append_high <| extractLsb'_append_eq_right
@[simp] theorem fA_wordM : fA (wordM m g d a o c) = a :=
  extractLsb'_append_high <| extractLsb'_append_high <| extractLsb'_append_eq_right
@[simp] theorem fD_wordM : fD (wordM m g d a o c) = d :=
  extractLsb'_append_high <| extractLsb'_append_high <| extractLsb'_append_high <|
    extractLsb'_append_eq_right
@[simp] theorem fG_wordM : fG (wordM m g d a o c) = g :=
  extractLsb'_append_high <| extractLsb'_append_high <| extractLsb'_append_high <| extractLsb'_append_high <|
    extractLsb'_append_eq_right
@[simp] theorem fMajor_wordM : fMajor (wordM m g d a o c) = BitVec.ofNat 6 m :=
  extractLsb'_append_high <| extractLsb'_append_high <| extractLsb'_append_high <| extractLsb'_append_high <|
    extractLsb'_append_eq_left

@[simp] theorem fT_wordBR : fT (wordBR m g t) = t :=
  extractLsb'_append_eq_right
@[simp] theorem fG_wordBR : fG (wordBR m g t) = g :=
  extractLsb'_append_high <| extractLsb'_append_eq_right
@[simp] theorem fMajor_wordBR : fMajor (wordBR m g t) = BitVec.ofNat 6 m :=
  extractLsb'_append_high <| extractLsb'_append_eq_left

@[simp] theorem fP_wordH : fP (wordH k p) = p :=
  extractLsb'_append_eq_right
@[simp] theorem extractLsb'_wordH : (wordH k p).extractLsb' 24 2 = BitVec.ofNat 2 k :=
  extractLsb'_append_high <| extractLsb'_append_eq_right
@[simp] theorem fMajor_wordH : fMajor (wordH k p) = 0x3F#6 :=
  extractLsb'_append_high <| extractLsb'_append_eq_left

end

@[simp] theorem wordRRR_inj {m : Nat} {g g' : BitVec 3} {d d' a a' b b' : BitVec 6} {f f' : BitVec 5} :
    wordRRR m g d a b f = wordRRR m g' d' a' b' f' ↔ g = g' ∧ d = d' ∧ a = a' ∧ b = b' ∧ f = f' := by
  constructor
  · intro h
    exact ⟨by simpa using congrArg fG h, by simpa using congrArg fD h, by simpa using congrArg fA h,
      by simpa using congrArg fB h, by simpa using congrArg fF h⟩
  · rintro ⟨rfl, rfl, rfl, rfl, rfl⟩
    rfl

@[simp] theorem wordRI_inj {m : Nat} {g g' : BitVec 3} {d d' a a' : BitVec 6} {i i' : BitVec 11} :
    wordRI m g d a i = wordRI m g' d' a' i' ↔ g = g' ∧ d = d' ∧ a = a' ∧ i = i' := by
  constructor
  · intro h
    exact ⟨by simpa using congrArg fG h, by simpa using congrArg fD h, by simpa using congrArg fA h,
      by simpa using congrArg fI h⟩
  · rintro ⟨rfl, rfl, rfl, rfl⟩
    rfl

/-! Every word is, for its major, a word of each format. -/

theorem eq_wordBR {w : Word} {m : Nat} (h : (fMajor w).toNat = m) : ∃ g t, w = wordBR m g t := by
  obtain ⟨w, t, rfl⟩ := exists_append (m := 9) (n := 23) w
  obtain ⟨x, g, rfl⟩ := exists_append (m := 6) (n := 3) w
  have hw : x ++ g ++ t = wordBR x.toNat g t := by simp [wordBR]
  rw [hw, fMajor_wordBR, ofNat_toNat, setWidth_eq] at h
  exact ⟨g, t, h ▸ hw⟩

theorem eq_wordRI {w : Word} {m : Nat} (h : (fMajor w).toNat = m) : ∃ g d a i, w = wordRI m g d a i := by
  obtain ⟨g, t, rfl⟩ := eq_wordBR h
  obtain ⟨t, i, rfl⟩ := exists_append (m := 12) (n := 11) t
  obtain ⟨d, a, rfl⟩ := exists_append (m := 6) (n := 6) t
  exact ⟨g, d, a, i, (append_assoc' ..).trans (congrArg (· ++ i) (append_assoc' ..))⟩

theorem eq_wordRRR {w : Word} {m : Nat} (h : (fMajor w).toNat = m) : ∃ g d a b f, w = wordRRR m g d a b f := by
  obtain ⟨g, d, a, i, rfl⟩ := eq_wordRI h
  obtain ⟨b, f, rfl⟩ := exists_append (m := 6) (n := 5) i
  exact ⟨g, d, a, b, f, append_assoc' ..⟩

theorem eq_wordM {w : Word} {m : Nat} (h : (fMajor w).toNat = m) : ∃ g d a o c, w = wordM m g d a o c := by
  obtain ⟨g, d, a, i, rfl⟩ := eq_wordRI h
  obtain ⟨o, c, rfl⟩ := exists_append (m := 8) (n := 3) i
  exact ⟨g, d, a, o, c, append_assoc' ..⟩

theorem eq_wordH {w : Word} (h : (fMajor w).toNat = 0x3F) :
    ∃ (k : BitVec 2) (p : BitVec 24), w = wordH k.toNat p := by
  obtain ⟨w, p, rfl⟩ := exists_append (m := 8) (n := 24) w
  obtain ⟨x, k, rfl⟩ := exists_append (m := 6) (n := 2) w
  have hx : fMajor (x ++ k ++ p) = x := extractLsb'_append_high extractLsb'_append_eq_left
  rw [hx, toNat_eq_nat] at h
  exact ⟨k, p, by simp [wordH, h]⟩

/-! ## A word that decodes is the word of what it decodes to -/

@[simp] theorem field_eq_ok {i j : Instr} {rsv idx : Bool} :
    field i rsv idx = .ok j ↔ rsv = false ∧ idx = false ∧ i = j := by
  cases rsv <;> cases idx <;> simp [field]

/-- The result `r` of decoding `w` is faithful: an instruction in it is either the unassigned encoding `w`, or a
well-formed instruction whose word is `w`. -/
def Faithful (w : Word) (r : Except Reject Instr) : Prop :=
  ∀ i, r = .ok i → i = .unassignedEncoding w ∨ i.wellFormed = true ∧ encode i = w

@[simp] theorem faithful_ok {w : Word} {i : Instr} :
    Faithful w (.ok i) ↔ i = .unassignedEncoding w ∨ i.wellFormed = true ∧ encode i = w := by
  simp [Faithful]

@[simp] theorem faithful_error (w : Word) (r : Reject) : Faithful w (.error r) := by
  simp [Faithful]

@[simp] theorem faithful_unassigned (w : Word) : Faithful w (unassigned w) := by
  simp [unassigned]

@[simp] theorem faithful_field {w : Word} {i : Instr} {rsv idx : Bool} :
    Faithful w (field i rsv idx) ↔ (rsv = false → idx = false → Faithful w (.ok i)) := by
  simp only [Faithful, field_eq_ok]
  grind

@[simp] theorem faithful_ite {w : Word} {c : Prop} [Decidable c] {r s : Except Reject Instr} :
    Faithful w (if c then r else s) ↔ (c → Faithful w r) ∧ (¬ c → Faithful w s) := by
  split <;> simp [*]

/-- Barriers (R304): their minor is a level and a form. -/
theorem faithful_decode28 {w : Word} (h : (fMajor w).toNat = 0x28) : Faithful w (decode28 w) := by
  obtain ⟨g, d, a, b, f, rfl⟩ := eq_wordRRR h
  obtain ⟨l, k, rfl⟩ := exists_append (m := 2) (n := 3) f
  simp only [decode28, extractLsb'_wordRRR, extractLsb'_append_2_3, Nat.reduceAdd, Nat.reduceLeDiff]
  split
  · exact faithful_unassigned _
  · split <;> simp_all [encode.eq_def, toNat_eq_nat, Instr.wellFormed.eq_def]

/-- By the major, as R232 lists them: the word is then one of its format's words, and a field that the decoder asks to be
zero is one that `encode` fills with zero. -/
theorem decode_faithful (w : Word) : Faithful w (decode w) := by
  unfold decode
  split
  -- The tables of minors: 0x01, 0x02, 0x0C, 0x11, 0x13, 0x16, 0x18, 0x19, 0x1B, 0x1E, 0x27, 0x2A,
  -- 0x2D, 0x2E, 0x2F, 0x30, 0x31, 0x35, 0x37, 0x38, 0x39, 0x3A, 0x3B, 0x3D.
  case h_1 _ h | h_2 _ h | h_12 _ h | h_15 _ h | h_17 _ h | h_20 _ h | h_21 _ h | h_22 _ h | h_24 _ h | h_27 _ h |
    h_35 _ h | h_38 _ h | h_41 _ h | h_42 _ h | h_43 _ h | h_44 _ h | h_45 _ h | h_49 _ h | h_51 _ h | h_52 _ h |
    h_53 _ h | h_54 _ h | h_55 _ h | h_57 _ h =>
    obtain ⟨g, d, a, b, f, rfl⟩ := eq_wordRRR h
    simp only [decode01, decode02, decode0C, decode11, decode13, decode16, decode18, decode19, decode1B, decode1E,
      decode27, decode2A, decode2D, decode2E, decode2F, decode30, decode31, decode35, decode37, decode38, decode39,
      decode3A, decode3B, decode3D, fF_wordRRR]
    split <;> simp_all [encode.eq_def, toNat_eq_nat, Instr.wellFormed.eq_def]
  -- 0x28
  case h_36 _ h =>
    exact faithful_decode28 h
  -- 0x10, 0x1C, 0x1D, 0x25, 0x26: a bit and a code in place of the minor.
  case h_14 _ h | h_25 _ h | h_26 _ h | h_33 _ h | h_34 _ h =>
    obtain ⟨g, d, a, b, f, rfl⟩ := eq_wordRRR h
    obtain ⟨u, c, rfl⟩ := exists_append (m := 1) (n := 4) f
    simp_all [encode.eq_def, Instr.wellFormed.eq_def]
  -- 0x12, 0x1A: a predicate or a comparison.
  case h_16 _ h | h_23 _ h =>
    obtain ⟨g, d, a, b, f, rfl⟩ := eq_wordRRR h
    obtain ⟨u, c, rfl⟩ := exists_append (m := 2) (n := 3) f
    simp_all [encode.eq_def, Instr.wellFormed.eq_def]
  -- 0x2C: no minor.
  case h_40 _ h =>
    obtain ⟨g, d, a, b, f, rfl⟩ := eq_wordRRR h
    simp_all [encode.eq_def, Instr.wellFormed.eq_def]
  -- 0x32, 0x33: three selectors.
  case h_46 _ h | h_47 _ h =>
    obtain ⟨g, d, a, b, f, rfl⟩ := eq_wordRRR h
    obtain ⟨u, k, rfl⟩ := exists_append (m := 3) (n := 2) f
    obtain ⟨u, s, rfl⟩ := exists_append (m := 2) (n := 1) u
    obtain ⟨u, t, rfl⟩ := exists_append (m := 1) (n := 1) u
    simp_all [encode.eq_def, Instr.wellFormed.eq_def]
  -- 0x34: two selectors.
  case h_48 _ h =>
    obtain ⟨g, d, a, b, f, rfl⟩ := eq_wordRRR h
    obtain ⟨u, k, rfl⟩ := exists_append (m := 3) (n := 2) f
    obtain ⟨u, q, rfl⟩ := exists_append (m := 1) (n := 2) u
    simp_all [encode.eq_def, Instr.wellFormed.eq_def]
  -- 0x36: a width.
  case h_50 _ h =>
    obtain ⟨g, d, a, b, f, rfl⟩ := eq_wordRRR h
    obtain ⟨u, c, rfl⟩ := exists_append (m := 3) (n := 2) f
    simp_all [encode.eq_def, Instr.wellFormed.eq_def]
  -- RI: 0x03, 0x04, 0x05, 0x06, 0x07, 0x08, 0x09, 0x0A, 0x0B, 0x0D, 0x29, 0x2B, 0x3C.
  case h_3 _ h | h_4 _ h | h_5 _ h | h_6 _ h | h_7 _ h | h_8 _ h | h_9 _ h | h_10 _ h | h_11 _ h | h_13 _ h |
    h_37 _ h | h_39 _ h | h_56 _ h =>
    obtain ⟨g, d, a, i, rfl⟩ := eq_wordRI h
    simp_all [encode.eq_def, Instr.wellFormed.eq_def]
  -- M: 0x20, 0x21, 0x22, 0x23, 0x24.
  case h_28 _ h | h_29 _ h | h_30 _ h | h_31 _ h | h_32 _ h =>
    obtain ⟨g, d, a, o, c, rfl⟩ := eq_wordM h
    simp_all [encode.eq_def, Instr.wellFormed.eq_def]
  -- BR: 0x14, 0x15.
  case h_18 _ h | h_19 _ h =>
    obtain ⟨g, t, rfl⟩ := eq_wordBR h
    simp_all [encode.eq_def, Instr.wellFormed.eq_def]
  -- Hint words: 0x3F.
  case h_58 _ h =>
    obtain ⟨k, p, rfl⟩ := eq_wordH h
    simp only [extractLsb'_wordH, fP_wordH]
    split <;> simp_all [encode.eq_def, toNat_eq_nat, Instr.wellFormed.eq_def]
  -- The unassigned majors.
  case h_59 => exact faithful_unassigned w

/-! ## Decoding the word of an instruction -/

/-- The majors whose instructions a minor tells apart have a table of their own (R232). -/
@[simp] theorem decode_wordRRR (g : BitVec 3) (d a b : BitVec 6) (f : BitVec 5) :
    decode (wordRRR 0x01 g d a b f) = decode01 (wordRRR 0x01 g d a b f) ∧
    decode (wordRRR 0x02 g d a b f) = decode02 (wordRRR 0x02 g d a b f) ∧
    decode (wordRRR 0x0C g d a b f) = decode0C (wordRRR 0x0C g d a b f) ∧
    decode (wordRRR 0x11 g d a b f) = decode11 (wordRRR 0x11 g d a b f) ∧
    decode (wordRRR 0x13 g d a b f) = decode13 (wordRRR 0x13 g d a b f) ∧
    decode (wordRRR 0x16 g d a b f) = decode16 (wordRRR 0x16 g d a b f) ∧
    decode (wordRRR 0x18 g d a b f) = decode18 (wordRRR 0x18 g d a b f) ∧
    decode (wordRRR 0x19 g d a b f) = decode19 (wordRRR 0x19 g d a b f) ∧
    decode (wordRRR 0x1B g d a b f) = decode1B (wordRRR 0x1B g d a b f) ∧
    decode (wordRRR 0x1E g d a b f) = decode1E (wordRRR 0x1E g d a b f) ∧
    decode (wordRRR 0x27 g d a b f) = decode27 (wordRRR 0x27 g d a b f) ∧
    decode (wordRRR 0x28 g d a b f) = decode28 (wordRRR 0x28 g d a b f) ∧
    decode (wordRRR 0x2A g d a b f) = decode2A (wordRRR 0x2A g d a b f) ∧
    decode (wordRRR 0x2D g d a b f) = decode2D (wordRRR 0x2D g d a b f) ∧
    decode (wordRRR 0x2E g d a b f) = decode2E (wordRRR 0x2E g d a b f) ∧
    decode (wordRRR 0x2F g d a b f) = decode2F (wordRRR 0x2F g d a b f) ∧
    decode (wordRRR 0x30 g d a b f) = decode30 (wordRRR 0x30 g d a b f) ∧
    decode (wordRRR 0x31 g d a b f) = decode31 (wordRRR 0x31 g d a b f) ∧
    decode (wordRRR 0x35 g d a b f) = decode35 (wordRRR 0x35 g d a b f) ∧
    decode (wordRRR 0x37 g d a b f) = decode37 (wordRRR 0x37 g d a b f) ∧
    decode (wordRRR 0x38 g d a b f) = decode38 (wordRRR 0x38 g d a b f) ∧
    decode (wordRRR 0x39 g d a b f) = decode39 (wordRRR 0x39 g d a b f) ∧
    decode (wordRRR 0x3A g d a b f) = decode3A (wordRRR 0x3A g d a b f) ∧
    decode (wordRRR 0x3B g d a b f) = decode3B (wordRRR 0x3B g d a b f) ∧
    decode (wordRRR 0x3D g d a b f) = decode3D (wordRRR 0x3D g d a b f) := by
  and_intros <;>
    · rw [decode, fMajor_wordRRR]
      rfl

theorem isUnassigned_iff {w : Word} : isUnassigned w = true ↔ ∃ v, decode w = .ok (.unassignedEncoding v) := by
  simp only [isUnassigned]
  split <;> simp_all

theorem decode_of_isUnassigned {w : Word} (h : isUnassigned w = true) : decode w = .ok (.unassignedEncoding w) := by
  obtain ⟨v, hv⟩ := isUnassigned_iff.mp h
  obtain hw | ⟨-, hw⟩ := decode_faithful w _ hv
  · rw [hv, hw]
  · rw [hv, show v = w from hw]

theorem decode_encode (i : Instr) (hi : i.wellFormed = true) (hw : encode i ≠ 0 ∨ i = .unassignedEncoding 0) :
    decode (encode i) = .ok i := by
  cases i with
  | iadd | isub | imul | imulh | imulhu | idiv | idivu | irem | iremu | imin | imax | iminu | imaxu | iadds | isubs
  | iabs =>
    simp [encode.eq_def, decode01]
  | and | or | xor | andn | orn | xnor | shl | shr | sar | rol | rot | popc | clz | ctz | brev | bfe | bfi | mov =>
    simp [encode.eq_def, decode02]
  | iaddi | imuli | andi | ori | xori | shli | shri | sari | movi | aaddi | sel | bra | call | fcmp | ld | st | lds
  | sts | ldc | cvset | rgnb | rgnn | cpb | mmv | csrw | hwide | hmod | hsched =>
    simp [encode.eq_def, decode]
  | aadd | asub | aadds | aaddu | amov | amuls | amulu =>
    simp [encode.eq_def, decode0C]
  | icmp | cvt | cvti | atom | atoms | mma | mmas | mmaq | csrr =>
    simp_all [encode.eq_def, decode, Instr.wellFormed.eq_def]
  | pand | por | pxor | pandn | pnot | pmov | pget | pput =>
    simp [encode.eq_def, decode11]
  | voteAny | voteAll | voteBal | shflIdx | shflUp | shflDown | shflXor =>
    simp [encode.eq_def, decode13]
  | ret | jmpr | callr | brx | exit | nop | yield | schsel =>
    simp [encode.eq_def, decode16]
  | fadd | fsub | fmul | fdiv | fmin | fmax | fsqrt | fabs | fneg | fcpys | frcp | frsq | fexp2 | flog2 | fsin
  | fcos | ftanh =>
    simp [encode.eq_def, decode18]
  | ffma | ffnma | fdot2 | fdot4 =>
    simp [encode.eq_def, decode19]
  | fclass | frint | fstat =>
    simp [encode.eq_def, decode1B]
  | pack | unpkLo | unpkHi | tagset | tagchk | tagrd =>
    simp [encode.eq_def, decode1E]
  | pref | fence | ifence | mona | mwait =>
    simp [encode.eq_def, decode27]
  | red =>
    simp_all [encode.eq_def, decode27, Instr.wellFormed.eq_def]
  | bar | bara | barw | barredOr | barredAnd | barredMax =>
    simp_all [encode.eq_def, decode28, Instr.wellFormed.eq_def]
  | qput | qget | flagSet | flagClr | fwaitAny | fwaitAll | rgnc | rgnx =>
    simp [encode.eq_def, decode2A]
  | cps | cpg | cpt =>
    simp [encode.eq_def, decode2D]
  | cpseal | cpwait | cpctrG | cpctrT | cpctrC | cpctrD | cpctrV | cpctrS =>
    simp [encode.eq_def, decode2E]
  | slotx | slotw | slotr | slotq =>
    simp [encode.eq_def, decode2F]
  | msend | msendNb =>
    simp [encode.eq_def, decode30]
  | mringSet | mringOff | mringPop | mringWatch | mringQ =>
    simp [encode.eq_def, decode31]
  | mzero | mlda | mdrnS | mdrnSadd | mdrnG | mdrnGadd =>
    simp [encode.eq_def, decode35]
  | oadam | osgd | vredAdd | vredMax =>
    simp [encode.eq_def, decode37]
  | splkg | splkq =>
    simp [encode.eq_def, decode38]
  | splld | splst | splrf =>
    simp [encode.eq_def, decode39]
  | splev | spldr | splgr =>
    simp [encode.eq_def, decode3A]
  | srd | clkq | clkreq | trap | brkpt | probe =>
    simp [encode.eq_def, decode3B]
  | eret | halt | tlbinv | accsave | accrest | accsaveV | accrestV =>
    simp [encode.eq_def, decode3D]
  | unassignedEncoding w => exact decode_of_isUnassigned hi
  | _ => simp [encode.eq_def] at hw

/-! ## Bytes (R5) and the obligation -/

theorem bytesWord_wordBytes (w : Word) :
    bytesWord (w.extractLsb' 0 8) (w.extractLsb' 8 8) (w.extractLsb' 16 8) (w.extractLsb' 24 8) = w := by
  rw [bytesWord, extractLsb'_append_extractLsb'_eq_extractLsb', extractLsb'_append_extractLsb'_eq_extractLsb',
    extractLsb'_append_extractLsb'_eq_extractLsb', extractLsb'_eq_self] <;> rfl

theorem decodeBytes_wordBytes {w : Word} {i : Instr} (h : decode w = .ok i) (rest : List Byte) :
    decodeBytes (wordBytes w ++ rest) = .ok (i, rest) := by
  simp [wordBytes, decodeBytes, bytesWord_wordBytes, h]

theorem wellFormed_and_encode_of_decode {w : Word} {i : Instr} (h : decode w = .ok i) :
    i.wellFormed = true ∧ encode i = w := by
  obtain rfl | hi := decode_faithful w i h
  · exact ⟨isUnassigned_iff.mpr ⟨w, h⟩, rfl⟩
  · exact hi

/-- Settles O58: by the instruction's constructor in one direction, and in the other by the word's major and minor, each
word being the word of its fields. -/
theorem decodeEncode : Obligations.DecodeEncode := by
  unfold Obligations.DecodeEncode
  exact ⟨fun i rest hi hw => decodeBytes_wordBytes (decode_encode i hi hw) rest,
    fun _ _ h => wellFormed_and_encode_of_decode h⟩

end Sys2Proof
end

section
/-! PROOFS. Exchange within a fragment: a collective word whose own check passes is judged by the guards alone; VOTE and SHFL
(R301, R302, R104). -/

namespace Sys2Proof.Machine

open Sys2Proof

/-! ## A fragment-collective word whose own check passes (R183) -/

theorem perform_congr {s : State} {v w : Ref → Verdict} (act : State → List Ref → State) (hw : s.clear w)
    (h : ∀ r ∈ s.cur, v r = w r) : s.perform v act = s.perform w act := by
  have hv : s.clear v := fun r hr => by rw [h r hr]; exact hw r hr
  rw [perform_clear act hv, perform_clear act hw, List.filter_congr fun r hr => by rw [h r hr]]

theorem mem_active {s : State} {i : Instr} {r : Ref} : r ∈ s.active i ↔ r ∈ s.cur ∧ (s.thr r).active i = true :=
  List.mem_filter

theorem lead_mem_active {s : State} {i : Instr} (h : s.active i ≠ []) : s.lead i ∈ s.active i := by
  rw [State.lead, List.headD_eq_head?_getD, List.head?_eq_some_head h]
  exact List.head_mem h

section
variable {s : State} {i : Instr}

/-- Where the check of the lead passes, each lane is judged by its guard alone. -/
theorem judgeAll_of_issues {own : Ref → Verdict} {p : Thread → Prop} (hi : s.issues i p)
    (ho : own (s.lead i) = .run) {r : Ref} (hr : r ∈ s.cur) : s.judgeAll i own r = s.judge i noCheck r := by
  have hj : ∀ q ∈ s.cur, s.judge i noCheck q = if (s.thr q).active i then .run else .off := fun q hq =>
    judge_accepts (hi.2 q hq).1 fun _ => rfl
  have hown : s.judgeWord i false false (fun _ => own (s.lead i)) = s.judge i noCheck := by rw [ho]; rfl
  simp only [State.judgeAll, hown, hj r hr]
  by_cases hg : (s.thr r).active i = true
  · rw [if_pos hg]
  · simp only [if_neg hg]
    split
    · rfl
    next hne =>
      obtain ⟨hl, hact⟩ := mem_active.1 (lead_mem_active fun he => hne (List.isEmpty_iff.2 he))
      rw [hj _ hl, if_pos hact]
      rfl

theorem collective_of_issues {own : Ref → Verdict} {p : Thread → Prop} (act : State → List Ref → State)
    (hi : s.issues i p) (ho : own (s.lead i) = .run) :
    s.collective i own act = s.perform (s.judge i noCheck) act :=
  perform_congr act (clear_of_issues hi fun _ _ _ _ => rfl) fun _ hr => judgeAll_of_issues hi ho hr

/-- A collective word that changes each of the threads that run, `f` of their list, completes. -/
theorem completes_collective {act : State → List Ref → State} {f : List Ref → Ref → Thread → Thread}
    {p : Thread → Thread → Prop} (he : exec i s = .next (s.collective i noCheck act)) (ha : ActsOn act f)
    (hi : s.issues i fun _ => True) (hv : Veiled p)
    (hp : ∀ r ∈ s.active i, p (s.thr r) (f (s.active i) r (s.thr r).retire)) : Completes i s p :=
  completesAt_of_acts (own := noCheck) (he.trans (congrArg _ (collective_of_issues act hi rfl))) ha hi
    (fun _ _ _ _ => rfl) (fun _ => hv) fun _ hr hg _ => hp _ (mem_active.2 ⟨hr, hg⟩)

/-! ## VOTE (R301) -/

theorem voteAny_completes {g d p : BitVec 3} (h : s.issues (.voteAny g d p) fun _ => True) :
    Completes (.voteAny g d p) s (Sets d fun _ => (s.active (.voteAny g d p)).any fun r => (s.thr r).pred p) :=
  completes_collective (f := fun rs _ u => u.setPred d (rs.any fun r => (s.thr r).pred p)) rfl (fun _ _ => rfl) h
    (veiled_lane _ _ _ _) fun r _ => sets_setPred (s.thr r) d _

theorem voteAll_completes {g d p : BitVec 3} (h : s.issues (.voteAll g d p) fun _ => True) :
    Completes (.voteAll g d p) s (Sets d fun _ => (s.active (.voteAll g d p)).all fun r => (s.thr r).pred p) :=
  completes_collective (f := fun rs _ u => u.setPred d (rs.all fun r => (s.thr r).pred p)) rfl (fun _ _ => rfl) h
    (veiled_lane _ _ _ _) fun r _ => sets_setPred (s.thr r) d _

/-! ## A pair written -/

theorem low32_eq_and (v : BitVec 64) : low32 v = v &&& 0xFFFFFFFF := by
  refine BitVec.eq_of_toNat_eq ?_
  rw [low32, BitVec.toNat_setWidth, BitVec.toNat_setWidth, BitVec.toNat_and,
    show BitVec.toNat (0xFFFFFFFF : BitVec 64) = 2 ^ 32 - 1 from rfl, Nat.and_two_pow_sub_one_eq_mod]
  omega

theorem fieldOk_of_accepts {r : Ref} (h : s.accepts i r = true) (ha : (s.thr r).active i = true) {u : Use}
    (hu : u ∈ (infoOf i).reads ++ (infoOf i).writes) : u.ok (s.thr r).ctl (s.block r.team).regs = true := by
  have hg : (s.thr r).pred (infoOf i).g = true := ha
  have hh : s.headFault (infoOf i) false r = none := by simp_all [State.accepts]
  refine Classical.byContradiction fun hn => ?_
  have hall : ((infoOf i).reads ++ (infoOf i).writes).all (fun u => u.ok (s.thr r).ctl (s.block r.team).regs) = false :=
    List.all_eq_false.2 ⟨u, hu, hn⟩
  rw [State.headFault, hall] at hh
  cases hh

/-- A pair of the lane stream starts at an even register, and so ends within the registers (R225). -/
theorem pair_lt_of_accepts {r : Ref} {d : BitVec 6} (h : s.accepts i r = true) (ha : (s.thr r).active i = true)
    (hu : u2 d ∈ (infoOf i).reads ++ (infoOf i).writes) (hl : (s.thr r).ctl = false) : d.toNat + 1 < 64 := by
  have hok := fieldOk_of_accepts h ha hu
  have heven : d.toNat % 2 = 0 := by simp_all [Use.ok, u2, Shape.size]
  omega

/-- A word that writes a pair. -/
theorem writes_setPair (u : Thread) (d : BitVec 6) (x : BitVec 64) (g : Tag) (h : u.ctl = false → d.toNat + 1 < 64) :
    Writes (fun u => pair u.ctl d x g) u (u.retire.setPair d.toNat x g) := by
  have hr : u.retire.ctl = u.ctl := rfl
  unfold Writes Thread.setPair
  simp only [hr]
  cases hc : u.ctl with
  | true => exact gives_setReg u d fun _ => { val := x, tag := g }
  | false =>
    refine ⟨fun n => ?_, fun q => ?_, ?_, ?_, ?_, ?_⟩ <;> rw [if_neg Bool.false_ne_true]
    · rw [reg_setReg _ _ _ _ (h hc), reg_setReg _ _ _ _ (by omega)]
      simp only [pair, if_neg Bool.false_ne_true, low32_eq_and, reg_retire]
      by_cases h0 : n = 0
      · simp only [if_pos h0]
      by_cases hlow : n = d.toNat
      · simp only [if_neg h0, if_pos hlow, if_neg (show n ≠ d.toNat + 1 by omega), Option.getD_some]
      by_cases hhigh : n = d.toNat + 1
      · simp only [if_neg h0, if_neg hlow, if_pos hhigh, Option.getD_some]
      · simp only [if_neg h0, if_neg hlow, if_neg hhigh, Option.getD_none]
    · simp only [pred_setReg, pred_retire]
    · simp only [Thread.setReg_fpstat]; rfl
    · simp only [Thread.setReg_pc]; rfl
    · simp only [Thread.setReg_hint]; rfl
    · simp only [rest_setReg, rest_retire]

theorem voteBal_completes {g p : BitVec 3} {e : BitVec 6} (h : s.issues (.voteBal g e p) fun _ => True) :
    Completes (.voteBal g e p) s (Writes fun u => pair u.ctl e
      (maskOf (((s.active (.voteBal g e p)).filter fun r => (s.thr r).pred p).map s.idx)) tagI32) :=
  completes_collective
    (f := fun rs _ u => u.setPair e.toNat (maskOf ((rs.filter fun r => (s.thr r).pred p).map s.idx)) tagI32) rfl
    (fun _ _ => rfl) h (veiled_lane _ _ _ _) fun r hr => by
      obtain ⟨hm, hg⟩ := mem_active.1 hr
      exact writes_setPair (s.thr r) e _ tagI32 (pair_lt_of_accepts (h.2 r hm).1 hg List.mem_cons_self)

/-! ## SHFL (R302) -/

/-- A shuffle whose source index is `j`, of operands that are not poisoned, completes. -/
theorem shuffle_completes {d a b : BitVec 6} {mode : Int → Int → Int → Int} {j : Ref → Int}
    (he : exec i s = .next (s.shuffle i d a b mode)) (hi : s.issues i fun _ => True)
    (hj : ∀ r, mode (s.width r.team) (s.idx r) ((s.thr r).val32 b.toNat).toNat = j r)
    (hp : ∀ r ∈ s.active i, ((s.thr r).reg b.toNat).tag ≠ tagPOISON ∧
      ((s.thr (s.shflFrom i r (j r))).reg a.toNat).tag ≠ tagPOISON) :
    CompletesAt i s fun r => Gives d fun _ => (s.thr (s.shflFrom i r (j r))).reg a.toNat := by
  refine completesAt_of_acts (f := fun _ r u => u.setReg d.toNat ((s.thr (s.shflFrom i r (j r))).reg a.toNat))
    he (fun s rs => ?_) hi (fun r hr hg _ => if_neg ?_) (fun _ => veiled_lane _ _ _ _)
    fun r _ _ _ => gives_setReg (s.thr r) d _
  · simp only [hj]; rfl
  · obtain ⟨hb, ha⟩ := hp r (mem_active.2 ⟨hr, hg⟩)
    simp only [hj]
    exact not_or.2 ⟨hb, ha⟩

/-- An index of the group names the active thread that has it. -/
theorem shflFrom_active {r : Ref} {n : Nat} (hn : n < s.width r.team)
    (h : (⟨r.team, (s.thr r).group * s.width r.team + n⟩ : Ref) ∈ s.active i) :
    s.shflFrom i r n = ⟨r.team, (s.thr r).group * s.width r.team + n⟩ := by
  rw [State.shflFrom, if_neg (by omega), Int.toNat_natCast, if_pos (List.contains_iff_mem.2 h)]

theorem shflFrom_inactive {r : Ref} {n : Nat} (hn : n < s.width r.team)
    (h : (⟨r.team, (s.thr r).group * s.width r.team + n⟩ : Ref) ∉ s.active i) : s.shflFrom i r n = r := by
  rw [State.shflFrom, if_neg (by omega), Int.toNat_natCast, if_neg (mt List.contains_iff_mem.1 h)]

end

/-- Settles O19: a vote is a collective word whose check passes, a shuffle writes its source's register, and the four forms
differ in the index they give. -/
theorem votesAndShuffles : Obligations.VotesAndShuffles := by
  unfold Obligations.VotesAndShuffles
  intro s g p d e a b
  refine ⟨voteAny_completes, voteAll_completes, fun h => ?_, fun i j hm hi hp => ?_,
    fun _ _ _ => shflFrom_active, fun _ _ _ => shflFrom_inactive, fun _ _ _ h => if_pos h⟩
  · simpa only [maskOf, List.foldl_map] using voteBal_completes h
  · simp only [List.mem_cons, Prod.mk.injEq, List.not_mem_nil, or_false] at hm
    obtain ⟨rfl, rfl⟩ | ⟨rfl, rfl⟩ | ⟨rfl, rfl⟩ | ⟨rfl, rfl⟩ := hm
    · exact shuffle_completes (b := b) (mode := fun w _ x => x % w) rfl hi (fun _ => rfl) hp
    · exact shuffle_completes (b := b) (mode := fun _ i x => i - x) rfl hi (fun _ => rfl) hp
    · exact shuffle_completes (b := b) (mode := fun _ i x => i + x) rfl hi (fun _ => rfl) hp
    · exact shuffle_completes (b := b) (mode := fun _ i x => (i.toNat ^^^ (x.toNat % 64) : Nat)) rfl hi (fun _ => rfl) hp

end Sys2Proof.Machine
end

section
/-! PROOFS. Bytes of a number and of a list of elements, the sum of a reduction, its descriptors and its end (R117, R430 to
R433). -/

namespace Sys2Proof.Machine

open Sys2Proof

/-! ## Bytes and elements (R5) -/

@[simp] theorem length_leBytes (n v : Nat) : (leBytes n v).length = n := by
  induction n generalizing v with
  | zero => rfl
  | succ n ih => simp [leBytes, ih]

theorem ofLe_leBytes (n v : Nat) : ofLe (leBytes n v) = v % 2 ^ (8 * n) := by
  induction n generalizing v with
  | zero => simp [leBytes, ofLe, Nat.mod_one]
  | succ n ih =>
    rw [leBytes, ofLe, ih, BitVec.toNat_ofNat, show 8 * (n + 1) = 8 + 8 * n by omega, Nat.pow_add, Nat.mod_mul]

/-- Part `k` of parts of one length, put one after another. -/
theorem take_drop_flatMap {α β : Type} {f : α → List β} {n : Nat} (hf : ∀ a, (f a).length = n) (l : List α) (k : Nat)
    (hk : k < l.length) : ((l.flatMap f).drop (n * k)).take n = f l[k] := by
  induction l generalizing k with
  | nil => simp at hk
  | cons a l ih =>
    rw [List.flatMap_cons]
    cases k with
    | zero => simpa using List.take_left' (hf a)
    | succ k =>
      rw [show n * (k + 1) = (f a).length + n * k by rw [hf, Nat.mul_succ, Nat.add_comm], List.drop_length_add_append]
      simpa using ih k (by simpa using hk)

/-- R117: each element of the result is the members' elements summed and rounded. -/
theorem payloadElem_redSum {f : Fmt} {len k : Nat} (ps : List (List Byte)) (hf : 8 ≤ f.width)
    (hk : (k + 1) * (f.width / 8) ≤ len) :
    payloadElem f (redSum f len ps) k = redElem f (ps.map fun p => payloadElem f p k) % 2 ^ (8 * (f.width / 8)) := by
  have hn : 0 < f.width / 8 := by omega
  have hlt : k < len / (f.width / 8) := (Nat.le_div_iff_mul_le hn).2 hk
  rw [payloadElem, redSum, take_drop_flatMap (fun _ => length_leBytes _ _) _ _ (by simpa using hlt), ofLe_leBytes,
    List.getElem_range]

/-! ## The doorbell and its descriptor (R430, R432) -/

theorem redFmt_isSome_iff (c : BitVec 8) : (redFmt c).isSome = true ↔ c ∈ [1#8, 2#8, 4#8, 5#8] := by
  revert c; decide

/-- The limits of R430, one by one. -/
theorem RedDesc.ok_iff {x : RedDesc} {fid : Nat} {zeros : Bool} : x.ok fid zeros = true ↔
    zeros = true ∧ x.src.toNat % 256 = 0 ∧ x.dst.toNat % 256 = 0 ∧ x.ctr.toNat % 16 = 0 ∧ 256 ≤ x.len ∧
      x.len ≤ 67108864 ∧ x.len % 256 = 0 ∧ x.fmt ∈ [1#8, 2#8, 4#8, 5#8] ∧ x.group < 64 ∧
      x.members.getLsbD fid = true := by
  simp only [RedDesc.ok, Bool.and_eq_true, beq_iff_eq, decide_eq_true_eq, redFmt_isSome_iff, and_assoc]

/-- A doorbell with no free entry, of no team, or while something waits at the homes, waits. -/
theorem reductionDoorbell_waits {s : State} {d : BitVec 1} {va : BitVec 64}
    (h : ¬(s.sel < s.teams.length ∧ s.redRoom d.toNat = true ∧ s.homesOpen = true)) :
    exec (.reductionDoorbell d va) s = .next s := congrArg _ (if_neg h)

theorem reductionDoorbell_starts {s : State} {d : BitVec 1} {va : BitVec 64}
    (h : s.sel < s.teams.length ∧ s.redRoom d.toNat = true ∧ s.homesOpen = true) :
    exec (.reductionDoorbell d va) s = .next (s.redStart d.toNat
      { asid := (s.team s.sel).xasid.setWidth 16, root := (s.team s.sel).xroot } (some (s.team s.sel).launch) va) :=
  congrArg _ (if_pos h)

theorem nextSeq_cons (s : State) (g : Nat) (q : BitVec 32) (l : List (Nat × BitVec 32)) :
    ({ s with redSeq := (g, q) :: l } : State).nextSeq g = q := by
  simp [State.nextSeq]

/-- A descriptor that is read joins the queue, to send ABORT where it fails the limits or is out of its turn; in its turn it
moves its group's SEQ on. -/
theorem redStart_queues {s s1 : State} {die : Nat} {sp : Space16} {va : BitVec 64} {bs : List (Byte × Bool)}
    (launch : Option Nat) (hl : s.agentLoad die sp va 64 = (s1, .ok bs)) (ha : va.toNat % 64 = 0)
    (hb : ∀ b ∈ bs, b.2 = false) :
    let b := bs.map (·.1)
    let x := redDescOf die sp launch s.gtime b
    let t := s.redStart die sp launch va
    t.redq = s1.redq ++ [{ x with abort := !(x.ok s.fid ((b.drop 40).all (· == 0)) && x.seq == s1.nextSeq x.group) }] ∧
      t.mem = s1.mem ∧ (x.seq = s1.nextSeq x.group → t.nextSeq x.group = x.seq + 1) := by
  have hgood : (bs.any (·.2) || va.extractLsb' 0 6 != 0) = false := by
    have h6 : va.extractLsb' 0 6 = 0 := BitVec.eq_of_toNat_eq (by simpa using ha)
    rw [h6, List.any_eq_false.2 fun b hm => by simp [hb b hm]]
    rfl
  intro b x t
  simp only [t, State.redStart, hl, hgood, Bool.false_eq_true, if_false]
  split
  · exact ⟨rfl, rfl, fun _ => nextSeq_cons s1 _ _ _⟩
  next hs => exact ⟨rfl, rfl, fun he => absurd (beq_iff_eq.2 he) hs⟩

/-! ## The end of a reduction (R431 to R433) -/

/-- The selected reduction is pending, the first of its group, and nothing waits at the homes. -/
def State.redTurn (s : State) : Prop :=
  (s.redq.getD s.sel default).live = true ∧ s.redFirst s.sel = true ∧ s.homesOpen = true

section
variable {s s1 : State} {own : List Byte} {x : RedDesc}

theorem reductionEnd_waits (h : ¬s.redTurn) : exec .reductionEnd s = .next s := by
  refine congrArg _ (if_pos ?_)
  simp only [State.redTurn, Classical.not_and_iff_not_or_not, Bool.not_eq_true] at h
  obtain h | h | h := h <;> simp only [h, Bool.not_false, Bool.true_or, Bool.or_true]

theorem reductionTimeout_waits (h : ¬s.redTurn) : exec .reductionTimeout s = .next s :=
  congrArg _ (if_neg fun ⟨hlive, hfirst, _, hopen⟩ => h ⟨hlive, hfirst, hopen⟩)

/-- R431: the time runs from the first contribution, for 2,000 microseconds where the descriptor gives none. -/
theorem reductionTimeout_turn (h : s.redTurn) (hx : s.redq.getD s.sel default = x) : exec .reductionTimeout s =
    .next (if s.redSince x + 1000 * (if x.timeout = 0 then 2000 else x.timeout) ≤ s.gtime then s.redDone s.sel 2 else s) := by
  subst hx
  obtain ⟨hlive, hfirst, hopen⟩ := h
  show execReductionTimeout s = _
  simp only [execReductionTimeout, hlive, hfirst, hopen, true_and, and_true]

/-! ### The member's own side (R432) -/

theorem planesLive_of_dead {j len : Nat} (hj : j < 16) (hl : 4096 * j < len) (hd : s.linkLive j = false) :
    s.planesLive len = false :=
  List.all_eq_false.2 ⟨j, List.mem_range.2 (by omega), by simp [hd]⟩

theorem redOwn_aborts (h : x.abort = true ∨ ∃ j, j < 16 ∧ 4096 * j < x.len ∧ s.linkLive j = false) :
    s.redOwn x = (s, none) := by
  refine if_pos ?_
  obtain h | ⟨j, hj, hl, hd⟩ := h
  · rw [h, Bool.true_or]
  · rw [planesLive_of_dead hj hl hd, Bool.not_false, Bool.or_true]

/-! ### The other members' side -/

theorem aborts_iff {c : Contribution} : c.aborts x = true ↔
    c.abort = true ∨ c.len ≠ x.len ∨ c.fmt ≠ x.fmt ∨ c.members ≠ x.members := by
  simp only [Contribution.aborts, Bool.or_eq_true, bne_iff_ne, or_assoc]

theorem redAll_iff : s.redAll x = true ↔
    ∀ p, p < 16 → x.members.getLsbD p = true → p ≠ s.fid → ∃ c ∈ s.redParts x, c.member = p := by
  simp only [State.redAll, List.all_eq_true, List.mem_range, Bool.or_eq_true, Bool.not_eq_true', List.any_eq_true, beq_iff_eq]
  constructor
  · intro h p hp hm hf
    obtain (hn | he) | hc := h p hp
    · exact absurd hm (Bool.eq_false_iff.1 hn)
    · exact absurd he hf
    · exact hc
  · intro h p hp
    by_cases hf : p = s.fid
    · exact .inl (.inr hf)
    · cases hm : x.members.getLsbD p with
      | false => exact .inl (.inl rfl)
      | true => exact .inr (h p hp hm hf)

/-! ### How it ends -/

/-- R432: a member that sends ABORT ends its reduction. -/
theorem reductionEnd_own (h : s.redTurn) (hx : s.redq.getD s.sel default = x) (ho : s.redOwn x = (s1, none)) :
    exec .reductionEnd s = .next (s1.redDone s.sel 1) := by
  subst hx
  obtain ⟨hlive, hfirst, hopen⟩ := h
  show execReductionEnd s = _
  simp only [execReductionEnd, hlive, hfirst, hopen, ho]
  rfl

/-- Where the member has sent its bytes, the contributions decide. -/
theorem reductionEnd_counts (h : s.redTurn) (hx : s.redq.getD s.sel default = x) (ho : s.redOwn x = (s1, some own)) :
    exec .reductionEnd s = .next (if (s.redParts x).any (·.aborts x) then s1.redDone s.sel 1
      else if s.redAll x then (redFmt x.fmt).elim (s1.redDone s.sel 1) fun f =>
        ((s1.agentStore x.die { asid := x.asid, root := x.root } false x.dst
          (redSum f x.len (s.redPayloads x own))).1).redDone s.sel 0
      else s) := by
  subst hx
  obtain ⟨hlive, hfirst, hopen⟩ := h
  show execReductionEnd s = _
  simp only [execReductionEnd, hlive, hfirst, hopen, ho]
  cases redFmt (s.redq.getD s.sel default).fmt <;> rfl

/-- R432: a contribution that is an ABORT or disagrees ends it too. -/
theorem reductionEnd_aborted (h : s.redTurn) (hx : s.redq.getD s.sel default = x) (ho : s.redOwn x = (s1, some own))
    (hp : ∃ c ∈ s.redParts x, c.aborts x = true) : exec .reductionEnd s = .next (s1.redDone s.sel 1) := by
  rw [reductionEnd_counts h hx ho, if_pos (List.any_eq_true.2 hp)]

/-- R431: it waits for the members that have not contributed. -/
theorem reductionEnd_incomplete (h : s.redTurn) (hx : s.redq.getD s.sel default = x) (ho : s.redOwn x = (s1, some own))
    (hp : ∀ c ∈ s.redParts x, ¬c.aborts x = true) (ha : ¬s.redAll x = true) : exec .reductionEnd s = .next s := by
  rw [reductionEnd_counts h hx ho, if_neg (Bool.eq_false_iff.1 (List.any_eq_false.2 hp)), if_neg ha]

/-- R431: with every contribution its sum is stored at DST and it ends OK. -/
theorem reductionEnd_complete {f : Fmt} (h : s.redTurn) (hx : s.redq.getD s.sel default = x)
    (ho : s.redOwn x = (s1, some own)) (hf : redFmt x.fmt = some f) (hp : ∀ c ∈ s.redParts x, ¬c.aborts x = true)
    (ha : s.redAll x = true) : exec .reductionEnd s =
      .next (((s1.agentStore x.die { asid := x.asid, root := x.root } false x.dst
        (redSum f x.len (s.redPayloads x own))).1).redDone s.sel 0) := by
  rw [reductionEnd_counts h hx ho, if_neg (Bool.eq_false_iff.1 (List.any_eq_false.2 hp)), if_pos ha, hf]
  rfl

end

/-! ### What the end leaves (R433) -/

@[simp] theorem raise_redq (s : State) (d bit : Nat) : (s.raise d bit).redq = s.redq := by
  unfold State.raise; dsimp only; split <;> rfl
@[simp] theorem raise_contributions (s : State) (d bit : Nat) : (s.raise d bit).contributions = s.contributions := by
  unfold State.raise; dsimp only; split <;> rfl
theorem raise_dies (s : State) (d bit : Nat) : (s.raise d bit).dies =
    s.dies.modify d fun x => { x with intcause := x.intcause ||| BitVec.ofNat 32 (2 ^ bit) } := by
  unfold State.raise; dsimp only; split <;> rfl

theorem intcause_raise {s : State} {d bit : Nat} (hb : bit < 32) (h : d < s.dies.length) :
    ((s.raise d bit).die d).intcause.getLsbD bit = true := by
  rw [State.die, raise_dies, getD_modify_eq _ _ _ _ h, BitVec.getLsbD_or, BitVec.getLsbD_ofNat, Nat.testBit_two_pow_self,
    decide_eq_true hb, Bool.true_and, Bool.or_true]

/-- An end with no counter: the descriptor's entry is free, its contributions are gone, and memory is as it was. -/
theorem redDone_of_ctr_zero {s : State} {n : Nat} (code : Nat) (h : (s.redq.getD n default).ctr = 0) :
    let x := s.redq.getD n default
    let t := s.redDone n code
    t.redq = s.redq.modify n (fun y => { y with live := false }) ∧
      t.contributions = s.contributions.filter (fun c => !(c.group == x.group && c.seq == x.seq)) ∧ t.mem = s.mem ∧
      (x.die < s.dies.length → code ≠ 0 → (t.die x.die).intcause.getLsbD 4 = true) := by
  intro x t
  simp only [t, State.redDone, if_pos h]
  by_cases hc : code = 0
  · simp [hc, x]
  · simp only [if_neg hc, raise_redq, raise_contributions, State.raise_mem, true_and, x]
    exact fun hd _ => intcause_raise (by decide) hd

/-- Settles O54: the doorbell, the two ends and their conditions, each by its lemma above. -/
theorem reductionEvents : Obligations.ReductionEvents := by
  unfold Obligations.ReductionEvents
  intro s d va
  refine ⟨fun h => reductionDoorbell_waits ?_, fun s1 bs hs ho hr hl ha hb => ?_,
    ⟨fun h => ⟨reductionEnd_waits h, reductionTimeout_waits h⟩, fun h ha => reductionEnd_own h rfl (redOwn_aborts ha),
      fun s1 own h ho => ⟨fun hp => ?_, fun hp hm => ?_, fun f hf hp hm => ?_⟩, fun h ht => ?_, fun h ht => ?_⟩,
    fun n code hn h => ?_, fun f len ps k hf hk => payloadElem_redSum ps hf hk⟩
  · rintro ⟨hs, hr, ho⟩
    obtain h | h | h := h
    · exact absurd (of_decide_eq_true hr) (by omega)
    · omega
    · simp [h] at ho
  · obtain ⟨hq, hm, hn⟩ := redStart_queues (some (s.team s.sel).launch) hl ha hb
    refine ⟨_, _, reductionDoorbell_starts ⟨hs, decide_eq_true hr, ho⟩, hq, hm, rfl, rfl, rfl, rfl, rfl, rfl, rfl, rfl, rfl,
      rfl, rfl, ?_, hn⟩
    simp only [Bool.not_eq_false', Bool.and_eq_true, RedDesc.ok_iff, beq_iff_eq, List.all_eq_true]
    exact ⟨fun ⟨⟨hz, hsrc, hdst, hctr, hmin, hmax, hlen, hfmt, hgrp, hmem⟩, hseq⟩ =>
        ⟨hsrc, hdst, hctr, hmin, hmax, hlen, hfmt, hgrp, hmem, hseq, hz⟩,
      fun ⟨hsrc, hdst, hctr, hmin, hmax, hlen, hfmt, hgrp, hmem, hseq, hz⟩ =>
        ⟨⟨hz, hsrc, hdst, hctr, hmin, hmax, hlen, hfmt, hgrp, hmem⟩, hseq⟩⟩
  · exact reductionEnd_aborted h rfl ho (hp.imp fun c hc => ⟨hc.1, aborts_iff.2 hc.2⟩)
  · refine reductionEnd_incomplete h rfl ho (fun c hc => mt aborts_iff.1 (hp c hc)) (fun hall => ?_)
    obtain ⟨p, hp16, hmem, hfid, hnone⟩ := hm
    obtain ⟨c, hc, he⟩ := redAll_iff.1 hall p hp16 hmem hfid
    exact hnone c hc he
  · exact reductionEnd_complete h rfl ho hf (fun c hc => mt aborts_iff.1 (hp c hc)) (redAll_iff.2 hm)
  · exact (reductionTimeout_turn h rfl).trans (congrArg _ (if_pos ht))
  · exact (reductionTimeout_turn h rfl).trans (congrArg _ (if_neg (Nat.not_le.2 ht)))
  · obtain ⟨hq, hc, hm, hi⟩ := redDone_of_ctr_zero code h
    refine ⟨?_, fun c hmem hg he => ?_, hm, hi⟩
    · rw [hq, getD_modify_eq _ _ _ _ hn]
    · rw [hc] at hmem
      simp [hg, he] at hmem

end Sys2Proof.Machine
end

section
/-! PROOFS. Message rings: what the words of a ring and a send leave, the answer of a message, and the append of one that
arrives (R161 to R164, R328, R329). -/

namespace Sys2Proof.Machine

open Sys2Proof

/-! ## States alike behind the veil -/

section
variable {s t : State} {i : Instr} {p : Thread → Prop} {r : Ref} {rs : List Ref} {n : BitVec 3} {x : Ring}

theorem rings_of_veil (h : t.veil = s.veil) : t.rings = s.rings := (congrArg State.rings h :)
theorem messages_of_veil (h : t.veil = s.veil) : t.messages = s.messages := (congrArg State.messages h :)
theorem mem_of_veil (h : t.veil = s.veil) : t.mem = s.mem := (congrArg State.mem h :)
theorem regs_of_veil (h : t.veil = s.veil) (q : Ref) : (t.thr q).regs = (s.thr q).regs :=
  (congrArg Thread.regs (thr_of_veil h q) :)

theorem thr_modHalf (s : State) (k h : Nat) (f : Half → Half) (q : Ref) : (s.modHalf k h f).thr q = s.thr q := by
  have ht : ((s.modHalf k h f).team q.team).threads = (s.team q.team).threads := by
    by_cases hk : k = q.team
    · by_cases hl : k < s.teams.length
      · rw [← hk, State.modHalf, team_modTeam_eq _ _ _ hl]
      · rw [State.modHalf, modTeam_out _ _ _ (by omega)]
    · rw [State.modHalf, team_modTeam_ne _ _ _ _ hk]
  rw [State.thr, State.thr, ht]

/-- A change of a thread that keeps its registers keeps every thread's. -/
theorem regs_modThr (s : State) (r : Ref) {f : Thread → Thread} (hf : ∀ u, (f u).regs = u.regs) (hr : s.has r) (q : Ref) :
    ((s.modThr r f).thr q).regs = (s.thr q).regs := by
  by_cases hq : r = q
  · rw [← hq, thr_modThr_eq _ _ _ hr, hf]
  · rw [thr_modThr_ne _ _ _ _ hq]

theorem modThr_self (s : State) (r : Ref) : s.modThr r (fun u => u) = s := by
  have hid : (fun x : Team => ({ x with threads := x.threads.modify r.thr fun u => u } : Team)) = id := by
    funext x
    exact congrArg (fun l => ({ x with threads := l } : Team)) (List.modify_id _ _)
  simp only [State.modThr, State.modTeam, hid, List.modify_id]

/-! ## Every lane has retired the word -/

theorem passed_frame (s : State) : { s.passed with teams := s.teams } = s := each_rest _ _ _

theorem passed_rings (s : State) : s.passed.rings = s.rings := (congrArg State.rings (passed_frame s) :)
theorem passed_messages (s : State) : s.passed.messages = s.messages := (congrArg State.messages (passed_frame s) :)

/-- A ring changed once every lane has retired the word. -/
theorem passed_modRing (s : State) (core phys : Nat) (f : Ring → Ring) : s.passed.modRing core phys f =
    { s.passed with rings := s.rings.map fun y => if y.core = core ∧ y.phys = phys then f y else y } := by
  rw [← passed_rings s]
  rfl

theorem passed_has : s.passed.has r ↔ s.has r := has_each _ _ _ _

theorem passed_regs (hb : s.bundled) (q : Ref) : (s.passed.thr q).regs = (s.thr q).regs := by
  by_cases hq : q ∈ s.cur
  · exact (congrArg Thread.regs (thr_each_mem s s.cur (fun _ => Thread.retire) q hb.1 (hb.2 q hq) hq) :)
  · exact (congrArg Thread.regs (thr_each_notMem s s.cur (fun _ => Thread.retire) q hq) :)

/-! ## MRING (R161, R329) -/

theorem lead_of_active (h : s.active i = r :: rs) : s.lead i = r := by rw [State.lead, h, List.headD_cons]

theorem of_issues_active (hi : s.issues i p) (h : s.active i = r :: rs) : s.has r ∧ p (s.thr r) := by
  obtain ⟨hc, hg⟩ := mem_active.1 (h ▸ List.mem_cons_self : r ∈ s.active i)
  exact ⟨hi.1.2 r hc, (hi.2 r hc).2 hg⟩

/-- A fragment-collective word whose own check passes is, behind the veil, its action after every lane has retired it. -/
theorem collective_veil {own : Ref → Verdict} (act : State → List Ref → State) (hi : s.issues i p)
    (ho : own (s.lead i) = .run) : (s.collective i own act).veil = (act s.passed (s.active i)).veil := by
  have hc : s.clear (s.judge i noCheck) := clear_of_issues hi fun _ _ _ _ => rfl
  rw [collective_of_issues act hi ho, perform_veil act hc]
  exact congrArg (fun l => (act s.passed l).veil) (running_of_issues hi fun _ _ _ _ => rfl)

theorem ringCheck_of_ring (own : Ring → Thread → Verdict) (hx : s.teamRing r n = some x) :
    s.ringCheck n own r = own x (s.thr r) := by rw [State.ringCheck, hx]

/-- A word on a ring whose own check passes acts on it once, for the lowest active thread. -/
theorem ringWord_veil {own : Ring → Thread → Verdict} (act : State → Ref → Ring → State) (hi : s.issues i p)
    (hr : s.active i = r :: rs) (hx : s.teamRing r n = some x) (ho : own x (s.thr r) = .run) :
    (s.ringWord i n own act).veil = (act s.passed r x).veil := by
  rw [State.ringWord, collective_veil _ hi (by rw [lead_of_active hr, ringCheck_of_ring own hx, ho]), hr]
  simp only [hx]

section
variable {g : BitVec 3} {a : BitVec 6}

/-! The fields of the word that sets a ring: the base in bits [12:0], LOGN above it, and nothing above that (R161). -/

theorem ringBase_toNat (w : BitVec 32) : (w.extractLsb' 0 13).toNat = w.toNat % 2 ^ 13 := by
  rw [BitVec.extractLsb'_toNat, Nat.shiftRight_zero]
theorem ringLogn_toNat {w : BitVec 32} (h : w.toNat < 2 ^ 16) : (w.extractLsb' 13 3).toNat = w.toNat / 2 ^ 13 := by
  rw [BitVec.extractLsb'_toNat, Nat.shiftRight_eq_div_pow, Nat.mod_eq_of_lt (by omega)]
theorem ringReserved_eq_zero {w : BitVec 32} (h : w.toNat < 2 ^ 16) : w.extractLsb' 16 16 = 0 := by
  refine BitVec.eq_of_toNat_eq ?_
  rw [BitVec.extractLsb'_toNat, Nat.shiftRight_eq_div_pow, Nat.div_eq_of_lt h]
  rfl

theorem ringSetCheck_run {k : Nat} {u : Thread} {w : Nat} (hw : (u.val32 a.toNat).toNat = w)
    (hp : Clean (.mringSet g n a) u) (he : x.en = false) (h16 : w < 2 ^ 16) (hlog : w / 2 ^ 13 ≠ 0)
    (hin : s.inWindow k (w % 2 ^ 13 * 256) (64 + 64 * 2 ^ (w / 2 ^ 13)) = true)
    (haway : (s.half k x.half).scratchAway (w % 2 ^ 13 * 256) (64 + 64 * 2 ^ (w / 2 ^ 13)) = false) :
    s.ringSetCheck k a x u = .run := by
  subst hw
  have hpoison : u.poisoned [u1 a] = false := hp
  have hlogn : (u.val32 a.toNat).extractLsb' 13 3 ≠ 0 := fun h0 => hlog (by rw [← ringLogn_toNat h16, h0]; rfl)
  simp only [State.ringSetCheck, hpoison, ringReserved_eq_zero h16, hlogn, he, ringBase_toNat, ringLogn_toNat h16, hin, haway,
    ne_eq, not_true_eq_false, Bool.false_eq_true, or_self, Bool.not_true, if_false]

theorem mringPop_becomes {k : Nat} (hi : s.issues (.mringPop g n a) (Clean (.mringPop g n a)))
    (hr : s.active (.mringPop g n a) = r :: rs) (hx : s.teamRing r n = some x) (hk : ((s.thr r).val32 a.toNat).toNat = k)
    (h0 : k ≠ 0) (hle : k ≤ x.used) (hd : ∀ q ∈ s.active (.mringPop g n a), s.drainsScratch q = false) :
    Becomes (.mringPop g n a) s
      (s.passed.modRing x.core x.phys fun y => { y with head := y.head + BitVec.ofNat 16 k }) := by
  subst hk
  have hpoison : (s.thr r).poisoned [u1 a] = false := (of_issues_active hi hr).2
  have hdrain : (s.active (.mringPop g n a)).any s.drainsScratch = false := List.any_eq_false.2 fun q hq => by simp [hd q hq]
  refine ⟨_, rfl, ?_⟩
  rw [ringWord_veil _ hi hr hx]
  · rfl
  · simp only [hpoison, h0, Nat.not_lt.2 hle, hdrain, Bool.false_eq_true, or_self, if_false]

/-- A ring as MRING.SET of the word `w` leaves it (R161). -/
def Ring.setTo (x : Ring) (w : Nat) : Ring :=
  { x with base := BitVec.ofNat 13 w, logn := BitVec.ofNat 3 (w / 2 ^ 13), head := 0, tail := 0, en := true }

theorem Ring.setTo_val32 (x : Ring) (w : BitVec 32) :
    ({ x with base := w.extractLsb' 0 13, logn := w.extractLsb' 13 3, head := 0, tail := 0, en := true } : Ring) =
      x.setTo w.toNat := by
  have hb : w.extractLsb' 0 13 = BitVec.ofNat 13 w.toNat := BitVec.eq_of_toNat_eq (by rw [ringBase_toNat, BitVec.toNat_ofNat])
  have hl : w.extractLsb' 13 3 = BitVec.ofNat 3 (w.toNat / 2 ^ 13) := BitVec.eq_of_toNat_eq (by
    rw [BitVec.extractLsb'_toNat, BitVec.toNat_ofNat, Nat.shiftRight_eq_div_pow])
  rw [hb, hl]
  rfl

/-- MRING.SET clears the tail mirror and sets the ring. -/
theorem mringSet_becomes {w : Nat} (hi : s.issues (.mringSet g n a) p) (hr : s.active (.mringSet g n a) = r :: rs)
    (hx : s.teamRing r n = some x) (hw : ((s.thr r).val32 a.toNat).toNat = w)
    (hc : s.ringSetCheck r.team a x (s.thr r) = .run) :
    Becomes (.mringSet g n a) s
      ((s.passed.modHalf r.team (s.thr r).half fun h => h.scratchWrite (x.setTo w).off (List.replicate 64 0)).modRing
        x.core x.phys fun _ => x.setTo w) := by
  subst hw
  refine ⟨_, rfl, ?_⟩
  rw [ringWord_veil _ hi hr hx (by rw [lead_of_active hr, hc])]
  simp only [Ring.setTo_val32]

theorem mringSet_next {w : Nat} (hi : s.issues (.mringSet g n a) p) (hr : s.active (.mringSet g n a) = r :: rs)
    (hx : s.teamRing r n = some x) (hw : ((s.thr r).val32 a.toNat).toNat = w)
    (hc : s.ringSetCheck r.team a x (s.thr r) = .run) :
    ∃ t, exec (.mringSet g n a) s = .next t ∧
      t.rings = (s.rings.map fun y => if y.core = x.core ∧ y.phys = x.phys then x.setTo w else y) ∧
      (∀ q, (t.thr q).regs = (s.thr q).regs) ∧ ∀ c, readByte t.mem c = readByte s.mem c := by
  obtain ⟨t, he, hv⟩ := mringSet_becomes hi hr hx hw hc
  refine ⟨t, he, (rings_of_veil hv).trans ?_, fun q => (regs_of_veil hv q).trans ?_, fun c => ?_⟩
  · rw [← passed_rings s]
    rfl
  · exact (congrArg Thread.regs (thr_modHalf s.passed _ _ _ q)).trans (passed_regs hi.1 q)
  · exact congrArg (readByte · c) ((mem_of_veil hv).trans (congrArg State.mem (passed_frame s) :))

/-- The messages that wait for room in a ring (R163). -/
def Ring.waits (x : Ring) (m : Message) : Bool := m.met && m.core == x.core && m.ring == x.phys

/-- MRING.OFF answers the messages that wait for room, and turns the ring off. -/
theorem mringOff_becomes (hi : s.issues (.mringOff g n) p) (hr : s.active (.mringOff g n) = r :: rs)
    (hx : s.teamRing r n = some x) :
    Becomes (.mringOff g n) s ((s.passed.noRing x.waits).modRing x.core x.phys fun y => { y with en := false }) :=
  ⟨_, rfl, ringWord_veil _ hi hr hx rfl⟩

/-! ### The record -/

theorem toNat_append_eq_add {m n : Nat} (a : BitVec m) (b : BitVec n) : (a ++ b).toNat = 2 ^ n * a.toNat + b.toNat := by
  rw [BitVec.toNat_append, Nat.shiftLeft_eq, Nat.mul_comm, Nat.two_pow_add_eq_or_of_lt b.isLt]

theorem Ring.record_eq (x : Ring) : x.record = BitVec.ofNat 64 (x.tail.toNat + 2 ^ 16 * x.head.toNat +
    2 ^ 32 * x.base.toNat + 2 ^ 45 * x.logn.toNat + 2 ^ 48 * x.en.toNat + 2 ^ 49 * (x.phys % 8) +
    2 ^ 52 * (x.core % 256)) := by
  refine BitVec.eq_of_toNat_eq ?_
  have htail := x.tail.isLt
  have hhead := x.head.isLt
  have hbase := x.base.isLt
  have hlogn := x.logn.isLt
  have hen := x.en.toNat_lt
  simp only [Ring.record, toNat_append_eq_add, BitVec.toNat_ofNat, BitVec.toNat_ofBool]
  omega

/-- A thread as MRING.Q leaves it. -/
def State.withRecord (s : State) (n : BitVec 3) (d : BitVec 6) (r : Ref) (u : Thread) : Thread :=
  (s.teamRing r n).elim u fun y => u.setPair d.toNat y.record tagI32

theorem mringQ_completes {d : BitVec 6} (hi : s.issues (.mringQ g n d) fun _ => True)
    (hx : ∀ q ∈ s.active (.mringQ g n d), s.teamRing q n = some x) (hr : s.active (.mringQ g n d) ≠ []) :
    Completes (.mringQ g n d) s (Writes fun u => pair u.ctl d x.record tagI32) := by
  have hlead : s.ringCheck n (fun _ _ => .run) (s.lead (.mringQ g n d)) = .run :=
    ringCheck_of_ring _ (hx _ (lead_mem_active hr))
  refine completesAt_of_acts (own := noCheck) (f := fun _ => s.withRecord n d)
    (congrArg Host.Outcome.next (collective_of_issues _ hi hlead)) (fun t rs => ?_)
    hi (fun _ _ _ _ => rfl) (fun _ => veiled_lane _ _ _ _) fun q hq hg _ => ?_
  · refine congrArg (fun f => (rs.foldl f t).veil) (funext fun x => funext fun q => ?_)
    show _ = x.modThr q fun u => (s.teamRing q n).elim u fun y => u.setPair d.toNat y.record tagI32
    cases s.teamRing q n with
    | none => exact (modThr_self x q).symm
    | some y => rfl
  · rw [State.withRecord, hx q (mem_active.2 ⟨hq, hg⟩)]
    exact writes_setPair (s.thr q) d _ tagI32 (pair_lt_of_accepts (hi.2 q hq).1 hg List.mem_cons_self)

/-! ### The watch -/

/-- The watch of a ring (R161). -/
def Ring.watched (x : Ring) : Watch :=
  { line := none, pa := 0, va := 0, level := 0, glob := false, asid := 0, ring := some (x.core, x.phys), armed := x.tail,
    triggered := false, entry := false }

/-- A thread's release of its watch changes its own watch and the monitors. -/
theorem releaseWatch_eq (s : State) (r : Ref) : ∃ l, s.releaseWatch r = { s with monitors := l } ∨
    s.releaseWatch r = { s.modThr r (fun t => { t with watch := none }) with monitors := l } := by
  unfold State.releaseWatch
  split
  · exact ⟨_, .inl rfl⟩
  · split
    · split
      · exact ⟨_, .inr rfl⟩
      · exact ⟨_, .inr rfl⟩
    · exact ⟨_, .inr rfl⟩

theorem mringWatch_becomes (hi : s.issues (.mringWatch g n) p) (hr : s.active (.mringWatch g n) = [r])
    (hx : s.teamRing r n = some x) : Becomes (.mringWatch g n) s
      ((s.passed.releaseWatch r).modThr r fun t => { t with watch := some x.watched }) := by
  refine ⟨_, rfl, ?_⟩
  rw [collective_veil _ hi (by rw [lead_of_active hr, ringCheck_of_ring _ hx]), hr]
  simp only [List.foldl_cons, List.foldl_nil, hx]
  rfl

theorem releaseWatch_has (s : State) (r q : Ref) : (s.releaseWatch r).has q ↔ s.has q := by
  obtain ⟨l, h | h⟩ := releaseWatch_eq s r
  · rw [h]; rfl
  · rw [h]; exact has_modThr s r q _

theorem releaseWatch_rings (s : State) (r : Ref) : (s.releaseWatch r).rings = s.rings := by
  obtain ⟨l, h | h⟩ := releaseWatch_eq s r
  · rw [h]
  · rw [h]; rfl

theorem releaseWatch_regs (hr : s.has r) (q : Ref) : ((s.releaseWatch r).thr q).regs = (s.thr q).regs := by
  obtain ⟨l, h | h⟩ := releaseWatch_eq s r
  · rw [h]; rfl
  · rw [h]; exact regs_modThr s r (fun _ => by rfl) hr q

theorem mringWatch_next (hi : s.issues (.mringWatch g n) p) (hr : s.active (.mringWatch g n) = [r])
    (hx : s.teamRing r n = some x) : ∃ t, exec (.mringWatch g n) s = .next t ∧ (t.thr r).watch = some x.watched ∧
      t.rings = s.rings ∧ (∀ q, (t.thr q).regs = (s.thr q).regs) ∧ ∀ c, readByte t.mem c = readByte s.mem c := by
  obtain ⟨t, he, hv⟩ := mringWatch_becomes hi hr hx
  have hhas : s.passed.has r := passed_has.2 (of_issues_active hi hr).1
  have hrel : (s.passed.releaseWatch r).has r := (releaseWatch_has _ _ _).2 hhas
  have hthr := (thr_of_veil hv r).trans (congrArg Thread.veil (thr_modThr_eq _ r _ hrel))
  refine ⟨t, he, (congrArg Thread.watch hthr :), (rings_of_veil hv).trans ?_, fun q => ?_, fun c => ?_⟩
  · exact (releaseWatch_rings _ r).trans (passed_rings s)
  · exact (regs_of_veil hv q).trans ((regs_modThr _ r (fun _ => by rfl) hrel q).trans
      ((releaseWatch_regs hhas q).trans (passed_regs hi.1 q)))
  · exact congrArg (readByte · c) ((mem_of_veil hv).trans ((State.releaseWatch_mem _ r).trans
      (congrArg State.mem (passed_frame s) :)))

end
end

end Sys2Proof.Machine
end

section
/-! PROOFS. Messages: the packets of a message and of its answer, what MSEND leaves, the append of a message that arrives, and
the return of its answer; with the words of a ring they settle O44 (R161 to R164, R328, R329). -/

namespace Sys2Proof.Machine

open Sys2Proof

/-! ## A packet between cores (R78, R79, R163) -/

theorem portPush_eq (s : State) (id : Nat) (p : Packet) : ∃ l, l ≠ s.ports ∧ s.portPush id p = { s with ports := l } := by
  unfold State.portPush
  split
  next h =>
    obtain ⟨y, hy, hid⟩ := List.any_eq_true.1 h
    refine ⟨_, fun he => ?_, rfl⟩
    have hfix := congrArg Port.fifo (List.map_inj_left.1 (he.trans (List.map_id _).symm) y hy)
    simp [beq_iff_eq.1 hid] at hfix
  next => exact ⟨_, fun he => by simp at he, rfl⟩

theorem messageRoute_eq_cons (a b : Nat) : ∃ id l, messageRoute a b = id :: l := by
  unfold messageRoute
  dsimp only
  split <;> exact ⟨_, _, rfl⟩

/-- A message's packet changes the ports alone. -/
theorem packetGo_messagePacket (s s' : State) (n a b : Nat) (resp : Bool) :
    ∃ l, l ≠ s.ports ∧ s.packetGo (s'.messagePacket n a b resp) = { s with ports := l } := by
  obtain ⟨id, l, hl⟩ := messageRoute_eq_cons a b
  simp only [State.packetGo, State.messagePacket, hl]
  exact portPush_eq s id _

theorem sendMessage_eq (s : State) (n : Nat) : ∃ l, s.sendMessage n = { s with ports := l } := by
  unfold State.sendMessage
  dsimp only
  split
  · exact ⟨_, rfl⟩
  · obtain ⟨l, -, hl⟩ := packetGo_messagePacket s s n (s.coreOf (s.messages.getD n default).own)
      (s.messages.getD n default).core false
    exact ⟨l, hl⟩

/-! ## The answer of a message (R163) -/

/-- A message with its status: one that was at its ring's core is on its way back. -/
def Message.answered (m : Message) (status : BitVec 32) : Message :=
  { m with status := some status, here := false, met := m.met && !m.here }

section
variable {s : State} {k n : Nat} {m : Message}

theorem getD_of_getElem? (hm : s.messages[n]? = some m) : s.messages.getD n default = m := by
  rw [List.getD_eq_getElem?_getD, hm, Option.getD_some]

/-- A change of a message that is known. -/
theorem modMessage_of_getElem? {f : Message → Message} {y : Message} (hm : s.messages[n]? = some m) (hf : f m = y) :
    s.modMessage n f = s.modMessage n fun _ => y := by
  refine congrArg (fun l => ({ s with messages := l } : State)) (List.ext_getElem? fun k => ?_)
  by_cases hk : n = k
  · subst hk
    simp only [List.getElem?_modify_eq, hm, Option.map_eq_map, Option.map_some, hf]
  · simp only [List.getElem?_modify_ne _ _ hk]

theorem modMessage_modMessage (s : State) (n : Nat) (f g : Message → Message) :
    (s.modMessage n f).modMessage n g = s.modMessage n (g ∘ f) :=
  congrArg (fun l => ({ s with messages := l } : State)) (List.modify_modify_eq _ _ _ _)

theorem modMessage_eq (hm : s.messages[n]? = some m) (f : Message → Message) :
    (s.modMessage n f).messages[n]? = some (f m) := by
  simp only [State.modMessage, List.getElem?_modify_eq, hm, Option.map_eq_map, Option.map_some]

theorem modMessage_ne (f : Message → Message) (h : n ≠ k) : (s.modMessage n f).messages[k]? = s.messages[k]? :=
  List.getElem?_modify_ne _ _ h

theorem sendAnswer_eq (s : State) (n : Nat) : ∃ l, l ≠ s.ports ∧
    s.sendAnswer n = { s.modMessage n (fun x => { x with here := false, met := false }) with ports := l } :=
  packetGo_messagePacket (s.modMessage n fun x => { x with here := false, met := false }) s n _ _ true

theorem answered_of_here (hh : m.here = true) (status : BitVec 32) :
    m.answered status = { m with status := some status, here := false, met := false } := by
  simp only [Message.answered, hh, Bool.not_true, Bool.and_false]

/-- An answer changes its message and, where that is at its ring's core, the ports. -/
theorem answer_eq (hm : s.messages[n]? = some m) (status : BitVec 32) :
    ∃ l, s.answer n status = { s.modMessage n (fun _ => m.answered status) with ports := l } ∧
      (m.here = true → l ≠ s.ports) := by
  have hd : (s.messages.getD n default).here = m.here := by rw [getD_of_getElem? hm]
  obtain hh | hh := Bool.eq_false_or_eq_true m.here
  · obtain ⟨l, hne, hl⟩ := sendAnswer_eq (s.modMessage n fun x => { x with status := some status }) n
    refine ⟨l, ?_, fun _ => hne⟩
    have hans : s.answer n status = (s.modMessage n fun x => { x with status := some status }).sendAnswer n :=
      if_pos (hd.trans hh)
    rw [hans, hl, modMessage_modMessage, modMessage_of_getElem? hm (answered_of_here hh status).symm]
  · refine ⟨s.ports, ?_, fun h => absurd (hh.symm.trans h) Bool.false_ne_true⟩
    have hans : s.answer n status = s.modMessage n fun x => { x with status := some status } :=
      if_neg (by rw [hd, hh]; exact Bool.false_ne_true)
    rw [hans, modMessage_of_getElem? hm (y := m.answered status)]
    · rfl
    · simp only [Message.answered, hh, Bool.not_false, Bool.and_true]

theorem answer_messages_eq (hm : s.messages[n]? = some m) (status : BitVec 32) :
    (s.answer n status).messages[n]? = some (m.answered status) := by
  obtain ⟨l, hl, -⟩ := answer_eq hm status
  rw [hl]
  exact modMessage_eq hm fun _ => m.answered status

theorem answer_messages_ne (s : State) (status : BitVec 32) (h : n ≠ k) :
    (s.answer n status).messages[k]? = s.messages[k]? := by
  unfold State.answer
  dsimp only
  split
  · obtain ⟨l, -, hl⟩ := sendAnswer_eq (s.modMessage n fun x => { x with status := some status }) n
    rw [hl]
    exact (modMessage_ne _ h).trans (modMessage_ne _ h)
  · exact modMessage_ne _ h

/-! ### The messages that no ring takes (R161, R163) -/

/-- `p` holds of a message that has no status yet. -/
def Message.refused (p : Message → Bool) (m : Message) : Bool := !m.done && m.status.isNone && p m

/-- Message `n` receives NO_RING where `p` holds of it and it has no status yet. -/
def State.refuse (p : Message → Bool) (s : State) (n : Nat) : State :=
  if (s.messages.getD n default).refused p then s.answer n 2 else s

theorem noRing_eq (s : State) (p : Message → Bool) :
    s.noRing p = (List.range s.messages.length).foldl (State.refuse p) s := rfl

theorem refuse_ne (p : Message → Bool) (s : State) (h : n ≠ k) : (s.refuse p n).messages[k]? = s.messages[k]? := by
  unfold State.refuse
  split
  · exact answer_messages_ne s 2 h
  · rfl

theorem refuse_eq (p : Message → Bool) (hm : s.messages[n]? = some m) :
    (s.refuse p n).messages[n]? = some (if m.refused p then m.answered 2 else m) := by
  rw [State.refuse, getD_of_getElem? hm]
  split
  · exact answer_messages_eq hm 2
  · exact hm

theorem refused_answered (p : Message → Bool) (m : Message) (status : BitVec 32) : (m.answered status).refused p = false := by
  simp [Message.refused, Message.answered]

theorem foldl_refuse_keeps (p : Message → Bool) (l : List Nat) (hm : s.messages[k]? = some m) (hr : m.refused p = false) :
    (l.foldl (State.refuse p) s).messages[k]? = some m := by
  induction l generalizing s with
  | nil => exact hm
  | cons n l ih =>
    refine ih ?_
    by_cases h : n = k
    · rw [h, refuse_eq p hm, hr, if_neg Bool.false_ne_true]
    · rw [refuse_ne p s h, hm]

theorem foldl_refuse_answers (p : Message → Bool) {l : List Nat} (hk : k ∈ l) (hm : s.messages[k]? = some m)
    (hr : m.refused p = true) : (l.foldl (State.refuse p) s).messages[k]? = some (m.answered 2) := by
  induction l generalizing s with
  | nil => simp at hk
  | cons n l ih =>
    by_cases h : n = k
    · refine foldl_refuse_keeps p l ?_ (refused_answered p m 2)
      rw [h, refuse_eq p hm, hr, if_pos rfl]
    · exact ih (List.mem_of_ne_of_mem (Ne.symm h) hk) (by rw [refuse_ne p s h, hm])

/-- A message that `p` holds of and that has no status yet is answered NO_RING. -/
theorem noRing_answers {p : Message → Bool} (hm : s.messages[k]? = some m) (hr : m.refused p = true) :
    (s.noRing p).messages[k]? = some (m.answered 2) := by
  rw [noRing_eq]
  exact foldl_refuse_answers p (List.mem_range.2 (List.getElem?_eq_some_iff.1 hm).1) hm hr

theorem foldl_refuse_self {p : Message → Bool} (l : List Nat)
    (h : ∀ n ∈ l, (s.messages.getD n default).refused p = false) : l.foldl (State.refuse p) s = s := by
  induction l with
  | nil => rfl
  | cons n l ih =>
    have hn : s.refuse p n = s := if_neg (Bool.eq_false_iff.1 (h n List.mem_cons_self))
    rw [List.foldl_cons, hn]
    exact ih fun q hq => h q (List.mem_cons_of_mem n hq)

/-- Where `p` holds of no message, none is answered. -/
theorem noRing_self {p : Message → Bool} (h : ∀ m ∈ s.messages, p m = false) : s.noRing p = s := by
  rw [noRing_eq]
  refine foldl_refuse_self _ fun n hn => ?_
  have hlt : n < s.messages.length := List.mem_range.1 hn
  rw [List.getD_eq_getElem?_getD, List.getElem?_eq_getElem hlt, Option.getD_some, Message.refused,
    h _ (List.getElem_mem hlt), Bool.and_false]

/-! ### MRING.OFF (R161, R329) -/

section
variable {p : Thread → Prop} {g n : BitVec 3} {r : Ref} {rs : List Ref} {x : Ring} (hi : s.issues (.mringOff g n) p)
  (hr : s.active (.mringOff g n) = r :: rs) (hx : s.teamRing r n = some x)
include hi hr hx

/-- Where no message waits for room in its ring, MRING.OFF changes the ring alone. -/
theorem mringOff_alone (hm : ∀ m ∈ s.messages, m.met = true → m.core = x.core → m.ring ≠ x.phys) :
    Becomes (.mringOff g n) s (s.passed.modRing x.core x.phys fun y => { y with en := false }) := by
  have hnone : s.passed.noRing x.waits = s.passed := noRing_self fun m hmem => Bool.eq_false_iff.2 fun h => by
    simp only [Ring.waits, Bool.and_eq_true, beq_iff_eq] at h
    obtain ⟨⟨hmet, hcore⟩, hring⟩ := h
    exact hm m (passed_messages s ▸ hmem) hmet hcore hring
  exact hnone ▸ mringOff_becomes hi hr hx

theorem mringOff_answers : ∃ t, exec (.mringOff g n) s = .next t ∧
    (∀ y ∈ t.rings, y.core = x.core → y.phys = x.phys → y.en = false) ∧
    ∀ k m, s.messages[k]? = some m → m.met = true → m.core = x.core → m.ring = x.phys → m.done = false → m.status = none →
      (t.messages.getD k default).status = some 2 := by
  obtain ⟨t, he, hv⟩ := mringOff_becomes hi hr hx
  refine ⟨t, he, fun y hy hcore hphys => ?_, fun k m hk hmet hcore hring hd hs => ?_⟩
  · rw [rings_of_veil hv] at hy
    obtain ⟨y0, -, rfl⟩ := List.mem_map.1 hy
    by_cases h0 : y0.core = x.core ∧ y0.phys = x.phys
    · rw [if_pos h0]
    · rw [if_neg h0] at hcore hphys
      exact absurd ⟨hcore, hphys⟩ h0
  · have hrefused : m.refused x.waits = true := by simp [Message.refused, Ring.waits, hmet, hcore, hring, hd, hs]
    have hans : t.messages[k]? = some (m.answered 2) := by
      rw [messages_of_veil hv]
      exact noRing_answers (by rw [passed_messages, hk]) hrefused
    rw [getD_of_getElem? hans]
    rfl

end

/-! ### The answer comes back (R163) -/

theorem messageBack_eq (hm : s.messages[n]? = some m) (hd : m.done = false) : s.messageBack n =
    (s.modMessage n fun x => { x with done := true }).modThr m.own fun t => t.set32 m.dst.toNat (m.status.getD 0) tagI32 := by
  rw [State.messageBack, getD_of_getElem? hm, hd, if_neg Bool.false_ne_true]
  rfl

theorem messageBack_gives (hm : s.messages[n]? = some m) (hd : m.done = false) (ho : s.has m.own) (h0 : m.dst ≠ 0) :
    ((s.messageBack n).thr m.own).reg m.dst.toNat = { val := (m.status.getD 0).setWidth 64, tag := tagI32 } := by
  have hn : m.dst.toNat ≠ 0 := fun h => h0 (BitVec.eq_of_toNat_eq h)
  rw [messageBack_eq hm hd, thr_modThr_eq (s.modMessage n _) m.own _ ho, Thread.set32, reg_setReg _ _ _ _ m.dst.isLt,
    if_neg hn, if_pos rfl]

theorem messageBack_done (hm : s.messages[n]? = some m) (hd : m.done = false) :
    ((s.messageBack n).messages.getD n default).done = true := by
  rw [messageBack_eq hm hd]
  exact congrArg Message.done (getD_of_getElem? (modMessage_eq hm _))

/-! ### The append (R162 to R164) -/

section
variable (hm : s.messages[s.sel]? = some m) (hd : m.done = false) (hh : m.here = true) (hs : m.status = none)
include hm hd hh hs

theorem messageAppend_noCore (hc : s.coreEnabled m.core = false) : exec .messageAppend s = .next (s.answer s.sel 4) := by
  have hl : s.sel < s.messages.length := (List.getElem?_eq_some_iff.1 hm).1
  show execMessageAppend s = _
  simp [execMessageAppend, hm, hd, hh, hs, Nat.not_le.2 hl, hc]

theorem messageAppend_noRing (hc : s.coreEnabled m.core = true) (hx : s.ringAt m.core m.ring = none) :
    exec .messageAppend s = .next (s.answer s.sel 2) := by
  have hl : s.sel < s.messages.length := (List.getElem?_eq_some_iff.1 hm).1
  show execMessageAppend s = _
  simp [execMessageAppend, hm, hd, hh, hs, Nat.not_le.2 hl, hc, hx]

/-- At a ring the message is judged by the ring, then by its sender's address space, then by the room. -/
theorem messageAppend_ring {x : Ring} (hc : s.coreEnabled m.core = true) (hx : s.ringAt m.core m.ring = some x) :
    exec .messageAppend s = .next (
      if x.en = false ∨ (s.team x.team).status = .retired then s.answer s.sel 2
      else if ((s.team x.team).xasid.setWidth 16 : BitVec 16) ≠ (s.team m.own.team).xasid.setWidth 16 then s.answer s.sel 3
      else if x.entries ≤ x.used ∨ (s.team x.team).status ≠ .resident then
        if m.wait then s.modMessage s.sel fun y => { y with met := true } else s.answer s.sel 1
      else (s.appendMessage s.sel x).answer s.sel 0) := by
  have hl : s.sel < s.messages.length := (List.getElem?_eq_some_iff.1 hm).1
  show execMessageAppend s = _
  simp [execMessageAppend, hm, hd, hh, hs, Nat.not_le.2 hl, hc, hx]

section
variable {x : Ring} (hc : s.coreEnabled m.core = true) (hx : s.ringAt m.core m.ring = some x)
include hc hx

theorem messageAppend_ringOff (ho : x.en = false ∨ (s.team x.team).status = .retired) :
    exec .messageAppend s = .next (s.answer s.sel 2) :=
  (messageAppend_ring hm hd hh hs hc hx).trans (congrArg _ (if_pos ho))

variable (ho : ¬(x.en = false ∨ (s.team x.team).status = .retired))
include ho

theorem messageAppend_denied (ha : ((s.team x.team).xasid.setWidth 16 : BitVec 16) ≠ (s.team m.own.team).xasid.setWidth 16) :
    exec .messageAppend s = .next (s.answer s.sel 3) :=
  (messageAppend_ring hm hd hh hs hc hx).trans (congrArg _ ((if_neg ho).trans (if_pos ha)))

variable (ha : ((s.team x.team).xasid.setWidth 16 : BitVec 16) = (s.team m.own.team).xasid.setWidth 16)
include ha

theorem messageAppend_delivered (hr : x.used < x.entries) (ht : (s.team x.team).status = .resident) :
    exec .messageAppend s = .next ((s.appendMessage s.sel x).answer s.sel 0) :=
  have hroom : ¬(x.entries ≤ x.used ∨ (s.team x.team).status ≠ .resident) := not_or.2 ⟨Nat.not_le.2 hr, Classical.not_not.2 ht⟩
  (messageAppend_ring hm hd hh hs hc hx).trans
    (congrArg _ ((if_neg ho).trans ((if_neg (Classical.not_not.2 ha)).trans (if_neg hroom))))

theorem messageAppend_full (hf : x.entries ≤ x.used ∨ (s.team x.team).status ≠ .resident) :
    exec .messageAppend s =
      .next (if m.wait then s.modMessage s.sel fun y => { y with met := true } else s.answer s.sel 1) :=
  (messageAppend_ring hm hd hh hs hc hx).trans
    (congrArg _ ((if_neg ho).trans ((if_neg (Classical.not_not.2 ha)).trans (if_pos hf))))

end

end

end

/-! ## MSEND (R142, R163, R328) -/

/-- An accepted word whose guard is true is judged by its own check. -/
theorem judge_of_active {s : State} {i : Instr} {own : Ref → Verdict} {r : Ref} (h : s.accepts i r = true)
    (ha : (s.thr r).active i = true) : s.judge i own r = own r := by
  have hg : (s.thr r).pred (infoOf i).g = true := ha
  simp only [State.accepts, hg, Bool.and_eq_true, Bool.not_eq_true', Bool.not_true, Bool.false_or,
    Option.isNone_iff_eq_none] at h
  obtain ⟨⟨⟨hhint, hwide⟩, hmods⟩, ⟨⟨hrsv, hord⟩, hhead⟩, hregion⟩ := h
  simp [State.judge, State.judgeWord, joinRegion, hg, hhint, hwide, hmods, hrsv, hord, hhead, hregion]

section
variable {s : State} {v : Ref → Verdict} {r : Ref} {w : Wait}

theorem lanes_of_wait (hc : s.cur = [r]) (hv : v r = .wait w) (hw : (Verdict.wait w).walks = false) :
    s.badLanes v = [] ∧ s.stalledLanes v = [r] ∧ s.goLanes v = [] ∧ s.waitOf v r = some w := by
  have hbad : s.badLanes v = [] := by simp [State.badLanes, State.anyLane, hc, hv, Verdict.fault?]
  have hstall : s.stalledLanes v = [r] := by simp [State.stalledLanes, hbad, hc, hv, Verdict.wait?]
  refine ⟨hbad, hstall, ?_, ?_⟩
  · simp [State.goLanes, hbad, hstall, hc]
  · simp [State.waitOf, hc, hv, hw, Verdict.wait?]

/-- The one lane of a bundle waits: it takes its wait, and nothing else is done. -/
theorem perform_wait (hc : s.cur = [r]) (hv : v r = .wait w) (hw : (Verdict.wait w).walks = false) :
    (s.perform v fun a _ => a).veil = (s.modThr r fun t => t.stall w s.gtime).veil := by
  obtain ⟨hbad, hstall, hgo, hwait⟩ := lanes_of_wait hc hv hw
  rw [State.perform, veil_settleAll]
  simp only [State.trapBad, State.waitStalled, State.notePath, State.countRetired, hbad, hstall, hgo, hwait,
    State.fragLeads, List.filter_nil, List.foldl_nil, List.foldl_cons]

end

section
variable {s : State} {i : Instr} {p : Thread → Prop} {x y z : BitVec 6} {wait : Bool} {r : Ref}

/-- A lane's checks pass (R163, R328). -/
theorem sendCheck_run {w : Nat} (hw : ((s.thr r).val32 y.toNat).toNat = w) (hp : (s.thr r).poisoned [u1 y, u1 z] = false)
    (hlen : w / 2 ^ 11 % 8 ≠ 0) (hzero : w / 2 ^ 14 % 4 = 0) (halign : ((s.thr r).val32 z.toNat).toNat % 8 = 0)
    (hscr : ∃ h o, s.scratchAt r ((s.thr r).val32 z.toNat) (w / 2 ^ 11 % 8 * 8) = some (h, o) ∧
      (s.half r.team h).scratchAway o (w / 2 ^ 11 % 8 * 8) = false) (hall : s.allPerformed r false = true) :
    s.sendCheck y z r = .run := by
  subst hw
  have hn : sendLen ((s.thr r).val32 y.toNat) = ((s.thr r).val32 y.toNat).toNat / 2 ^ 11 % 8 * 8 := by
    rw [sendLen, BitVec.extractLsb'_toNat, Nat.shiftRight_eq_div_pow]
  have hrsv : ((s.thr r).val32 y.toNat).extractLsb' 14 2 = 0 := by
    refine BitVec.eq_of_toNat_eq ?_
    rw [BitVec.extractLsb'_toNat, Nat.shiftRight_eq_div_pow, hzero]
    rfl
  obtain ⟨h, o, hat, haway⟩ := hscr
  have hlen0 : ((s.thr r).val32 y.toNat).toNat / 2 ^ 11 % 8 * 8 ≠ 0 := Nat.mul_ne_zero hlen (by decide)
  simp only [State.sendCheck, hp, hn, hrsv, hlen0, halign, hat, haway, hall, Bool.false_eq_true, ne_eq, not_true_eq_false,
    or_self, if_false, if_true]

/-- The lanes whose messages go out with this issue of the word. -/
def State.freshLanes (s : State) (i : Instr) (y z : BitVec 6) : List Ref :=
  (s.active i).filter fun r => match (s.thr r).wait with | some (.message _) => false | _ => s.sendCheck y z r == .run

/-- What each lane of the bundle does in MSEND. -/
def State.sendVerdicts (s : State) (i : Instr) (y z : BitVec 6) : Ref → Verdict :=
  s.judge i fun r => s.sendVerdict y z (s.messages.length + (s.freshLanes i y z).idxOf r) r

/-- MSEND judges its lanes, adds the messages of the fresh ones, and sends them. -/
theorem sendWord_eq (s : State) (i : Instr) (x y z : BitVec 6) (wait : Bool) : s.sendWord i x y z wait =
    (List.range (s.freshLanes i y z).length).foldl (fun u k => u.sendMessage (s.messages.length + k))
      { s.perform (s.sendVerdicts i y z) (fun a _ => a) with
        messages := (s.perform (s.sendVerdicts i y z) fun a _ => a).messages ++ (s.freshLanes i y z).map fun r =>
          { s.messageOf x y z wait r with
            done := !((s.freshLanes i y z).filter fun r => (s.stalledLanes (s.sendVerdicts i y z)).contains r).contains r } } :=
  rfl

/-- Lanes whose messages have been answered retire the word. -/
theorem sendWord_retires (hi : s.issues i fun _ => True)
    (hm : ∀ q ∈ s.active i, ∃ k m, (s.thr q).wait = some (.message k) ∧ s.messages[k]? = some m ∧ m.done = true) :
    (s.sendWord i x y z wait).veil = s.passed.veil := by
  have hfresh : s.freshLanes i y z = [] := List.filter_eq_nil_iff.2 fun q hq => by
    obtain ⟨k, m, hwait, -⟩ := hm q hq
    simp [hwait]
  have hclear : s.clear (s.sendVerdicts i y z) := clear_of_issues hi fun q hq hg _ => by
    obtain ⟨k, m, hwait, hk, hd⟩ := hm q (mem_active.2 ⟨hq, hg⟩)
    simp only [State.sendVerdict, hwait, getD_of_getElem? hk, hd, if_true]
  rw [sendWord_eq, hfresh]
  simp only [List.length_nil, List.range_zero, List.foldl_nil, List.map_nil, List.append_nil]
  exact perform_veil (fun a _ => a) hclear

/-- One lane that passes its checks: its message joins the others and goes out, and the lane waits for its answer. -/
theorem sendWord_sends (hi : s.issues i p) (hc : s.cur = [r]) (ha : (s.thr r).active i = true) (hw : (s.thr r).wait = none)
    (hrun : s.sendCheck y z r = .run) : ∃ (t : State) (l : List Port),
      s.sendWord i x y z wait = { t with messages := s.messages ++ [s.messageOf x y z wait r], ports := l } ∧
      t.veil = (s.modThr r fun u => u.stall (.message s.messages.length) s.gtime).veil := by
  have hactive : s.active i = [r] := by
    rw [State.active, hc]
    exact List.filter_cons_of_pos ha
  have hfresh : s.freshLanes i y z = [r] := by
    rw [State.freshLanes, hactive]
    simp [hw, hrun]
  have hv : s.sendVerdicts i y z r = .wait (.message s.messages.length) := by
    rw [State.sendVerdicts, judge_of_active (hi.2 r (hc ▸ List.mem_cons_self)).1 ha, hfresh]
    simp [State.sendVerdict, hw, hrun]
  have hveil := perform_wait hc hv rfl
  obtain ⟨-, hstall, -⟩ := lanes_of_wait hc hv rfl
  rw [sendWord_eq, hfresh, hstall]
  generalize s.perform (s.sendVerdicts i y z) (fun a _ => a) = t at hveil ⊢
  have hmsg : t.messages = s.messages := (messages_of_veil hveil).trans rfl
  have hsent : ([r].filter fun q => [r].contains q).contains r = true := by simp
  obtain ⟨l, hl⟩ := sendMessage_eq { t with messages := s.messages ++ [s.messageOf x y z wait r] } s.messages.length
  refine ⟨t, l, ?_, hveil⟩
  simp only [List.map_cons, List.map_nil, hmsg, hsent]
  exact hl

/-- So MSEND leaves the state. -/
theorem msend_waits (hi : s.issues i p) (hc : s.cur = [r]) (ha : (s.thr r).active i = true) (hw : (s.thr r).wait = none)
    (hrun : s.sendCheck y z r = .run) (he : exec i s = .next (s.sendWord i x y z wait)) :
    ∃ t, exec i s = .next t ∧ t.messages = s.messages ++ [s.messageOf x y z wait r] ∧
      (t.thr r).wait = some (.message s.messages.length) ∧ (t.thr r).pc = (s.thr r).pc ∧
      (∀ q, (t.thr q).regs = (s.thr q).regs) ∧ ∀ c, readByte t.mem c = readByte s.mem c := by
  obtain ⟨t, l, ht, hveil⟩ := sendWord_sends (x := x) (wait := wait) hi hc ha hw hrun
  have hr : s.has r := hi.1.2 r (hc ▸ List.mem_cons_self)
  have hthr : (t.thr r).veil = ((s.thr r).stall (.message s.messages.length) s.gtime).veil := by
    rw [thr_of_veil hveil, thr_modThr_eq _ _ _ hr]
  refine ⟨_, he.trans (congrArg Host.Outcome.next ht), rfl, (congrArg Thread.wait hthr :), (congrArg Thread.pc hthr :),
    fun q => ?_, fun c => ?_⟩
  · exact (regs_of_veil hveil q).trans (regs_modThr s r (fun _ => by rfl) hr q)
  · exact congrArg (readByte · c) ((mem_of_veil hveil).trans rfl)

end

/-- Settles O44: the words of a ring each by what it leaves, MSEND by the lane that it makes wait and by its retirement, and
the append and the return of an answer case by case. -/
theorem messagesAndRings : Obligations.MessagesAndRings := by
  unfold Obligations.MessagesAndRings
  intro s g n d a z r rs
  dsimp only
  refine ⟨fun x hx => ⟨?_, ?_, ?_, ?_, ?_, ?_⟩, ?_, ?_, fun m hm hd hh hs =>
    ⟨messageAppend_noCore hm hd hh hs, fun hc => ⟨messageAppend_noRing hm hd hh hs hc, fun x hx => ?_⟩, fun status => ?_⟩,
    fun k m hm hd ho h0 => ⟨messageBack_gives hm hd ho h0, messageBack_done hm hd⟩⟩
  · rintro _ rfl hi hr he h16 hlog hin haway
    exact mringSet_next hi hr hx rfl (ringSetCheck_run rfl (of_issues_active hi hr).2 he h16 hlog hin haway)
  · rintro _ rfl hi hr hm
    rw [← passed_modRing]
    exact mringOff_alone hi hr hx hm
  · rintro _ rfl hi hr
    exact mringOff_answers hi hr hx
  · rintro _ rfl hi hr h0 hle hd
    rw [← passed_modRing]
    exact mringPop_becomes hi hr hx rfl h0 hle hd
  · rintro _ rfl hi hr hq
    rw [← Ring.record_eq]
    exact mringQ_completes hi (by rw [hr]; exact List.forall_mem_cons.2 ⟨hx, hq⟩) (by rw [hr]; exact List.cons_ne_nil _ _)
  · rintro _ rfl hi hr
    obtain ⟨t, he, hw, hrest⟩ := mringWatch_next hi hr hx
    exact ⟨t, he, ⟨x.watched, hw, rfl, rfl, rfl, rfl⟩, hrest⟩
  · intro i wait hmem hi hc ha hlen hzero halign hscr hall
    simp only [List.mem_cons, Prod.mk.injEq, List.not_mem_nil, or_false] at hmem
    have hclean := (hi.2 r (hc ▸ List.mem_cons_self)).2 ha
    obtain ⟨rfl, rfl⟩ | ⟨rfl, rfl⟩ := hmem
    · exact msend_waits hi hc ha hclean.2 (sendCheck_run rfl hclean.1 hlen hzero halign hscr hall) rfl
    · exact msend_waits hi hc ha hclean.2 (sendCheck_run rfl hclean.1 hlen hzero halign hscr hall) rfl
  · intro i hmem hi hm
    simp only [List.mem_cons, List.not_mem_nil, or_false] at hmem
    obtain rfl | rfl := hmem
    · exact ⟨_, rfl, sendWord_retires hi hm⟩
    · exact ⟨_, rfl, sendWord_retires hi hm⟩
  · refine ⟨messageAppend_ringOff hm hd hh hs hc hx, fun hen hlive => ?_⟩
    have ho : ¬(x.en = false ∨ (s.team x.team).status = .retired) := not_or.2 ⟨ne_false_of_eq_true hen, hlive⟩
    refine ⟨messageAppend_denied hm hd hh hs hc hx ho, fun ha => ⟨fun ⟨hroom, hthere⟩ => ?_, fun hfull => ?_⟩⟩
    · exact messageAppend_delivered hm hd hh hs hc hx ho ha hroom hthere
    · refine ⟨_, messageAppend_full hm hd hh hs hc hx ho ha hfull, fun hw => ?_, fun hw => ?_⟩
      · rw [if_neg (Bool.eq_false_iff.1 hw)]
      · rw [if_pos hw]
        exact ⟨rfl, rfl, modMessage_eq hm fun y => { y with met := true }⟩
  · obtain ⟨l, hl, hne⟩ := answer_eq hm status
    rw [answer_messages_eq hm, answered_of_here hh, hl]
    exact ⟨rfl, hne hh⟩

end Sys2Proof.Machine
end

section
/-! PROOFS. EXIT, NOP and YIELD, and the hint words: a hint word that its own check accepts is held by every lane, one that it
fails is held by none, since a trap gives no thread a hint (R177, R227 to R231, R259, R260). -/

namespace Sys2Proof.Machine

open Sys2Proof

/-! ## EXIT, NOP, YIELD (R177, R259, R260) -/

section
variable {s : State} {g : BitVec 3}

theorem veiled_holdoff (w : Thread → Nat → Option Reg) (n : Thread → Nat) :
    Veiled fun u v => Writes w u v ∧ v.holdoff = n u :=
  fun _ _ _ hv ⟨hw, hn⟩ => ⟨hw.of_veil hv, (congrArg Thread.holdoff hv).trans hn⟩

/-- A retired lane that is then held off has still written nothing. -/
theorem idle_retire_holdoff (u : Thread) (n : Nat) : Idle u { u.retire with holdoff := n } :=
  ⟨reg_nothing u, fun _ => rfl, rfl, rfl, rfl, rfl⟩

theorem nop_completes (hi : s.issues (.nop g) fun _ => True) :
    Completes (.nop g) s fun u v => Writes (fun _ => nothing) u v ∧ v.holdoff = u.hintHold :=
  completes_lanewise (f := fun _ u => u) rfl hi (fun _ _ _ _ => rfl) (veiled_holdoff _ _)
    fun u _ _ => ⟨idle_retire u, rfl⟩

theorem yield_completes (hi : s.issues (.yield g) fun _ => True) :
    Completes (.yield g) s fun u v => Writes (fun _ => nothing) u v ∧ v.holdoff = max u.hintHold 16 :=
  completes_lanewise (f := fun _ u => { u with holdoff := max u.holdoff 16 }) rfl hi (fun _ _ _ _ => rfl)
    (veiled_holdoff _ _) fun u _ _ => ⟨idle_retire_holdoff u _, rfl⟩

theorem exit_completes (hi : s.issues (.exit g) fun _ => True) : Completes (.exit g) s fun _ v => v.exited = true :=
  completes_lanewise (f := fun _ u => u.exit) rfl hi (fun _ _ _ _ => rfl)
    (fun _ _ _ hv he => (congrArg Thread.exited hv).trans he) fun _ _ _ => rfl

theorem exited_of_rest {u v : Thread} (h : v.rest = u.rest) : v.exited = u.exited := (congrArg Thread.exited h :)

theorem exit_next (hi : s.issues (.exit g) fun _ => True) : ∃ t, exec (.exit g) s = .next t ∧
    (∀ r ∈ s.active (.exit g), (t.thr r).exited = true) ∧
    (∀ r, r ∉ s.active (.exit g) → (t.thr r).exited = (s.thr r).exited) ∧
    ∀ a, readByte t.mem a = readByte s.mem a := by
  obtain ⟨t, he, hlanes, hcur⟩ := exit_completes hi
  refine ⟨t, he, fun r hr => ?_, fun r hr => ?_, hlanes.memory⟩
  · obtain ⟨hc, hg⟩ := mem_active.1 hr
    simpa only [if_pos hg] using hcur r hc
  · by_cases hc : r ∈ s.cur
    · have hidle := hcur r hc
      rw [if_neg fun hg => hr (mem_active.2 ⟨hc, hg⟩)] at hidle
      exact exited_of_rest hidle.rest
    · exact (congrArg Thread.exited (hlanes.threads r hc) :)

end

/-! ## A thread that holds no hint gets none from a trap -/

section
variable {s t : State} {r : Ref}

/-- The change of an element that leaves it as it was. -/
theorem modify_of_fixed {α : Type} (l : List α) (n : Nat) (f : α → α) (h : ∀ x, l[n]? = some x → f x = x) :
    l.modify n f = l := by
  refine List.ext_getElem? fun k => ?_
  rw [List.getElem?_modify]
  cases hk : l[k]? with
  | none => rfl
  | some x =>
    by_cases hn : n = k
    · subst hn
      simp only [Option.map_eq_map, Option.map_some, if_true, h x hk]
    · simp only [Option.map_eq_map, Option.map_some, if_neg hn]

/-- The change of a thread that does not exist changes nothing. -/
theorem modThr_out (f : Thread → Thread) (h : ¬s.has r) : s.modThr r f = s := by
  by_cases hl : r.team < s.teams.length
  · have hk : (s.team r.team).threads.length ≤ r.thr := Nat.not_lt.1 fun hk => h ⟨hl, hk⟩
    refine congrArg (fun l => ({ s with teams := l } : State)) (modify_of_fixed _ _ _ fun x hx => ?_)
    rw [State.team, List.getD, hx, Option.getD_some] at hk
    rw [List.modify_eq_self hk]
  · exact modTeam_out _ _ _ (Nat.not_lt.1 hl)

/-- A team's threads after every team of a list is changed. -/
theorem team_threads_map {f : Team → Team} {k : Team → Thread → Thread} (hf : ∀ x, (f x).threads = x.threads.map (k x))
    (ht : t.teams = s.teams.map f) (n : Nat) : (t.team n).threads = (s.team n).threads.map (k (s.team n)) := by
  simp only [State.team, List.getD, ht, List.getElem?_map]
  cases s.teams[n]? with
  | none => rfl
  | some x => exact hf x

theorem raise_teams (s : State) (d bit : Nat) : (s.raise d bit).teams = s.teams := by
  unfold State.raise
  dsimp only
  split
  · rfl
  · rfl

theorem hint_abandon (u : Thread) : u.abandon.hint = none := by
  unfold Thread.abandon
  split
  · rfl
  · rfl

/-- The thread holds no hint. -/
def State.unhinted (s : State) (r : Ref) : Prop := (s.thr r).hint = none

theorem unhinted_of_teams (ht : t.teams = s.teams) (h : s.unhinted r) : t.unhinted r := by
  rwa [State.unhinted, State.thr, State.team, ht]

theorem unhinted_of_veil (hv : t.veil = s.veil) (h : s.unhinted r) : t.unhinted r :=
  (congrArg Thread.hint (thr_of_veil hv r)).trans h

/-- Each thread of its team is changed, and none is given a hint. -/
theorem unhinted_of_threads {f : Thread → Thread} (hf : ∀ u, u.hint = none → (f u).hint = none)
    (ht : (t.team r.team).threads = (s.team r.team).threads.map f) (h : s.unhinted r) : t.unhinted r := by
  simp only [State.unhinted, State.thr, List.getD, ht, List.getElem?_map] at h ⊢
  cases hr : (s.team r.team).threads[r.thr]? with
  | none => rfl
  | some u => exact hf u (by simpa [hr] using h)

theorem unhinted_modThr (q : Ref) {f : Thread → Thread} (hf : ∀ u, u.hint = none → (f u).hint = none)
    (h : s.unhinted r) : (s.modThr q f).unhinted r := by
  by_cases hs : s.has q
  · by_cases hq : q = r
    · rw [State.unhinted, ← hq, thr_modThr_eq _ _ _ hs, hq]
      exact hf _ h
    · rwa [State.unhinted, thr_modThr_ne _ _ _ _ hq]
  · rwa [modThr_out f hs]

/-- A change of a team that changes each of its threads, giving none a hint. -/
theorem unhinted_modTeam (n : Nat) {f : Team → Team} {k : Thread → Thread} (hk : ∀ u, u.hint = none → (k u).hint = none)
    (hf : ∀ x, (f x).threads = x.threads.map k) (h : s.unhinted r) : (s.modTeam n f).unhinted r := by
  by_cases hl : n < s.teams.length
  · by_cases hn : n = r.team
    · refine unhinted_of_threads hk ?_ h
      rw [← hn, team_modTeam_eq _ _ _ hl, hf]
    · rwa [State.unhinted, State.thr, team_modTeam_ne _ _ _ _ hn]
  · rwa [modTeam_out _ _ _ (Nat.not_lt.1 hl)]

theorem unhinted_foldl {β : Type} (l : List β) {f : State → β → State} (hf : ∀ x b, x.unhinted r → (f x b).unhinted r)
    (h : s.unhinted r) : (l.foldl f s).unhinted r :=
  List.foldlRecOn l f h fun x hx b _ => hf x b hx

theorem unhinted_errorRecord (d unit sev : Nat) (ctx : BitVec 16) (addr : Nat) (detail : BitVec 64) (h : s.unhinted r) :
    (s.errorRecord d unit sev ctx addr detail).unhinted r :=
  unhinted_of_teams (raise_teams _ _ _) h

theorem unhinted_haltTeam (n : Nat) (h : s.unhinted r) : (s.haltTeam n).unhinted r := by
  have habandon (u : Thread) (hu : u.hint = none) : (if u.exited then u else u.abandon).hint = none := by
    split
    · exact hu
    · exact hint_abandon u
  exact unhinted_of_teams (raise_teams _ _ _) (unhinted_modTeam n habandon (fun _ => rfl) h)

/-- The end of a launch clears the hints of its teams' threads (R405). -/
theorem unhinted_endOne (l : Nat) (code : BitVec 8) (h : s.unhinted r) : (s.endOne l code).unhinted r := by
  unfold State.endOne
  dsimp only
  split
  · exact h
  · refine unhinted_of_threads (s := s) (f := if (s.team r.team).launch = l then Thread.exit else id) (fun u hu => ?_)
      (team_threads_map (s := s) (k := fun x => if x.launch = l then Thread.exit else id) (fun x => ?_) rfl r.team) h
    · split
      · rfl
      · exact hu
    · split
      · rfl
      · exact (List.map_id _).symm

theorem unhinted_endLaunch (l : Nat) (code : BitVec 8) (h : s.unhinted r) : (s.endLaunch l code).unhinted r := by
  unfold State.endLaunch
  dsimp only
  split
  · exact h
  · exact unhinted_foldl _ (fun x m => unhinted_endOne m 0x26) (unhinted_endOne l code h)

theorem unhinted_regroup (rs : List Ref) (h : s.unhinted r) : (s.regroup rs).unhinted r := by
  cases rs with
  | nil => exact h
  | cons q qs =>
    refine unhinted_foldl _ (fun x p hx => ?_) h
    split
    · exact unhinted_modThr _ (fun _ hu => hu) hx
    · exact unhinted_modThr _ (fun _ hu => hu) hx

/-- A trap clears hints and sets none (R358). -/
theorem unhinted_trapFrag (frag : List Ref) (faults : List (Nat × LaneFault)) (defer : Bool) (addr : BitVec 64)
    (h : s.unhinted r) : (s.trapFrag frag faults defer addr).unhinted r := by
  cases frag with
  | nil => exact h
  | cons q qs =>
    unfold State.trapFrag
    dsimp only
    split
    · exact unhinted_haltTeam _ (unhinted_modThr _ (fun _ _ => rfl) h)
    split
    · exact unhinted_endLaunch _ _ (unhinted_errorRecord _ _ _ _ _ _ h)
    split
    · exact unhinted_endLaunch _ _ h
    · exact unhinted_foldl _ (fun x p => unhinted_modThr p fun _ _ => rfl)
        (unhinted_regroup _ (unhinted_of_teams (t := s.dropMessages (q :: qs)) rfl h))

theorem unhinted_trapBad (s0 : State) (v : Ref → Verdict) (h : s.unhinted r) : (State.trapBad s0 s v).unhinted r :=
  unhinted_foldl _ (fun _ _ => unhinted_trapFrag _ _ _ _) h

theorem unhinted_waitStalled (s0 : State) (v : Ref → Verdict) (h : s.unhinted r) : (State.waitStalled s0 s v).unhinted r := by
  refine unhinted_foldl _ (fun x q hx => ?_) h
  split
  · exact unhinted_modThr _ (fun _ hu => hu) hx
  · exact hx

end

/-! ## Hint words (R227 to R231) -/

/-- What the shared checks know of a hint word: it writes nothing, every role and both streams may issue it, it is permitted
between regions, and it has no guard. -/
def hintInfo : Info := { hint := true, rgn := .pause }

section
variable {s : State} {i : Instr} {h : Hint} {own : Ref → Verdict} {r : Ref}

theorem accepts_of_hintInfo (hf : infoOf i = hintInfo) (hr : s.unhinted r) : s.accepts i r = true := by
  have hhint : (s.thr r).hint = none := hr
  have hhead : s.headFault hintInfo false r = none := by
    simp [State.headFault, hintInfo, roleOk]
  have hregion : s.regionBad hintInfo r = false := by
    cases hp : (s.group r.team (s.thr r).group).phase <;> simp [State.regionBad, hintInfo, Info.writeRegs, hp]
  simp only [State.accepts, hf, hhint, hhead, hregion]
  simp [badHint, badWide, badMods, noOrd, hintInfo]

theorem active_of_hintInfo (hf : infoOf i = hintInfo) (u : Thread) : u.active i = true := by
  rw [Thread.active, hf]
  rfl

/-- Where no lane holds a hint, a hint word issues in every lane. -/
theorem issues_of_hintInfo (hf : infoOf i = hintInfo) (hb : s.bundled) (hn : ∀ r ∈ s.cur, (s.thr r).hint = none) :
    s.issues i fun _ => True :=
  ⟨hb, fun r hr => ⟨accepts_of_hintInfo hf (hn r hr), fun _ => trivial⟩⟩

/-- A lane that holds a hint for its next word. -/
def Thread.takeHint (h : Hint) (u : Thread) : Thread := { u with hint := some h, walked := [], age := 0 }

/-- A hint word whose own check passes is, behind the veil, the change of every lane. -/
theorem hintWord_veil (hi : s.issues i fun _ => True) (ho : ∀ r, own r = .run) :
    (s.hintWord i h own).veil = (s.each s.cur fun _ => Thread.takeHint h).veil := by
  have hc := clear_of_issues (own := own) hi fun r _ _ _ => ho r
  rw [State.hintWord, veil_settleAll]
  simp only [goLanes_clear hc, State.trapBad, State.waitStalled, badLanes_clear hc, stalledLanes_clear hc,
    State.fragLeads, List.filter_nil, List.foldl_nil]
  rfl

/-- What is, behind the veil, a change of threads of the bundle leaves everything else as it was. -/
theorem lanesOnly_of_each {t : State} {f : Ref → Thread → Thread} (hv : t.veil = (s.each s.cur f).veil) : LanesOnly s t where
  threads r hr := by rw [thr_of_veil hv, thr_each_notMem _ _ _ _ hr]
  memory a := by
    have e := congrArg State.mem (each_rest s s.cur f)
    exact congrArg (readByte · a) ((mem_of_veil hv).trans e)
  teams n := by
    rw [team_of_veil hv]
    exact congrArg Team.veil (each_team s s.cur f n)
  rest := by
    have e := congrArg (fun x : State => ({ x with teams := s.teams, drawn := s.drawn } : State)) hv
    exact e.trans (congrArg (fun x : State => ({ x with drawn := s.drawn } : State)) (each_rest s s.cur f))

/-- A hint word that its own check fails gives no thread a hint. -/
theorem hintWord_fails (hi : s.issues i fun _ => True) (hf : infoOf i = hintInfo)
    (ho : ∀ r, ∃ x, own r = .fail x) (hn : s.unhinted r) : (s.hintWord i h own).unhinted r := by
  have hv : ∀ q ∈ s.cur, ∃ x, s.judge i own q = .fail x := fun q hq => by
    rw [judge_of_active (hi.2 q hq).1 (active_of_hintInfo hf _)]
    exact ho q
  have hbad : ∀ q ∈ s.cur, q ∈ s.badLanes (s.judge i own) := fun q hq => by
    refine List.mem_filter.2 ⟨hq, ?_⟩
    have hfault : s.anyLane q (fun p => (s.judge i own p).fault?.isSome) = true := by
      obtain ⟨x, hx⟩ := hv q hq
      exact List.any_eq_true.2 ⟨q, hq, by simp [State.sameGroup, hx, Verdict.fault?]⟩
    have hwalks : s.anyLane q (fun p => (s.judge i own p).walks) = false := by
      refine List.any_eq_false.2 fun p hp => ?_
      obtain ⟨x, hx⟩ := hv p hp
      simp [hx, Verdict.walks]
    rw [hfault, hwalks]
    rfl
  have hgo : s.goLanes (s.judge i own) = [] :=
    List.filter_eq_nil_iff.2 fun q hq => by simp [hbad q hq]
  refine unhinted_of_veil (veil_settleAll _ _) (unhinted_trapBad _ _ (unhinted_waitStalled _ _ ?_))
  rw [hgo]
  exact hn

/-- What a hint word leaves when no lane holds a hint and its own check passes in each. -/
theorem hintWord_held (he : exec i s = .next (s.hintWord i h own)) (hf : infoOf i = hintInfo) (hb : s.bundled)
    (hn : ∀ r ∈ s.cur, (s.thr r).hint = none) (ho : ∀ r, own r = .run) :
    ∃ t, exec i s = .next t ∧ LanesOnly s t ∧ ∀ r ∈ s.cur, (t.thr r).hint = some h ∧ (t.thr r).pc = (s.thr r).pc ∧
      (t.thr r).regs = (s.thr r).regs ∧ (t.thr r).preds = (s.thr r).preds ∧ (t.thr r).fpstat = (s.thr r).fpstat ∧
      (t.thr r).rest = (s.thr r).rest := by
  have hv := hintWord_veil (h := h) (issues_of_hintInfo hf hb hn) ho
  refine ⟨_, he, lanesOnly_of_each hv, fun r hr => ?_⟩
  have ht : ((s.hintWord i h own).thr r).veil = ((s.thr r).takeHint h).veil := by
    rw [thr_of_veil hv, thr_each_mem _ _ _ _ hb.1 (hb.2 r hr) hr]
  exact ⟨(congrArg Thread.hint ht :), (congrArg Thread.pc ht :), (congrArg Thread.regs ht :), (congrArg Thread.preds ht :),
    (congrArg Thread.fpstat ht :), (congrArg Thread.rest ht :)⟩

/-- What it leaves when its own check fails. -/
theorem hintWord_refused (he : exec i s = .next (s.hintWord i h own)) (hf : infoOf i = hintInfo)
    (hb : s.bundled) (hn : ∀ r ∈ s.cur, (s.thr r).hint = none) (ho : ∀ r, ∃ x, own r = .fail x) :
    ∃ t, exec i s = .next t ∧ (∀ r ∈ s.cur, (t.thr r).hint ≠ some h) ∧ ∀ a, readByte t.mem a = readByte s.mem a := by
  refine ⟨_, he, fun r hr hs => ?_, fun a => congrArg (readByte · a) (State.hintWord_mem s i h own)⟩
  have hnone : ((s.hintWord i h own).thr r).hint = none :=
    hintWord_fails (issues_of_hintInfo hf hb hn) hf ho (hn r hr)
  cases hnone.symm.trans hs

/-! ### The payloads that a hint word accepts (R229 to R231) -/

theorem badModCode_eq_false (n : BitVec 24) : badModCode n = false ↔ (n.extractLsb' 0 3).toNat ≤ 4 ∧
    (n.extractLsb' 4 3).toNat ≤ 4 ∧ (n.extractLsb' 7 3).toNat ≤ 5 ∧ (n.extractLsb' 10 2).toNat ≠ 3 ∧
    (n.extractLsb' 12 4).toNat ≤ 12 := by
  have hccls : n.extractLsb' 10 2 = 3 ↔ (n.extractLsb' 10 2).toNat = 3 := by
    rw [← BitVec.toNat_inj]
    rfl
  simp only [badModCode, Bool.or_eq_false_iff, decide_eq_false_iff_not, beq_eq_false_iff_ne, ne_eq, hccls]
  omega

theorem bitVec_toNat_eq_zero {w : Nat} (x : BitVec w) : x.toNat = 0 ↔ x = 0 := by
  rw [← BitVec.toNat_inj]
  rfl

/-- HMOD's own check, in the order of R235: the reserved field, then the codes. -/
def hmodCheck (n : BitVec 24) : Verdict :=
  if n.extractLsb' 17 7 != 0 then .fail (illegalFault rReserved)
  else if badModCode n then .fail (illegalFault rBadModifier)
  else .run

/-- HSCHED's own check. -/
def hschedCheck (n : BitVec 24) : Verdict :=
  if n.extractLsb' 8 16 != 0 then .fail (illegalFault rReserved) else .run

theorem exec_hmod (n : BitVec 24) (s : State) :
    exec (.hmod n) s = .next (s.hintWord (.hmod n) (.mods n) fun _ => hmodCheck n) := rfl

theorem exec_hsched (n : BitVec 24) (s : State) :
    exec (.hsched n) s = .next (s.hintWord (.hsched n) (.sched n) fun _ => hschedCheck n) := rfl

/-- A check passes where the condition holds, and fails elsewhere. -/
def Judges (v : Verdict) (ok : Prop) : Prop := v = .run ∧ ok ∨ (∃ x, v = .fail x) ∧ ¬ok

theorem Judges.run {v : Verdict} {ok : Prop} (h : Judges v ok) (hok : ok) : v = .run :=
  (h.resolve_right fun hno => hno.2 hok).1

theorem Judges.fail {v : Verdict} {ok : Prop} (h : Judges v ok) (hno : ¬ok) : ∃ x, v = .fail x :=
  (h.resolve_left fun hok => hno hok.2).1

theorem hmodCheck_judges (n : BitVec 24) : Judges (hmodCheck n) ((n.extractLsb' 0 3).toNat ≤ 4 ∧
    (n.extractLsb' 4 3).toNat ≤ 4 ∧ (n.extractLsb' 7 3).toNat ≤ 5 ∧ (n.extractLsb' 10 2).toNat ≠ 3 ∧
    (n.extractLsb' 12 4).toNat ≤ 12 ∧ (n.extractLsb' 17 7).toNat = 0) := by
  rw [bitVec_toNat_eq_zero]
  by_cases hrsv : n.extractLsb' 17 7 = 0
  · cases hcode : badModCode n with
    | false =>
      obtain ⟨hrm, hord, hscope, hccls, hltag⟩ := (badModCode_eq_false n).1 hcode
      exact .inl ⟨by simp [hmodCheck, hrsv, hcode], hrm, hord, hscope, hccls, hltag, hrsv⟩
    | true =>
      refine .inr ⟨⟨illegalFault rBadModifier, by simp [hmodCheck, hrsv, hcode]⟩, ?_⟩
      rintro ⟨hrm, hord, hscope, hccls, hltag, -⟩
      exact absurd ((badModCode_eq_false n).2 ⟨hrm, hord, hscope, hccls, hltag⟩) (by simp [hcode])
  · exact .inr ⟨⟨_, if_pos (bne_iff_ne.2 hrsv)⟩, fun ⟨_, _, _, _, _, h⟩ => hrsv h⟩

theorem hschedCheck_judges (n : BitVec 24) : Judges (hschedCheck n) ((n.extractLsb' 8 16).toNat = 0) := by
  rw [bitVec_toNat_eq_zero]
  by_cases hrsv : n.extractLsb' 8 16 = 0
  · exact .inl ⟨by simp [hschedCheck, hrsv], hrsv⟩
  · exact .inr ⟨⟨_, if_pos (bne_iff_ne.2 hrsv)⟩, hrsv⟩

end

/-- Settles O21: NOP, YIELD and EXIT act on their lanes alone; a hint word is held where its payload passes its own check, and
where it fails every lane traps. -/
theorem exitNopYieldAndHints : Obligations.ExitNopYieldAndHints := by
  unfold Obligations.ExitNopYieldAndHints
  intro s g n
  refine ⟨nop_completes, yield_completes, exit_next, ?_⟩
  dsimp only
  intro i h good hmem hb hn
  suffices hword : ∃ v, exec i s = .next (s.hintWord i h fun _ => v) ∧ infoOf i = hintInfo ∧ Judges v good by
    obtain ⟨v, he, hf, hv⟩ := hword
    exact ⟨fun hok => hintWord_held he hf hb hn fun _ => hv.run hok,
      fun hno => hintWord_refused he hf hb hn fun _ => hv.fail hno⟩
  simp only [List.mem_cons, Prod.mk.injEq, List.not_mem_nil, or_false] at hmem
  obtain ⟨rfl, rfl, rfl⟩ | ⟨rfl, rfl, rfl⟩ | ⟨rfl, rfl, rfl⟩ := hmem
  · exact ⟨.run, rfl, rfl, .inl ⟨rfl, trivial⟩⟩
  · exact ⟨hmodCheck n, exec_hmod n s, rfl, hmodCheck_judges n⟩
  · exact ⟨hschedCheck n, exec_hsched n s, rfl, hschedCheck_judges n⟩

end Sys2Proof.Machine
end

section
/-! PROOFS. LAUNCH and GANG packets at their queue's turn, the commit and the timeout of a gang, and the retirement of a
launch; they settle O8 and O9 (R196, R197, R201, R404, R405, R412 to R414). -/

namespace Sys2Proof.Machine

open Sys2Proof

/-! ## LAUNCH and GANG packets (R196, R197, R404, R412) -/

section
variable {s x y : State} {p : List Byte} {c : BlockCheck} {f : LaneFault} {type n : Nat}

/-- A taken packet of a type that is neither WAIT nor ADMIN is given to the step for packets of that type. -/
theorem take_of_taken {mine : List Byte → Bool} {act : State → List Byte → State} (h : Taken s p type x)
    (hm : mine p = true) (hw : type ≠ tWait) (ha : type ≠ tAdmin) : s.take s.sel mine act = act x p := by
  obtain ⟨⟨hopen, hhead, hgood, rfl⟩, hstatus⟩ := h
  simp only [State.take, hopen, hhead, hgood, hm, hstatus, beq_eq_false_iff_ne.2 hw, beq_eq_false_iff_ne.2 ha,
    Bool.not_true, Bool.false_and, Bool.false_eq_true, if_false]

/-- A LAUNCH or GANG packet whose queue is next is one that its step takes. -/
theorem mine_of_turn (hq : s.nextQueue (s.queue s.sel).homedie.toNat = some s.sel) (h : Taken s p type x) :
    (pktType p == type && s.nextQueue (s.queue s.sel).homedie.toNat == some s.sel) = true := by
  obtain ⟨⟨-, -, -, rfl⟩, -⟩ := h
  rw [hq, beq_self_eq_true, beq_self_eq_true, Bool.and_self]

theorem launch_taken (hq : s.nextQueue (s.queue s.sel).homedie.toNat = some s.sel) (h : Taken s p tLaunch x) :
    exec .launch s = .next (x.takeLaunch s.sel p) :=
  congrArg Host.Outcome.next (take_of_taken h (mine_of_turn hq h) (by decide) (by decide))

theorem gang_taken (hq : s.nextQueue (s.queue s.sel).homedie.toNat = some s.sel) (h : Taken s p tGang x) :
    exec .gang s = .next (x.takeGang s.sel p) :=
  congrArg Host.Outcome.next (take_of_taken h (mine_of_turn hq h) (by decide) (by decide))

/-- A LAUNCH whose block passes its checks joins the launches, and the belfry evaluates (R197, R218). -/
theorem takeLaunch_good (hb : s.takeBlock (s.queue n) (s.queue n).space (s.queue n).part.toNat (pktWord p 16) = (y, c))
    (hc : c.code = 0) : s.takeLaunch n p = State.evaluate { (y.noteServed n).passHead n with
      launches := y.launches ++
        [Launch.taken (s.queue n) n p c (s.queue n).part.toNat (s.queue n).homedie.toNat y.stamp none]
      stamp := y.stamp + 1 } := by
  simp only [State.takeLaunch, hb, hc, ne_eq, not_true_eq_false, if_false]
  rfl

/-- One whose block fails a check is rejected with that check's code (R199, R404). -/
theorem takeLaunch_bad (hb : s.takeBlock (s.queue n) (s.queue n).space (s.queue n).part.toNat (pktWord p 16) = (y, c))
    (hc : c.code ≠ 0) : s.takeLaunch n p = (y.noteServed n).rejectLaunch n p c := by
  simp only [State.takeLaunch, hb, if_pos hc]

/-- A GANG whose parts table cannot be read is rejected with LB_FAULT (R412). -/
theorem takeGang_unreadable
    (hl : s.agentLoad (s.queue n).homedie.toNat (s.queue n).space (pktWord p 16) (16 * recNum p 24 4) = (y, .error f)) :
    s.takeGang n p = (y.noteServed n).rejectGang n p 0x28 := by
  simp only [State.takeGang, hl]

end

/-- A launch's priority is at most its queue's (R197). -/
theorem taken_prio_le (q : Queue) (n : Nat) (p : List Byte) (c : BlockCheck) (part home order : Nat) (gang : Option Nat) :
    (Launch.taken q n p c part home order gang).prio ≤ q.prio.toNat := Nat.min_le_right _ _

/-- Settles O8: the packet's checks lead to its own step, which goes by what the launch block or the parts table gives. -/
theorem launchPackets : Obligations.LaunchPackets := by
  unfold Obligations.LaunchPackets
  intro s x p
  dsimp only
  intro hq
  refine ⟨fun ht y c hb => ⟨fun hc => ?_, fun hc => ?_, ?_⟩, fun ht => ⟨gang_taken hq ht, fun y f hl => ?_⟩⟩
  · rw [launch_taken hq ht, takeLaunch_good hb hc]
  · rw [launch_taken hq ht, takeLaunch_bad hb hc]
  · exact ⟨rfl, rfl, rfl, rfl, rfl, rfl, rfl, rfl, taken_prio_le _ _ _ _ _ _ _ _, rfl⟩
  · rw [gang_taken hq ht, takeGang_unreadable hl]

/-! ## The commit and the timeout of a gang (R412 to R414) -/

/-- A fold of operations that keep what `g` reads of the state keeps it. -/
theorem foldl_keeps {α β : Type} {g : State → β} {f : State → α → State} (h : ∀ x a, g (f x a) = g x) (l : List α)
    (s : State) : g (l.foldl f s) = g s :=
  List.foldlRecOn (motive := fun x => g x = g s) l f rfl fun x hx a _ => (h x a).trans hx

theorem startTeams_gangs (s : State) (ts : List Nat) : (s.startTeams ts).gangs = s.gangs :=
  foldl_keeps (g := State.gangs) (by exact fun _ _ => rfl) ts s

theorem startTeams_launches (s : State) (ts : List Nat) : (s.startTeams ts).launches = s.launches :=
  foldl_keeps (g := State.launches) (by exact fun _ _ => rfl) ts s

/-- A launch that is running and has started. -/
def Launch.begun (l : Launch) : Prop := l.status = .running ∧ l.started = true

/-- A part of a gang begins. -/
def State.beginPart (s : State) (l : Nat) : State := s.modLaunch l fun z => { z with status := .running, started := true }

/-- What the commit of gang `sel` does: its parts begin, and their teams start (R412). -/
def State.commitGang (s : State) (y : Gang) : State :=
  y.parts.foldl (fun x l => x.startTeams (x.teamsOf l))
    (y.parts.foldl State.beginPart { s with gangs := s.gangs.modify s.sel fun x => { x with committed := true } })

theorem begun_beginPart {s : State} {k l : Nat} (hl : l < s.launches.length)
    (h : l = k ∨ (s.launches.getD l default).begun) : ((s.beginPart k).launches.getD l default).begun := by
  by_cases hk : k = l
  · rw [State.beginPart, State.modLaunch_launches, hk, getD_modify_eq _ _ _ _ hl]
    exact ⟨rfl, rfl⟩
  · rw [State.beginPart, State.modLaunch_launches, getD_modify_ne _ _ _ _ _ hk]
    exact h.resolve_left (Ne.symm hk)

/-- A launch that is among the parts has begun once all of them begin. -/
theorem begun_foldl {l : Nat} (ks : List Nat) (s : State) (hl : l < s.launches.length)
    (h : l ∈ ks ∨ (s.launches.getD l default).begun) : ((ks.foldl State.beginPart s).launches.getD l default).begun := by
  induction ks generalizing s with
  | nil => exact h.resolve_left List.not_mem_nil
  | cons k ks ih =>
    refine ih (s.beginPart k) (by simpa [State.beginPart] using hl) ?_
    rw [List.mem_cons] at h
    by_cases hks : l ∈ ks
    · exact .inl hks
    · exact .inr (begun_beginPart hl (h.imp_left fun hm => hm.resolve_right hks))

section
variable (s : State) (y : Gang)

theorem commitGang_gangs : (s.commitGang y).gangs = s.gangs.modify s.sel fun x => { x with committed := true } :=
  (foldl_keeps (g := State.gangs) (fun x l => startTeams_gangs x (x.teamsOf l)) _ _).trans
    (foldl_keeps (g := State.gangs) (f := State.beginPart) (fun _ _ => rfl) _ _)

theorem commitGang_mem : (s.commitGang y).mem = s.mem :=
  (foldl_keeps (g := State.mem) (fun x l => State.startTeams_mem x (x.teamsOf l)) _ _).trans
    (foldl_keeps (g := State.mem) (f := State.beginPart) (fun _ _ => rfl) _ _)

theorem commitGang_begun {l : Nat} (hp : l ∈ y.parts) (hl : l < s.launches.length) :
    ((s.commitGang y).launches.getD l default).begun := by
  rw [State.commitGang, foldl_keeps (g := State.launches) (fun x k => startTeams_launches x (x.teamsOf k))]
  exact begun_foldl _ _ hl (.inl hp)

end

section
variable {s : State} {y : Gang}

/-- A gang that is neither committed nor done waits for its commit or its end. -/
def State.gangOpen (s : State) (y : Gang) : Prop := s.gangs[s.sel]? = some y ∧ y.committed = false ∧ y.done = false

theorem not_whole (h : ∃ l ∈ y.parts, s.gridWhole l = false) : y.parts.all s.gridWhole = false :=
  List.all_eq_false.2 (h.imp fun _ hl => ⟨hl.1, Bool.eq_false_iff.1 hl.2⟩)

theorem gangOpen_getD (h : s.gangOpen y) : s.gangs.getD s.sel default = y ∧ decide (s.sel < s.gangs.length) = true :=
  ⟨by rw [List.getD_eq_getElem?_getD, h.1, Option.getD_some],
    decide_eq_true (List.getElem?_eq_some_iff.1 h.1).1⟩

theorem gangCommit_broken (h : s.gangOpen y) (hb : s.gangBroken y = true) :
    exec .gangCommit s = .next (y.parts.foldl (fun x l => x.endOne l 0x26) s) := by
  obtain ⟨hy, hl⟩ := gangOpen_getD h
  obtain ⟨-, hcommitted, hdone⟩ := h
  refine congrArg Host.Outcome.next ?_
  simp only [hy, hl, hcommitted, hdone, hb, Bool.not_true, Bool.or_self, Bool.false_eq_true, if_false, if_true]

theorem gangCommit_whole (h : s.gangOpen y) (hb : s.gangBroken y = false) (hw : ∀ l ∈ y.parts, s.gridWhole l = true) :
    exec .gangCommit s = .next (s.commitGang y) := by
  obtain ⟨hy, hl⟩ := gangOpen_getD h
  obtain ⟨-, hcommitted, hdone⟩ := h
  refine congrArg Host.Outcome.next ?_
  simp only [hy, hl, hcommitted, hdone, hb, List.all_eq_true.2 hw, Bool.not_true, Bool.or_self, Bool.false_eq_true, if_false]
  rfl

theorem gangTimeout_late (h : s.gangOpen y) (hc : y.code = 0) (hw : ∃ l ∈ y.parts, s.gridWhole l = false)
    (ht : y.started + 1000 * y.timeout ≤ s.gtime) : exec .gangTimeout s = .next (y.parts.foldl (fun x l => x.endOne l 0x25)
      { s with gangs := s.gangs.modify s.sel fun x => { x with code := 0x25 } }) := by
  obtain ⟨hy, hl⟩ := gangOpen_getD h
  obtain ⟨-, hcommitted, hdone⟩ := h
  refine congrArg Host.Outcome.next ?_
  simp only [hy, hl, hcommitted, hdone, hc, not_whole hw, decide_eq_false (Nat.not_lt.2 ht), bne_self_eq_false,
    Bool.not_true, Bool.or_self, Bool.false_eq_true, if_false]

theorem gangTimeout_early (h : s.gangOpen y) (ht : s.gtime < y.started + 1000 * y.timeout) :
    exec .gangTimeout s = .next s := by
  obtain ⟨hy, -⟩ := gangOpen_getD h
  refine congrArg Host.Outcome.next ?_
  simp only [hy, decide_eq_true ht, Bool.or_true, if_true]

end

/-! ## The end of a launch (R201, R405) -/

section
variable {s : State} {l : Launch}

theorem launchRetire_done (hl : s.launches[s.sel]? = some l) (hd : s.launchDone s.sel = true) (ho : s.homesOpen = true)
    (hg : l.gang = none) : exec .launchRetire s = .next (State.evaluate
      (((s.modLaunch s.sel fun x => { x with status := .retired }).writeStatus l.home l.space l.harvest l.statusPtr
        (statusRecord l.code l.queue l.placed l.seq)).finalAdd l.home l.space l.harvest l.block.ctrptr
          (BitVec.ofNat 64 l.block.ctrinc) (l.code != 0))) := by
  have hy : s.launches.getD s.sel default = l := by rw [List.getD_eq_getElem?_getD, hl, Option.getD_some]
  refine congrArg Host.Outcome.next ?_
  simp only [hy, hd, ho, hg, decide_eq_true (List.getElem?_eq_some_iff.1 hl).1, Bool.not_true, Bool.or_self,
    Bool.false_eq_true, if_false]

theorem launchRetire_waits (hd : s.launchDone s.sel = false) : exec .launchRetire s = .next s := by
  refine congrArg Host.Outcome.next ?_
  simp only [hd, Bool.not_false, Bool.or_true, Bool.true_or, if_true]

end

/-- Settles O9: each event by the condition that holds, and the commit by what it leaves of gangs, launches and memory. -/
theorem gangsAndLaunchesEnd : Obligations.GangsAndLaunchesEnd := by
  unfold Obligations.GangsAndLaunchesEnd
  refine fun s => ⟨fun y hy hcommitted hdone => ?_, fun l hl => ⟨launchRetire_done hl, launchRetire_waits⟩⟩
  have h : s.gangOpen y := ⟨hy, hcommitted, hdone⟩
  refine ⟨gangCommit_broken h, fun hb hw => ⟨_, gangCommit_whole h hb hw, ?_, fun l hp => commitGang_begun s y hp,
    fun a => congrArg (readByte · a) (commitGang_mem s y)⟩, gangTimeout_late h, gangTimeout_early h⟩
  rw [commitGang_gangs, List.getElem?_modify_eq, hy]
  rfl

end Sys2Proof.Machine
end

section
/-! PROOFS. CLKQ, CLKREQ and SCHSEL: what each leaves when its lanes complete, the access that SCHSEL sends for an entry that it
must read, and what an entry selects; they settle O29 (R213 to R215, R261, R262, R265, R266). -/

namespace Sys2Proof.Machine

open Sys2Proof

/-! ## Words whose checks pass in every lane -/

section
variable {s : State} {i : Instr} {own : Ref → Verdict} {p : Thread → Prop}

/-- Where a word's own check passes in each active lane, the word acts for these once every lane has retired it. -/
theorem perform_veil_of_issues (act : State → List Ref → State) (hi : s.issues i p)
    (ho : ∀ r ∈ s.cur, (s.thr r).active i = true → p (s.thr r) → own r = .run) :
    (s.perform (s.judge i own) act).veil = (act s.passed (s.active i)).veil :=
  (perform_veil act (clear_of_issues hi ho)).trans
    (congrArg (fun rs => (act s.passed rs).veil) (running_of_issues hi ho))

end

/-! ## CLKQ and CLKREQ (R215, R265, R266) -/

section
variable {s : State} {g : BitVec 3} {a b d : BitVec 6}

theorem clkq_completes (hi : s.issues (.clkq g d) fun _ => True) : CompletesAt (.clkq g d) s fun r => Gives d fun _ =>
    { val := (s.die (s.coreOf r / 128)).grant.setWidth 64, tag := tagI32 } :=
  completesAt_of_acts (own := noCheck) (f := fun _ r u => u.set32 d.toNat (s.die (s.dieOf r)).grant tagI32) rfl
    (fun _ _ => rfl) hi (fun _ _ _ _ => rfl) (fun _ => veiled_lane _ _ _ _) fun r _ _ _ =>
      gives_setReg (s.thr r) d fun _ => { val := (s.die (s.dieOf r)).grant.setWidth 64, tag := tagI32 }

theorem clkField_iff (v : BitVec 32) (lo : Nat) :
    clkField v lo = true ↔ v.toNat / 2 ^ lo % 32 = 0 ∨ 4 ≤ v.toNat / 2 ^ lo % 32 ∧ v.toNat / 2 ^ lo % 32 ≤ 16 := by
  simp [clkField, BitVec.extractLsb'_toNat, Nat.shiftRight_eq_div_pow]

/-- A word in the request layout: its reserved bits are 0 and each ratio is 0 or 4 to 16 (R266). -/
theorem clkRequestOk_of_fields {v : BitVec 32} (hz : v &&& 0xE0E0E0E0 = 0)
    (hf : ∀ k, k < 4 → v.toNat / 2 ^ (8 * k) % 32 = 0 ∨ 4 ≤ v.toNat / 2 ^ (8 * k) % 32 ∧ v.toNat / 2 ^ (8 * k) % 32 ≤ 16) :
    clkRequestOk v = true := by
  have hfield (k : Nat) (hk : k < 4) : clkField v (8 * k) = true := (clkField_iff v _).2 (hf k hk)
  have hzero : (v &&& 0xE0E0E0E0#32 == 0) = true := beq_iff_eq.2 hz
  simp only [clkRequestOk, hfield 0 (by decide), hfield 1 (by decide), hfield 2 (by decide), hfield 3 (by decide), hzero,
    Bool.and_self]

/-- The bits of CRIT that are reserved are 0 where CRIT is below 16 (R266). -/
theorem crit_reserved_eq_zero {v : BitVec 32} (h : v.toNat < 16) : v.extractLsb' 4 28 = 0 := by
  rw [← bitVec_toNat_eq_zero, BitVec.extractLsb'_toNat, Nat.shiftRight_eq_div_pow]
  omega

theorem extractLsb'_crit (v : BitVec 32) : v.extractLsb' 0 4 = v.setWidth 4 := BitVec.eq_of_toNat_eq rfl

theorem clkreq_becomes (hi : s.issues (.clkreq g a b) (fun u => Clean (.clkreq g a b) u ∧ (u.val32 b.toNat).toNat < 16 ∧
      u.val32 a.toNat &&& 0xE0E0E0E0 = 0 ∧
      ∀ k, k < 4 → let x := (u.val32 a.toNat).toNat / 2 ^ (8 * k) % 32; x = 0 ∨ (4 ≤ x ∧ x ≤ 16))) :
    Becomes (.clkreq g a b) s ((s.active (.clkreq g a b)).foldl (fun x r => x.modLaunch (s.team r.team).launch fun l =>
      { l with clkwant := (s.thr r).val32 a.toNat, crit := ((s.thr r).val32 b.toNat).setWidth 4 }) s.passed) := by
  refine ⟨_, rfl, (perform_veil_of_issues _ hi fun r _ _ ⟨hc, hcrit, hz, hf⟩ => ?_).trans ?_⟩
  · have hp : (s.thr r).poisoned [u1 a, u1 b] = false := hc
    simp [hp, clkRequestOk_of_fields hz hf, crit_reserved_eq_zero hcrit]
  · simp only [extractLsb'_crit]

end

/-! ## A flight that is launched (R78) -/

section
variable (s : State)

theorem requestRoute_eq_cons (core pa : Nat) : ∃ id l, s.requestRoute core pa = id :: l := by
  unfold State.requestRoute
  dsimp only
  split
  · split
    · exact ⟨_, _, rfl⟩
    · exact ⟨_, _, rfl⟩
  · exact ⟨_, _, rfl⟩
  · exact ⟨_, _, rfl⟩
  · exact ⟨_, _, rfl⟩

/-- A request leaves its core: the stage of its piece changes, and the ports. -/
theorem sendPiece_eq (n k : Nat) :
    ∃ l, s.sendPiece n k = { s.modPiece n k (fun q => { q with stage := .net }) with ports := l } := by
  obtain ⟨id, rest, hr⟩ := requestRoute_eq_cons s (s.flights.getD n default).core
    ((s.flights.getD n default).pieces.getD k default).pa
  simp only [State.sendPiece, State.packetGo, hr]
  obtain ⟨l, -, hl⟩ := portPush_eq (s.modPiece n k fun q => { q with stage := .net }) id _
  exact ⟨l, hl⟩

/-- A flight's pieces and the ports are all that sending what may go of it changes. -/
def SentOnly (n : Nat) (s t : State) : Prop := ∃ (g : List Piece → List Piece) (l : List Port),
  t = { s with flights := s.flights.modify n (fun x => { x with pieces := g x.pieces }), ports := l }

theorem SentOnly.refl (n : Nat) : SentOnly n s s := ⟨id, s.ports,
  (congrArg (fun l => ({ s with flights := l } : State)) (List.modify_id n s.flights)).symm⟩

theorem SentOnly.sendPiece {n : Nat} {t : State} (h : SentOnly n s t) (k : Nat) : SentOnly n s (t.sendPiece n k) := by
  obtain ⟨g, l, rfl⟩ := h
  obtain ⟨l', hl'⟩ := sendPiece_eq { s with
    flights := s.flights.modify n (fun x => { x with pieces := g x.pieces }), ports := l } n k
  refine ⟨fun ps => (g ps).modify k fun q => { q with stage := .net }, l', hl'.trans ?_⟩
  simp only [State.modPiece, State.modFlight, List.modify_modify_eq]
  rfl

theorem sendReady_sentOnly (n : Nat) : SentOnly n s (s.sendReady n) := by
  refine List.foldlRecOn _ _ (SentOnly.refl s n) fun x hx k _ => ?_
  dsimp only
  split
  · exact hx.sendPiece s k
  · exact hx

theorem modify_append_length {α : Type} (l : List α) (x : α) (f : α → α) : (l ++ [x]).modify l.length f = l ++ [f x] := by
  induction l with
  | nil => rfl
  | cons a l ih => simpa using ih

/-- A flight joins the list with its pieces as they are sent, and its thread counts it; nothing changes but the ports. -/
theorem launchFlight_eq (f : Flight) : ∃ ps l, s.launchFlight f =
    { s.modThr f.own (fun t => { t with seq := t.seq + 1 }) with
      flights := s.flights ++ [{ f with pieces := ps }], ports := l } := by
  obtain ⟨g, l, h⟩ := sendReady_sentOnly
    ({ s with flights := s.flights ++ [f] }.modThr f.own fun t => { t with seq := t.seq + 1 }) s.flights.length
  refine ⟨g f.pieces, l, h.trans ?_⟩
  exact congrArg (fun q => ({ s.modThr f.own (fun t => { t with seq := t.seq + 1 }) with flights := q, ports := l } : State))
    (modify_append_length s.flights f _)

end

/-! ## SCHSEL (R214, R261, R262) -/

section
variable {s : State} {g : BitVec 3} {a b d : BitVec 6} {r : Ref}

/-- The words of a selection that has been made are written. -/
theorem schsel_becomes {sel : Ref → Selected} (hi : s.issues (.schsel g d a b) (Clean (.schsel g d a b)))
    (hs : ∀ r ∈ s.active (.schsel g d a b), s.schOf a b r = .found (sel r)) : Becomes (.schsel g d a b) s
      ((s.active (.schsel g d a b)).foldl (fun x r => x.modThr r fun u => u.setSelected d.toNat (sel r)) s.passed) := by
  have hrun : ∀ r ∈ s.cur, (s.thr r).active (.schsel g d a b) = true → Clean (.schsel g d a b) (s.thr r) →
      s.schselCheck a b r = .run := fun r hr ha hc => by
    have hp : (s.thr r).poisoned [u1 a, u1 b] = false := hc
    simp only [State.schselCheck, hp, hs r (mem_active.2 ⟨hr, ha⟩), Bool.false_eq_true, if_false]
  refine ⟨_, rfl, ?_⟩
  simp only [stalledLanes_clear (clear_of_issues hi hrun), List.filter_nil, List.foldl_nil]
  rw [perform_veil_of_issues _ hi hrun]
  refine congrArg State.veil (List.foldl_rel (r := Eq) rfl fun r hr x y hxy => ?_)
  simp only [hs r hr, hxy]

/-- The one lane of a bundle waits: it takes its wait, whatever the word does for lanes that run. -/
theorem perform_wait_act {v : Ref → Verdict} {w : Wait} {act : State → List Ref → State} (ha : ∀ x, act x [] = x)
    (hc : s.cur = [r]) (hv : v r = .wait w) (hw : (Verdict.wait w).walks = false) :
    (s.perform v act).veil = (s.modThr r fun t => t.stall w s.gtime).veil := by
  obtain ⟨-, -, hgo, -⟩ := lanes_of_wait hc hv hw
  rw [← perform_wait hc hv hw]
  simp only [State.perform, State.runLanes, hgo, List.filter_nil, ha]

theorem has_of_veil {s t : State} (h : t.veil = s.veil) : t.has r ↔ s.has r := by
  have hteams : t.teams.length = s.teams.length := by simpa [State.veil] using congrArg (fun x => x.teams.length) h
  have hthreads : (t.team r.team).threads.length = (s.team r.team).threads.length := by
    simpa [Team.veil] using congrArg (fun x => x.threads.length) (team_of_veil h r.team)
  rw [State.has, State.has, hteams, hthreads]

/-- What a lane that must read an entry adds to a state: the access that reads it, whose answer the lane waits for. -/
theorem schSend_adds {x : State} {k : Nat} {l : List (BitVec 64 × Nat × Leaf × Nat)} (hs : s.schOf a b r = .read k l)
    (hr : x.has r) : let t := s.schSend x a b r
      ∃ f, t.flights = x.flights ++ [f] ∧ f.op = .load ∧ f.own = r ∧ f.const = true ∧ (t.thr r).pc = (x.thr r).pc ∧
        (t.thr r).regs = (x.thr r).regs ∧ (t.thr r).wait = some (.catalog k x.flights.length) ∧ t.mem = x.mem := by
  dsimp only
  obtain ⟨ps, q, he⟩ := launchFlight_eq x (x.schRead r l)
  have hy : (x.launchFlight (x.schRead r l)).has r := he ▸ (has_modThr x r r _).2 hr
  have hthr : (x.launchFlight (x.schRead r l)).thr r = { x.thr r with seq := (x.thr r).seq + 1 } :=
    he ▸ thr_modThr_eq x r (fun t => { t with seq := t.seq + 1 }) hr
  have hflights : (x.launchFlight (x.schRead r l)).flights = x.flights ++ [{ x.schRead r l with pieces := ps }] := by rw [he]
  simp only [State.schSend, hs]
  rw [thr_modThr_eq _ _ _ hy, hthr]
  exact ⟨_, hflights, rfl, rfl, rfl, rfl, rfl, rfl, State.launchFlight_mem _ _⟩

/-- SCHSEL acts for the lanes that have their entry, and each lane that waits for one sends the access that reads it. -/
theorem exec_schsel (s : State) (g : BitVec 3) (d a b : BitVec 6) : ∃ act : State → List Ref → State,
    (∀ x, act x [] = x) ∧ exec (.schsel g d a b) s = .next
      (((s.stalledLanes (s.judge (.schsel g d a b) (s.schselCheck a b))).filter fun r =>
        (s.judge (.schsel g d a b) (s.schselCheck a b) r).wait?.isSome && (s.active (.schsel g d a b)).contains r).foldl
          (fun x r => s.schSend x a b r) (s.perform (s.judge (.schsel g d a b) (s.schselCheck a b)) act)) :=
  ⟨_, by exact fun _ => rfl, rfl⟩

/-- Where the one lane must read an entry, the word waits, and what it leaves is what the lane sends. -/
theorem schsel_sends {k : Nat} {l : List (BitVec 64 × Nat × Leaf × Nat)}
    (hi : s.issues (.schsel g d a b) (Clean (.schsel g d a b))) (hc : s.cur = [r])
    (ha : (s.thr r).active (.schsel g d a b) = true) (hs : s.schOf a b r = .read k l) :
    ∃ x, exec (.schsel g d a b) s = .next (s.schSend x a b r) ∧
      x.veil = (s.modThr r fun t => t.stall (.catalog k s.flights.length) s.gtime).veil := by
  have hr : r ∈ s.cur := hc ▸ List.mem_cons_self
  obtain ⟨haccepts, hclean⟩ := hi.2 r hr
  have hp : (s.thr r).poisoned [u1 a, u1 b] = false := hclean ha
  have hv : s.judge (.schsel g d a b) (s.schselCheck a b) r = .wait (.catalog k s.flights.length) := by
    simp only [judge_of_active haccepts ha, State.schselCheck, hp, hs, Bool.false_eq_true, if_false]
  obtain ⟨-, hstall, -⟩ := lanes_of_wait hc hv rfl
  have hactive : (s.active (.schsel g d a b)).contains r = true := List.contains_iff_mem.2 (mem_active.2 ⟨hr, ha⟩)
  obtain ⟨act, hact, he⟩ := exec_schsel s g d a b
  refine ⟨_, he.trans ?_, perform_wait_act hact hc hv rfl⟩
  simp only [hstall, hv, hactive, List.filter_cons, Verdict.wait?, Option.isSome_some, Bool.and_self, if_true,
    List.filter_nil, List.foldl_cons, List.foldl_nil]

theorem schsel_reads {k : Nat} {l : List (BitVec 64 × Nat × Leaf × Nat)}
    (hi : s.issues (.schsel g d a b) (Clean (.schsel g d a b))) (hc : s.cur = [r])
    (ha : (s.thr r).active (.schsel g d a b) = true) (hs : s.schOf a b r = .read k l) :
    ∃ t f, exec (.schsel g d a b) s = .next t ∧ t.flights = s.flights ++ [f] ∧ f.op = .load ∧ f.own = r ∧ f.const = true ∧
      (t.thr r).pc = (s.thr r).pc ∧ (t.thr r).regs = (s.thr r).regs ∧
      (t.thr r).wait = some (.catalog k s.flights.length) ∧ t.mem = s.mem := by
  have hr : s.has r := hi.1.2 r (hc ▸ List.mem_cons_self)
  obtain ⟨x, he, hveil⟩ := schsel_sends hi hc ha hs
  have hx : x.has r := (has_of_veil hveil).2 ((has_modThr s r r _).2 hr)
  have hthr : (x.thr r).veil = ((s.thr r).stall (.catalog k s.flights.length) s.gtime).veil := by
    rw [thr_of_veil hveil, thr_modThr_eq _ _ _ hr]
  have hflights : x.flights = s.flights := (congrArg State.flights hveil :)
  obtain ⟨f, hf, hop, hown, hconst, hpc, hregs, hwait, hmem⟩ := schSend_adds hs hx
  rw [hflights] at hf hwait
  exact ⟨_, f, he, hf, hop, hown, hconst, hpc.trans (congrArg Thread.pc hthr :), hregs.trans (congrArg Thread.regs hthr :),
    hwait, hmem.trans ((mem_of_veil hveil).trans rfl)⟩

/-- The entry that a lane was waiting for, once it has been read (R214). -/
theorem schSelect_of_read {c n : BitVec 32} {k f : Nat} {x : Selected} (hn : c.toNat < (s.launchOf r.team).nclass)
    (hw : (s.thr r).wait = some (.catalog k f)) (hr : (s.flights.getD f default).returned = true)
    (hx : schEntry n k (s.flights.getD f default).loaded = some x) : s.schSelect r c n = .found x := by
  simp only [State.schSelect, if_neg (Nat.not_le.2 hn), hw, hr, hx, Bool.not_true, Bool.false_eq_true, if_false]

/-- A class at or above NCLASS has no entry (R213). -/
theorem schSelect_no_class {c n : BitVec 32} (h : (s.launchOf r.team).nclass ≤ c.toNat) :
    s.schSelect r c n = .found .nothing := by
  simp only [State.schSelect, if_pos h]

end

/-! ## What an entry selects (R214, R262) -/

theorem ofNat_ofLe_leBytes {w : Nat} (n : Nat) (v : BitVec w) (hw : w = 8 * n) :
    BitVec.ofNat w (ofLe (leBytes n v.toNat)) = v := by
  rw [ofLe_leBytes, ← hw, Nat.mod_eq_of_lt v.isLt, BitVec.ofNat_toNat, BitVec.setWidth_eq]

/-- The 16 bytes of an entry: its largest size, its knob and its target, lowest address first (R214). -/
def entryBytes (limit knob : BitVec 32) (target : BitVec 64) : List Byte :=
  leBytes 4 limit.toNat ++ leBytes 4 knob.toNat ++ leBytes 8 target.toNat

theorem entryBytes_fields (limit knob : BitVec 32) (target : BitVec 64) :
    (entryBytes limit knob target).take 4 = leBytes 4 limit.toNat ∧
      ((entryBytes limit knob target).drop 4).take 4 = leBytes 4 knob.toNat ∧
      (entryBytes limit knob target).drop 8 = leBytes 8 target.toNat := by
  refine ⟨?_, ?_, List.drop_left' (by simp)⟩
  · rw [entryBytes, List.append_assoc, List.take_left' (length_leBytes _ _)]
  · rw [entryBytes, List.append_assoc, List.drop_left' (length_leBytes _ _), List.take_left' (length_leBytes _ _)]

/-- An entry whose target is 0, or whose largest size is smaller, selects nothing (R214). -/
theorem schEntry_entryBytes (n limit knob : BitVec 32) (target : BitVec 64) (k : Nat) :
    schEntry n k ((entryBytes limit knob target).map fun b => (b, false)) =
      if target ≠ 0 ∧ n.toNat ≤ limit.toNat then some (.entry k knob target) else none := by
  obtain ⟨hlimit, hknob, htarget⟩ := entryBytes_fields limit knob target
  have hfst (l : List Byte) : (l.map fun b => (b, false)).map (·.1) = l := (List.map_map ..).trans (List.map_id l)
  have hknown (l : List Byte) : (l.map fun b => (b, false)).any (·.2) = false := by simp
  simp only [schEntry, bytes64, ← List.map_take, ← List.map_drop, hfst, hknown, hlimit, hknob, htarget,
    ofNat_ofLe_leBytes 4 limit rfl, ofNat_ofLe_leBytes 4 knob rfl, ofNat_ofLe_leBytes 8 target rfl, Bool.false_eq_true,
    if_false, Bool.and_eq_true, bne_iff_ne, ne_eq, BitVec.ule_eq_decide, decide_eq_true_eq]

/-! ## The four words of a selection (R261, R262) -/

section
variable {u : Thread}

/-- A pair written in the lane stream: the low half, then the high one. -/
theorem reg_setPair_lane (hc : u.ctl = false) {d : Nat} (hd : d + 1 < 64) (v : BitVec 64) (tag : Tag) (n : Nat) :
    (u.setPair d v tag).reg n = if n = 0 then zeroReg else if n = d then { val := low32 v, tag := tag }
      else if n = d + 1 then { val := v >>> 32, tag := tag } else u.reg n := by
  rw [Thread.setPair, if_neg (by simp [hc]), reg_setReg _ _ _ _ hd, reg_setReg _ _ _ _ (by omega)]
  by_cases h0 : n = 0
  · simp only [if_pos h0]
  by_cases hlow : n = d
  · simp only [if_neg h0, if_pos hlow, if_neg (show n ≠ d + 1 by omega)]
  · simp only [if_neg h0, if_neg hlow]

/-- Two pairs written one after the other in the lane stream. -/
theorem reg_setPair_setPair (hc : u.ctl = false) {d : Nat} (hd : d + 3 < 64) (v w : BitVec 64) (tag : Tag) (n : Nat) :
    ((u.setPair d v tag).setPair (d + 2) w tag).reg n = if n = 0 then zeroReg
      else if n = d then { val := low32 v, tag := tag } else if n = d + 1 then { val := v >>> 32, tag := tag }
      else if n = d + 2 then { val := low32 w, tag := tag } else if n = d + 3 then { val := w >>> 32, tag := tag }
      else u.reg n := by
  rw [reg_setPair_lane (by rw [Thread.setPair_ctl, hc]) hd, reg_setPair_lane hc (by omega)]
  by_cases h0 : n = 0
  · simp only [if_pos h0]
  by_cases hd2 : n = d + 2
  · simp only [if_neg h0, if_pos hd2, if_neg (show n ≠ d by omega), if_neg (show n ≠ d + 1 by omega)]
  by_cases hd3 : n = d + 3
  · simp only [if_neg h0, if_neg hd2, if_pos hd3, if_neg (show n ≠ d by omega), if_neg (show n ≠ d + 1 by omega)]
  · simp only [if_neg h0, if_neg hd2, if_neg hd3]

theorem append_ushiftRight (v w : BitVec 32) : ((v ++ w : BitVec 64) >>> 32) = v.setWidth 64 := by
  refine BitVec.eq_of_toNat_eq ?_
  rw [BitVec.toNat_ushiftRight, toNat_append_eq_add, Nat.shiftRight_eq_div_pow, BitVec.toNat_setWidth]
  omega

theorem low32_append (v : BitVec 32) (k : Nat) : low32 (v ++ BitVec.ofNat 32 k) = BitVec.ofNat 64 (k % 2 ^ 32) := by
  rw [low32, BitVec.setWidth_append_eq_right]
  exact BitVec.eq_of_toNat_eq (by simp)

/-- A selection in the lane stream: the entry's number or 8, the knob or 0, and the target or 0; none of them known where the
entry is poisoned. -/
theorem reg_setSelected (hc : u.ctl = false) {d : Nat} (hd : d + 3 < 64) (x : Selected) (n : Nat) :
    (u.setSelected d x).reg n = if n = 0 then zeroReg else
      let ⟨i, k, t, tag⟩ : Nat × BitVec 32 × BitVec 64 × Tag := match x with
        | .entry i k t => (i, k, t, tagI32)
        | .nothing => (8, 0, 0, tagI32)
        | .poison => (0, 0, 0, tagPOISON)
      if n = d then { val := BitVec.ofNat 64 (i % 2 ^ 32), tag := tag }
      else if n = d + 1 then { val := k.setWidth 64, tag := tag }
      else if n = d + 2 then { val := t &&& 0xFFFFFFFF, tag := tag }
      else if n = d + 3 then { val := t >>> 32, tag := tag } else u.reg n := by
  cases x with
  | entry i k t =>
    simp only [Thread.setSelected, hc, Bool.false_eq_true, if_false, reg_setPair_setPair hc hd, low32_append,
      append_ushiftRight, low32_eq_and t]
  | nothing =>
    simp only [Thread.setSelected, hc, Bool.false_eq_true, if_false, reg_setPair_setPair hc hd]
    rfl
  | poison =>
    simp only [Thread.setSelected, hc, Bool.false_eq_true, if_false, reg_setPair_setPair hc hd]
    rfl

end

/-- Settles O29: the words whose checks pass by what they change behind the veil, the search for an entry by the state of its
read, and a selection by the two pairs that it writes. -/
theorem clockWordsAndSelection : Obligations.ClockWordsAndSelection := by
  unfold Obligations.ClockWordsAndSelection
  refine fun s g d a b => ⟨clkq_completes, clkreq_becomes, fun _ => schsel_becomes, fun r k l => schsel_reads,
    fun r c n k f x => schSelect_of_read, schEntry_entryBytes, fun u x n hd hc =>
      reg_setSelected hc (by omega) x n, fun r c n => schSelect_no_class⟩

end Sys2Proof.Machine
end

section
/-! PROOFS. The belfry: the grant that it chooses is the first of the best permitted sets in the order of preference; what an
evaluation, a measurement, a write of BELFRYCFG and a grant in effect leave; they settle O52 (R216 to R219, R437, R439, R440). -/

namespace Sys2Proof.Machine

open Sys2Proof

/-! ## Every grant, the preferred ones of equal sum first (R218) -/

/-- Lists of `n` ratios, higher first ratios first. -/
def ratioLists : Nat → List (List Nat)
  | 0 => [[]]
  | n + 1 => ratioRange.flatMap fun a => (ratioLists n).map (a :: ·)

theorem allGrants_eq_ratioLists : allGrants = ratioLists 4 := by
  simp only [allGrants, ratioLists, List.map_flatMap, List.map_cons, List.map_nil]
  rfl

theorem mem_ratioRange {x : Nat} : x ∈ ratioRange ↔ 4 ≤ x ∧ x ≤ 16 := by
  simp only [ratioRange, List.mem_cons, List.not_mem_nil, or_false]
  omega

theorem mem_ratioLists {n : Nat} {g : List Nat} : g ∈ ratioLists n ↔ g.length = n ∧ ∀ x ∈ g, 4 ≤ x ∧ x ≤ 16 := by
  induction n generalizing g with
  | zero => cases g <;> simp [ratioLists]
  | succ n ih => cases g <;> simp [ratioLists, ih, mem_ratioRange, and_left_comm]

theorem ratioLists_descend (n : Nat) : (ratioLists n).Pairwise fun g h => h < g := by
  induction n with
  | zero => exact List.pairwise_singleton _ _
  | succ n ih =>
    refine List.pairwise_flatMap.2 ⟨fun a _ => ?_, ?_⟩
    · exact List.pairwise_map.2 (ih.imp fun h => List.cons_lt_cons_iff.2 (.inr ⟨rfl, h⟩))
    · have hrange : ratioRange.Pairwise fun a b => b < a := by decide
      refine hrange.imp fun {a b} hab g hg h hh => ?_
      obtain ⟨g, -, rfl⟩ := List.mem_map.1 hg
      obtain ⟨h, -, rfl⟩ := List.mem_map.1 hh
      exact List.cons_lt_cons_iff.2 (.inl hab)

/-! ## The grant that is chosen (R217, R218) -/

section
variable {d : Die} {w : Int} {q g h b : List Nat} {c : BitVec 4} {l : List (List Nat)} {o : Option (List Nat)}

/-- A grant is nearer the request than another, or as near and of a higher sum. -/
abbrev beats (q : List Nat) (c : BitVec 4) (g h : List Nat) : Prop :=
  grantCost q c g < grantCost q c h ∨ (grantCost q c g = grantCost q c h ∧ ratioSum h < ratioSum g)

/-- A grant is at least as good as another: ties go to the higher sum, then to the higher ratios in order. -/
def preferred (q : List Nat) (c : BitVec 4) (g h : List Nat) : Prop :=
  grantCost q c g < grantCost q c h ∨ (grantCost q c g = grantCost q c h ∧ (ratioSum h < ratioSum g ∨
    (ratioSum h = ratioSum g ∧ (g = h ∨ h < g))))

theorem preferred_refl (g : List Nat) : preferred q c g g := .inr ⟨rfl, .inr ⟨rfl, .inl rfl⟩⟩

theorem preferred_of_beats (h1 : beats q c g h) : preferred q c g h := h1.imp_right fun ⟨he, hs⟩ => ⟨he, .inl hs⟩

theorem preferred_of_beats_of_preferred (h1 : beats q c g b) (h2 : preferred q c b h) : preferred q c g h := by
  have hle : grantCost q c b < grantCost q c h ∨ (grantCost q c b = grantCost q c h ∧ ratioSum h ≤ ratioSum b) :=
    h2.imp_right fun ⟨he, hs⟩ => ⟨he, hs.elim Nat.le_of_lt fun hs => Nat.le_of_eq hs.1⟩
  exact preferred_of_beats (by unfold beats at h1 ⊢; omega)

/-- Of two grants the earlier one in the order of preference is at least as good where the later one does not beat it. -/
theorem preferred_of_not_beats (h1 : ¬beats q c g b) (hlt : g < b) : preferred q c b g := by
  unfold beats at h1
  by_cases he : grantCost q c b = grantCost q c g ∧ ratioSum g = ratioSum b
  · exact .inr ⟨he.1, .inr ⟨he.2, .inr hlt⟩⟩
  · exact preferred_of_beats (by unfold beats; omega)

/-- What is kept of the best grant so far and the next one. -/
def keepBest (d : Die) (w : Int) (q : List Nat) (c : BitVec 4) (o : Option (List Nat)) (g : List Nat) : Option (List Nat) :=
  if w < 256 * (d.power g : Int) then o
  else match o with
    | none => some g
    | some b => if beats q c g b then some g else o

theorem bestGrant_eq (d : Die) (w : Int) (q : List Nat) (c : BitVec 4) :
    bestGrant d w q c = (ratioLists 4).foldl (keepBest d w q c) none := by
  rw [← allGrants_eq_ratioLists]
  rfl

/-- `o` is the best of a list of grants within a budget, if one is within it. -/
structure IsBest (d : Die) (w : Int) (q : List Nat) (c : BitVec 4) (l : List (List Nat)) (o : Option (List Nat)) : Prop where
  best : ∀ g, o = some g → g ∈ l ∧ 256 * (d.power g : Int) ≤ w ∧
    ∀ h ∈ l, 256 * (d.power h : Int) ≤ w → preferred q c g h
  absent : o = none → ∀ h ∈ l, ¬256 * (d.power h : Int) ≤ w

theorem IsBest.over (hb : IsBest d w q c l o) (hg : w < 256 * (d.power g : Int)) : IsBest d w q c (l ++ [g]) o where
  best b hob := by
    obtain ⟨hmem, hpow, hbest⟩ := hb.best b hob
    refine ⟨List.mem_append_left _ hmem, hpow, fun h hh hw => ?_⟩
    rcases List.mem_append.1 hh with hl | hs
    · exact hbest h hl hw
    · rw [List.mem_singleton.1 hs] at hw
      exact absurd hw (Int.not_le.2 hg)
  absent ho h hh := by
    rcases List.mem_append.1 hh with hl | hs
    · exact hb.absent ho h hl
    · rw [List.mem_singleton.1 hs]
      exact Int.not_le.2 hg

/-- The next grant is the best where it is within the budget and at least as good as each before it that is. -/
theorem IsBest.next (hg : 256 * (d.power g : Int) ≤ w)
    (hbest : ∀ h ∈ l, 256 * (d.power h : Int) ≤ w → preferred q c g h) : IsBest d w q c (l ++ [g]) (some g) where
  best b hob := by
    cases hob
    refine ⟨List.mem_append_right _ List.mem_cons_self, hg, fun h hh hw => ?_⟩
    rcases List.mem_append.1 hh with hl | hs
    · exact hbest h hl hw
    · rw [List.mem_singleton.1 hs]
      exact preferred_refl g
  absent ho := nomatch ho

theorem IsBest.stay (hb : IsBest d w q c l (some b)) (hg : preferred q c b g) : IsBest d w q c (l ++ [g]) (some b) where
  best b' hob := by
    cases hob
    obtain ⟨hmem, hpow, hbest⟩ := hb.best b rfl
    refine ⟨List.mem_append_left _ hmem, hpow, fun h hh hw => ?_⟩
    rcases List.mem_append.1 hh with hl | hs
    · exact hbest h hl hw
    · rwa [List.mem_singleton.1 hs]
  absent ho := nomatch ho

theorem IsBest.extend (hb : IsBest d w q c l o) (hlt : ∀ h ∈ l, g < h) :
    IsBest d w q c (l ++ [g]) (keepBest d w q c o g) := by
  unfold keepBest
  split
  next hover => exact hb.over hover
  next hin =>
    have hpow : 256 * (d.power g : Int) ≤ w := Int.not_lt.1 hin
    cases o with
    | none => exact .next hpow fun h hh hw => absurd hw (hb.absent rfl h hh)
    | some b =>
      obtain ⟨hmem, -, hbest⟩ := hb.best b rfl
      dsimp only
      split
      next hbeats => exact .next hpow fun h hh hw => preferred_of_beats_of_preferred hbeats (hbest h hh hw)
      next hnot => exact hb.stay (preferred_of_not_beats hnot (hlt b hmem))

/-- The fold over grants that descend keeps the best of them and of those before. -/
theorem isBest_foldl (hb : IsBest d w q c l o) (r : List (List Nat)) (hr : (l ++ r).Pairwise fun g h => h < g) :
    IsBest d w q c (l ++ r) (r.foldl (keepBest d w q c) o) := by
  induction r generalizing l o with
  | nil => rwa [List.append_nil]
  | cons g r ih =>
    have hlt : ∀ h ∈ l, g < h := fun h hh => (List.pairwise_append.1 hr).2.2 h hh g List.mem_cons_self
    rw [List.append_cons] at hr ⊢
    exact ih (hb.extend hlt) hr

theorem isBest_nil : IsBest d w q c [] none := ⟨nofun, fun _ _ hh => nomatch hh⟩

theorem permitted_iff : permitted d w g ↔ g ∈ ratioLists 4 ∧ 256 * (d.power g : Int) ≤ w := by
  rw [permitted, mem_ratioLists, and_assoc]

theorem bestGrant_isBest : IsBest d w q c (ratioLists 4) (bestGrant d w q c) := by
  rw [bestGrant_eq]
  exact isBest_foldl isBest_nil (ratioLists 4) (ratioLists_descend 4)

/-- The belfry's choice is permitted and at least as good as every permitted grant (R218). -/
theorem bestGrant_some (h : bestGrant d w q c = some g) :
    permitted d w g ∧ ∀ h, permitted d w h → preferred q c g h := by
  obtain ⟨hmem, hpow, hbest⟩ := bestGrant_isBest.best g h
  exact ⟨permitted_iff.2 ⟨hmem, hpow⟩, fun h hh => hbest h (permitted_iff.1 hh).1 (permitted_iff.1 hh).2⟩

theorem bestGrant_none (h : bestGrant d w q c = none) (g : List Nat) : ¬permitted d w g := fun hg =>
  bestGrant_isBest.absent h g (permitted_iff.1 hg).1 (permitted_iff.1 hg).2

end

/-! ## One die of two -/

section
variable {s : State}

theorem die_modDie_eq {d : Nat} (f : Die → Die) (h : d < s.dies.length) : (s.modDie d f).die d = f (s.die d) :=
  getD_modify_eq _ _ _ _ h

theorem die_modDie_ne {d k : Nat} (f : Die → Die) (h : d ≠ k) : (s.modDie d f).die k = s.die k :=
  getD_modify_ne _ _ _ _ _ h

theorem die_modDie_zero (s : State) (f0 f1 : Die → Die) (h : 0 < s.dies.length) :
    ((s.modDie 0 f0).modDie 1 f1).die 0 = f0 (s.die 0) := by
  rw [die_modDie_ne _ Nat.one_ne_zero, die_modDie_eq _ h]

theorem die_modDie_one (s : State) (f0 f1 : Die → Die) (h : 1 < s.dies.length) :
    ((s.modDie 0 f0).modDie 1 f1).die 1 = f1 (s.die 1) := by
  rw [die_modDie_eq _ (by rwa [State.modDie_dies, List.length_modify]), die_modDie_ne _ Nat.zero_ne_one]

end

/-! ## Budgets and evaluations (R216 to R218, R439, R440) -/

section
variable {s : State} {k : Nat}

/-- A die that no resident team is on has no governing launch (R216). -/
theorem governing_of_idle (h : ∀ t ∈ s.teams, t.onCore = true → t.die ≠ k) : s.governing k = none := by
  have hon (l : Nat) : s.launchOn l k = false := by
    refine List.any_eq_false.2 fun t ht => ?_
    simp only [Bool.and_eq_true, beq_iff_eq, not_and]
    exact fun hl hd => h t ht hl.2 hd
  have hnone : (List.range s.launches.length).filter (fun l => s.launchOn l k) = [] :=
    List.filter_eq_nil_iff.2 fun l _ => Bool.eq_false_iff.1 (hon l)
  rw [State.governing, hnone]
  rfl

/-- A die that is hot or idle is budgeted at its power at 4/16 (R217, R440). -/
theorem budget_low (h : (s.die k).hot = true ∨ ∀ t ∈ s.teams, t.onCore = true → t.die ≠ k) :
    s.budget k = 256 * ((s.die k).power [4, 4, 4, 4] : Int) := by
  have hlow : s.lowBudget k = true := by
    rcases h with hhot | hidle
    · simp [State.lowBudget, hhot]
    · simp [State.lowBudget, governing_of_idle hidle]
  simp only [State.budget, hlow, if_true]
  rfl

/-- Two dies governed by one class share the cap (R217, R439). -/
theorem budget_shared {e : Nat} (he : 1 - k = e) (hk : s.lowBudget k = false) (hl : s.lowBudget e = false)
    (hc : s.governClass k = s.governClass e) : s.budget k = s.shareOf k := by
  simp only [State.budget, he, hk, hl, hc, Bool.false_eq_true, if_false, if_true]

theorem budget_shares (h0 : s.lowBudget 0 = false) (h1 : s.lowBudget 1 = false) (hc : s.governClass 0 = s.governClass 1) :
    s.budget 0 = (s.capw.toNat * s.share0.toNat : Nat) ∧ s.budget 0 + s.budget 1 = (256 * s.capw.toNat : Nat) := by
  rw [budget_shared rfl h0 h1 hc, budget_shared rfl h1 h0 hc.symm]
  have hsum : (s.share0.toNat : Int) + (256 - (s.share0.toNat : Int)) = 256 := by omega
  simp only [State.shareOf, if_true, if_neg Nat.one_ne_zero, ← Int.mul_add, hsum, Int.natCast_mul]
  exact ⟨trivial, Int.mul_comm _ _⟩

/-- A die with a grant that is to take effect, if it differs from the one in effect. -/
def Die.ordered (g : List Nat) (x : Die) : Die :=
  { x with newGrant := if ratioWord g = x.grant then none else some (ratioWord g) }

/-- An evaluation changes what BELFRYSTAT shows, the grants to come, and a counter of the archive. -/
theorem evaluate_eq (s : State) : ∃ b0 b1 a, s.evaluate = { s with
    bud0 := b0, bud1 := b1, archive := a
    dies := (s.dies.modify 0 (Die.ordered (s.grantFor 0 (s.budget 0)))).modify 1
      (Die.ordered (s.grantFor 1 (s.budget 1))) } := by
  unfold State.evaluate
  dsimp only
  split
  · exact ⟨_, _, _, rfl⟩
  · exact ⟨_, _, _, rfl⟩

theorem evaluate_die (hk : k < 2) (hl : k < s.dies.length) :
    s.evaluate.die k = Die.ordered (s.grantFor k (s.budget k)) (s.die k) := by
  obtain ⟨_, _, _, he⟩ := evaluate_eq s
  rw [he]
  obtain rfl | rfl : k = 0 ∨ k = 1 := by omega
  · exact die_modDie_zero s _ _ hl
  · exact die_modDie_one s _ _ hl

end

/-! ## Measurements and BELFRYCFG (R88, R439) -/

section
variable {s : State}

/-- A change of a die that keeps its grant keeps every die's. -/
theorem grant_modDie (d : Nat) {f : Die → Die} (hf : ∀ x, (f x).grant = x.grant) (k : Nat) :
    ((s.modDie d f).die k).grant = (s.die k).grant := by
  by_cases hl : d < s.dies.length
  · by_cases hk : d = k
    · rw [← hk, die_modDie_eq f hl, hf]
    · rw [die_modDie_ne f hk]
  · rw [State.die, State.modDie_dies, List.modify_eq_self (Nat.not_lt.1 hl)]
    rfl

/-- A die with its fixed share and its watts per sixteenth (R217). -/
def Die.measured (w : Nat) (a : List Nat) (x : Die) : Die := { x with sPower := w, aPower := a }

/-- The state with a measurement of the module's power and of each die's (R439). -/
def State.measured (s : State) (n x y : Nat) (a b : List Nat) : State :=
  ({ s with pnow := BitVec.ofNat 12 (min 4095 n) }.modDie 0 (Die.measured x a)).modDie 1 (Die.measured y b)

theorem measured_dies (n x y : Nat) (a b : List Nat) (h : 1 < s.dies.length) :
    (s.measured n x y a b).die 0 = (s.die 0).measured x a ∧ (s.measured n x y a b).die 1 = (s.die 1).measured y b :=
  ⟨die_modDie_zero _ _ _ (Nat.zero_lt_of_lt h), die_modDie_one _ _ _ h⟩

theorem measured_grant (s : State) (n x y : Nat) (a b : List Nat) (k : Nat) :
    ((s.measured n x y a b).die k).grant = (s.die k).grant :=
  (grant_modDie 1 (f := Die.measured y b) (fun _ => rfl) k).trans (grant_modDie 0 (f := Die.measured x a) (fun _ => rfl) k)

theorem powerMeasurement_next (s : State) (n x y : Nat) (a b : List Nat) :
    ∃ t, exec (.powerMeasurement n x y a b) s = .next t ∧ t.pnow.toNat = min 4095 n ∧ t.capw = s.capw ∧
      (1 < s.dies.length → (t.die 0).sPower = x ∧ (t.die 0).aPower = a ∧ (t.die 1).sPower = y ∧ (t.die 1).aPower = b) ∧
      (∀ k, (t.die k).grant = (s.die k).grant) ∧ t.teams = s.teams ∧ t.mem = s.mem := by
  refine ⟨s.measured n x y a b, rfl, Nat.mod_eq_of_lt (by omega), rfl, fun hl => ?_, measured_grant s n x y a b, rfl, rfl⟩
  obtain ⟨hdie0, hdie1⟩ := measured_dies n x y a b hl
  rw [hdie0, hdie1]
  exact ⟨rfl, rfl, rfl, rfl⟩

theorem belfryCfgOk_iff (v : BitVec 32) : belfryCfgOk v = true ↔ v.extractLsb' 20 12 = 0 ∧
    32 ≤ (v.extractLsb' 0 8).toNat ∧ (v.extractLsb' 0 8).toNat ≤ 224 ∧
    600 ≤ (v.extractLsb' 8 12).toNat ∧ (v.extractLsb' 8 12).toNat ≤ 2400 := by
  simp only [belfryCfgOk, Bool.and_eq_true, beq_iff_eq, decide_eq_true_eq, and_assoc]

/-- A value in its ranges that differs from what stands is taken, and the belfry evaluates (R218, R439). -/
theorem belfrycfg_taken {v : BitVec 32} (hg : belfryCfgOk v = true)
    (hs : ¬(v.extractLsb' 0 8 = s.share0 ∧ v.extractLsb' 8 12 = s.capw)) : exec (.belfrycfgWrite v) s =
      .next (State.evaluate { s with share0 := v.extractLsb' 0 8, capw := v.extractLsb' 8 12 }) := by
  refine congrArg Host.Outcome.next (if_neg ?_)
  simpa only [hg, Bool.not_true, Bool.false_or, Bool.and_eq_true, beq_iff_eq] using hs

theorem belfrycfg_kept {v : BitVec 32}
    (h : ¬belfryCfgOk v = true ∨ (v.extractLsb' 0 8 = s.share0 ∧ v.extractLsb' 8 12 = s.capw)) :
    exec (.belfrycfgWrite v) s = .next s := by
  refine congrArg Host.Outcome.next (if_pos ?_)
  simpa only [Bool.or_eq_true, Bool.not_eq_true', Bool.not_eq_true, Bool.and_eq_true, beq_iff_eq] using h

theorem powerOverCap_over (h : s.capw.toNat < s.pnow.toNat) :
    exec .powerOverCap s = .next (State.evaluate { s with overCap := true }) :=
  congrArg Host.Outcome.next (if_pos (decide_eq_true h))

theorem powerOverCap_within (h : s.pnow.toNat ≤ s.capw.toNat) : exec .powerOverCap s = .next s :=
  congrArg Host.Outcome.next (if_neg (by simpa [BitVec.ult] using h))

end

/-! ## A grant in effect (R219) -/

section
variable {s : State}

/-- A team resident on a die has its notices. -/
def Team.noticeOn (d : Nat) (t : Team) : Team := if t.onCore && t.die == d then t.notice else t

/-- The state once grant `g` of die `sel` is in effect. -/
def State.granted (s : State) (g : BitVec 32) : State :=
  { s.modDie s.sel fun x => { x with grant := g, newGrant := none } with teams := s.teams.map (Team.noticeOn s.sel) }

theorem grantChange_none (h : (s.die s.sel).newGrant = none) : exec .grantChange s = .next s := by
  refine congrArg Host.Outcome.next ?_
  rw [h]

theorem grantChange_some {g : BitVec 32} (h : (s.die s.sel).newGrant = some g) :
    exec .grantChange s = .next (s.granted g) := by
  refine congrArg Host.Outcome.next ?_
  rw [h]
  rfl

theorem team_granted (g : BitVec 32) (m : Nat) : (s.granted g).team m =
    if m < s.teams.length ∧ (s.team m).onCore = true ∧ (s.team m).die = s.sel then (s.team m).notice else s.team m := by
  by_cases hm : m < s.teams.length
  · have hteam : (s.granted g).team m = (s.team m).noticeOn s.sel := by
      simp [State.granted, State.team, hm]
    simp only [hteam, Team.noticeOn, hm, true_and, Bool.and_eq_true, beq_iff_eq]
  · rw [if_neg fun h => hm h.1]
    simp [State.granted, State.team, hm]

theorem seeFlags_keeps (u : Thread) (v : BitVec 32) : (u.seeFlags v).regs = u.regs ∧ (u.seeFlags v).pc = u.pc := by
  unfold Thread.seeFlags
  split
  · exact ⟨rfl, rfl⟩
  · exact ⟨rfl, rfl⟩

/-- A notice leaves each thread's registers and PC. -/
theorem thr_granted (g : BitVec 32) (r : Ref) : ((s.granted g).thr r).regs = (s.thr r).regs ∧
    ((s.granted g).thr r).pc = (s.thr r).pc := by
  rw [State.thr, team_granted]
  split
  · have hthr : (s.team r.team).notice.threads.getD r.thr default =
        (s.thr r).seeFlags ((s.team r.team).tflags ||| 0x80000000#32) := getD_map _ _ _ _ rfl
    rw [hthr]
    exact seeFlags_keeps _ _
  · exact ⟨rfl, rfl⟩

theorem grantChange_next {g : BitVec 32} (h : (s.die s.sel).newGrant = some g) (hl : s.sel < s.dies.length) :
    ∃ t, exec .grantChange s = .next t ∧
      (t.die s.sel).grant = g ∧ (t.die s.sel).newGrant = none ∧ t.mem = s.mem ∧
      ∀ m, (if m < s.teams.length ∧ (s.team m).onCore = true ∧ (s.team m).die = s.sel then
          (t.team m).clkcnt = (s.team m).clkcnt + 1 ∧ (t.team m).tflags = (s.team m).tflags ||| 0x80000000
        else t.team m = s.team m) ∧
        ∀ q, (t.thr ⟨m, q⟩).regs = (s.thr ⟨m, q⟩).regs ∧ (t.thr ⟨m, q⟩).pc = (s.thr ⟨m, q⟩).pc := by
  have hdie : (s.granted g).die s.sel = { s.die s.sel with grant := g, newGrant := none } := die_modDie_eq _ hl
  refine ⟨_, grantChange_some h, by rw [hdie], by rw [hdie], rfl, fun m => ⟨?_, fun q => thr_granted g ⟨m, q⟩⟩⟩
  rw [team_granted]
  split
  · exact ⟨rfl, rfl⟩
  · rfl

end

/-- Settles O52: each event by what it leaves, the choice of a grant as the best of a descending list, and the budgets by what
governs the dies. -/
theorem powerControl : Obligations.PowerControl := by
  unfold Obligations.PowerControl
  intro s v n x y a b d hot
  refine ⟨powerMeasurement_next s n x y a b, rfl, ?_, ⟨s.evaluate, rfl, ?_, ?_, State.evaluate_mem s, fun k hk hl => ?_⟩,
    fun k w q c => ⟨fun g => bestGrant_some, bestGrant_none⟩, fun k => budget_low, budget_shares,
    ⟨powerOverCap_over, powerOverCap_within⟩, grantChange_none, fun g => grantChange_next⟩
  · dsimp only
    rw [← belfryCfgOk_iff]
    exact ⟨belfrycfg_taken, belfrycfg_kept⟩
  · obtain ⟨_, _, _, he⟩ := evaluate_eq s
    rw [he]
  · obtain ⟨_, _, _, he⟩ := evaluate_eq s
    rw [he]
  · rw [evaluate_die hk hl, Die.ordered, State.grantFor, lowRatios]
    exact ⟨rfl, rfl⟩

end Sys2Proof.Machine
end

section
/-! PROOFS. Integer arithmetic, logic, shifts, bit fields and immediates: each word reads registers and writes one N-bit
result, and the results are those of the model's operations (R243 to R251). -/

namespace Sys2Proof.Machine

open Sys2Proof

/-! ## A statement about every pair of a list, pair by pair -/

theorem forall_mem_nil_pair {α β : Type} {P : α → β → Prop} : ∀ x y, (x, y) ∈ ([] : List (α × β)) → P x y :=
  nofun

theorem forall_mem_cons_pair {α β : Type} {P : α → β → Prop} {a : α} {b : β} {l : List (α × β)} (h : P a b)
    (hl : ∀ x y, (x, y) ∈ l → P x y) : ∀ x y, (x, y) ∈ (a, b) :: l → P x y
  | _, _, .head _ => h
  | x, y, .tail _ hm => hl x y hm

/-! ## A word that writes one N-bit result (R243, R244) -/

section
variable {s : State} {i : Instr} {d a b : BitVec 6} {v : BitVec 11}

theorem completes_setReg {x : Thread → Reg} (he : exec i s = .next (s.register i fun t u => u.setReg d.toNat (x t)))
    (hi : s.issues i (Clean i)) : Completes i s (Gives d x) :=
  completes_register he hi (veiled_lane _ _ _ _) fun u => gives_setReg u d x

/-- A word that writes a result that is `f'` at every width completes with `f'`: the width is 32 or 64, never 0. -/
theorem completes_setN {f f' : Thread → (n : Nat) → BitVec n}
    (he : exec i s = .next (s.register i fun t u => t.setN u d (f t))) (hf : ∀ t n, 0 < n → f t n = f' t n)
    (hi : s.issues i (Clean i)) : Completes i s (Gives d fun u => intReg u (f' u)) := by
  have hreg : (fun t => intReg t (f t)) = fun t => intReg t (f' t) := by
    funext t
    simp only [intReg, hf t 32 (by decide), hf t 64 (by decide)]
  rw [← hreg]
  exact completes_setReg he hi

theorem completes_int1_of {f f' : Op1} (he : exec i s = .next (s.register i fun t u => t.int1 u d a f))
    (hf : ∀ n x, 0 < n → f n x = f' n x) (hi : s.issues i (Clean i)) : Completes i s (Int1 d a f') :=
  completes_setN he (fun _ n hn => hf n _ hn) hi

theorem completes_int1 {f : Op1} (he : exec i s = .next (s.register i fun t u => t.int1 u d a f))
    (hi : s.issues i (Clean i)) : Completes i s (Int1 d a f) :=
  completes_int1_of he (fun _ _ _ => rfl) hi

theorem completes_int2_of {f f' : Op2} (he : exec i s = .next (s.register i fun t u => t.int2 u d a b f))
    (hf : ∀ n x y, 0 < n → f n x y = f' n x y) (hi : s.issues i (Clean i)) : Completes i s (Int2 d a b f') :=
  completes_setN he (fun _ n hn => hf n _ _ hn) hi

theorem completes_int2 {f : Op2} (he : exec i s = .next (s.register i fun t u => t.int2 u d a b f))
    (hi : s.issues i (Clean i)) : Completes i s (Int2 d a b f) :=
  completes_int2_of he (fun _ _ _ _ => rfl) hi

theorem imm32_eq_imm (u : Thread) (v : BitVec 11) : u.imm32 v = imm u v := rfl

theorem completes_intImm {f : Op2} (he : exec i s = .next (s.register i fun t u => t.intImm u d a v f))
    (hi : s.issues i (Clean i)) : Completes i s (IntImm d a v f) :=
  completes_setN he (fun t n _ => by rw [imm32_eq_imm]; rfl) hi

end

/-! ## Signed results (R247) -/

section
variable {n : Nat} (x y : BitVec n)

theorem toInt_eq_neg_two_pow_iff (hn : 0 < n) : x.toInt = -2 ^ (n - 1) ↔ x = BitVec.intMin n := by
  rw [← BitVec.toInt_inj, BitVec.toInt_intMin_of_pos hn]

theorem toInt_eq_neg_one_iff (hn : 0 < n) : x.toInt = -1 ↔ x = BitVec.allOnes n := by
  rw [← BitVec.toInt_inj, BitVec.toInt_allOnes, if_pos hn]

theorem divs_eq (hn : 0 < n) : divs n x y =
    if y = 0 then BitVec.allOnes n
    else if x.toInt = -2 ^ (n - 1) ∧ y.toInt = -1 then x else BitVec.ofInt n (x.toInt.tdiv y.toInt) := by
  simp only [divs, toInt_eq_neg_two_pow_iff x hn, toInt_eq_neg_one_iff y hn]

theorem rems_eq (hn : 0 < n) : rems n x y =
    if y = 0 then x
    else if x.toInt = -2 ^ (n - 1) ∧ y.toInt = -1 then 0
    else BitVec.ofInt n (x.toInt - y.toInt * x.toInt.tdiv y.toInt) := by
  simp only [rems, toInt_eq_neg_two_pow_iff x hn, toInt_eq_neg_one_iff y hn]

theorem satInt_eq_max_min {x lo hi : Int} (h : lo ≤ hi) : satInt x lo hi = max lo (min x hi) := by
  unfold satInt
  omega

theorem satN_eq (x : Int) : satN n x = BitVec.ofInt n (max (-2 ^ (n - 1)) (min x (2 ^ (n - 1) - 1))) := by
  have hpos : (0 : Int) < 2 ^ (n - 1) := Int.pow_pos (by decide)
  rw [satN, satInt_eq_max_min (by omega)]

end

/-- Settles O1: each word writes one result, and the model's division, remainder, order and saturation are those of R247. -/
theorem integerResults : Obligations.IntegerResults := by
  unfold Obligations.IntegerResults
  exact fun s g d a b => ⟨
    -- IADD, ISUB, IMUL, IMULH, IMULHU
    forall_mem_cons_pair (completes_int2 rfl) <| forall_mem_cons_pair (completes_int2 rfl) <|
    forall_mem_cons_pair (completes_int2 rfl) <| forall_mem_cons_pair (completes_int2 rfl) <|
    forall_mem_cons_pair (completes_int2 rfl) <|
    -- IDIV, IDIVU, IREM, IREMU
    forall_mem_cons_pair (completes_int2_of rfl fun _ x y hn => divs_eq x y hn) <|
    forall_mem_cons_pair (completes_int2 rfl) <|
    forall_mem_cons_pair (completes_int2_of rfl fun _ x y hn => rems_eq x y hn) <|
    forall_mem_cons_pair (completes_int2 rfl) <|
    -- IMIN, IMAX, IMINU, IMAXU
    forall_mem_cons_pair (completes_int2_of rfl fun _ _ _ _ => by simp only [BitVec.slt_iff_toInt_lt]) <|
    forall_mem_cons_pair (completes_int2_of rfl fun _ _ _ _ => by simp only [BitVec.slt_iff_toInt_lt]) <|
    forall_mem_cons_pair (completes_int2_of rfl fun _ _ _ _ => by simp only [BitVec.ult_iff_toNat_lt]) <|
    forall_mem_cons_pair (completes_int2_of rfl fun _ _ _ _ => by simp only [BitVec.ult_iff_toNat_lt]) <|
    -- IADDS, ISUBS
    forall_mem_cons_pair (completes_int2_of rfl fun _ _ _ _ => satN_eq _) <|
    forall_mem_cons_pair (completes_int2_of rfl fun _ _ _ _ => satN_eq _) forall_mem_nil_pair,
    completes_int1 rfl⟩

/-! ## Counts of bits (R248) -/

/-- The zeros before the first set bit, counted from the top bit of the `k` low bits of `x` down. -/
theorem length_takeWhile_eq_leading (x k : Nat) (q : Nat → Bool) (hq : ∀ j < k, q j = x.testBit (k - 1 - j)) :
    ((List.range k).takeWhile fun j => !q j).length = leading x k := by
  induction k generalizing q with
  | zero => rfl
  | succ k ih =>
    have htail := ih (fun j => q (j + 1)) fun j hj => by rw [hq _ (by omega)]; congr 1; omega
    rw [List.range_succ_eq_map, List.takeWhile_cons, hq 0 (by omega), leading, List.takeWhile_map, ← htail]
    cases hx : x.testBit (k + 1 - 1 - 0) <;> simp_all [Function.comp_def]

section
variable (n : Nat) (x : BitVec n)

theorem popcN_eq : popcN n x = BitVec.ofNat n ((List.range n).countP fun k => x.getLsbD k) := by
  rw [popcN, List.countP_eq_length_filter]

theorem clzN_eq : clzN n x = BitVec.ofNat n (leading x.toNat n) :=
  congrArg (BitVec.ofNat n) (length_takeWhile_eq_leading _ _ _ fun _ _ => rfl)

theorem ctzN_eq : ctzN n x = BitVec.ofNat n (leading x.reverse.toNat n) := by
  refine congrArg (BitVec.ofNat n) (length_takeWhile_eq_leading _ _ _ fun j hj => ?_)
  rw [BitVec.testBit_toNat, BitVec.getLsbD_reverse, BitVec.getMsbD_eq_getLsbD, decide_eq_true (by omega), Bool.true_and]
  congr 1
  omega

end

/-- Settles O2: each word writes one result, CLZ and CTZ by the count of leading zeros, MOV a register with its tag. -/
theorem logicShiftAndFieldResults : Obligations.LogicShiftAndFieldResults := by
  unfold Obligations.LogicShiftAndFieldResults
  exact fun s g d a b => ⟨
    -- AND, OR, XOR, ANDN, ORN, XNOR
    forall_mem_cons_pair (completes_int2 rfl) <| forall_mem_cons_pair (completes_int2 rfl) <|
    forall_mem_cons_pair (completes_int2 rfl) <| forall_mem_cons_pair (completes_int2 rfl) <|
    forall_mem_cons_pair (completes_int2 rfl) <| forall_mem_cons_pair (completes_int2 rfl) <|
    -- SHL, SHR, SAR, ROL, ROT, BFE
    forall_mem_cons_pair (completes_int2 rfl) <| forall_mem_cons_pair (completes_int2 rfl) <|
    forall_mem_cons_pair (completes_int2 rfl) <| forall_mem_cons_pair (completes_int2 rfl) <|
    forall_mem_cons_pair (completes_int2 rfl) <| forall_mem_cons_pair (completes_int2 rfl) forall_mem_nil_pair,
    -- POPC, CLZ, CTZ, BREV
    forall_mem_cons_pair (completes_int1_of rfl fun n x _ => popcN_eq n x) <|
    forall_mem_cons_pair (completes_int1_of rfl fun n x _ => clzN_eq n x) <|
    forall_mem_cons_pair (completes_int1_of rfl fun n x _ => ctzN_eq n x) <|
    forall_mem_cons_pair (completes_int1 rfl) forall_mem_nil_pair,
    -- BFI, MOV
    completes_setN rfl fun _ _ _ => rfl,
    completes_setReg rfl⟩

/-- Settles O3: a register and the immediate that its hint widens give one result, and a shift count is taken modulo N. -/
theorem immediateResults : Obligations.ImmediateResults := by
  unfold Obligations.ImmediateResults
  exact fun s g d a v => ⟨
    -- IADDI, IMULI, ANDI, ORI, XORI
    forall_mem_cons_pair (completes_intImm rfl) <| forall_mem_cons_pair (completes_intImm rfl) <|
    forall_mem_cons_pair (completes_intImm rfl) <| forall_mem_cons_pair (completes_intImm rfl) <|
    forall_mem_cons_pair (completes_intImm rfl) forall_mem_nil_pair,
    -- MOVI
    completes_setN rfl fun _ _ _ => by rw [imm32_eq_imm],
    -- SHLI, SHRI, SARI
    forall_mem_cons_pair (completes_int1 rfl) <| forall_mem_cons_pair (completes_int1 rfl) <|
    forall_mem_cons_pair (completes_int1 rfl) forall_mem_nil_pair⟩

end Sys2Proof.Machine
end

section
/-! PROOFS. Compares, predicate logic, PGET, PPUT and SEL, and the control transfers (R253 to R258). -/

namespace Sys2Proof.Machine

open Sys2Proof

/-! ## ICMP and the predicate logic (R253, R254) -/

section
variable {s : State} {i : Instr} {p : BitVec 3}

/-- A word that writes one predicate. -/
theorem completes_setPred {b b' : Thread → Bool} (he : exec i s = .next (s.register i fun t u => u.setPred p (b t)))
    (hb : ∀ t, b t = b' t) (hi : s.issues i (Clean i)) : Completes i s (Sets p b') :=
  completes_register he hi (veiled_lane _ _ _ _) fun u => funext hb ▸ sets_setPred u p b

theorem icmpHolds_eq {n : Nat} {c : BitVec 4} (hc : c.toNat < 10) (x y : BitVec n) :
    icmpHolds n c x y = (icmpConds n x y).getD c.toNat false := by
  simp only [icmpHolds, icmpConds, ne_eq, decide_not, BitVec.slt_eq_decide, BitVec.sle_eq_decide,
    BitVec.ult_eq_decide, BitVec.ule_eq_decide]
  match c.toNat, hc with
  | 0, _ | 1, _ | 2, _ | 3, _ | 4, _ | 5, _ | 6, _ | 7, _ | 8, _ | 9, _ => rfl

end

/-! ## PGET and PPUT: the predicates as bits (R254) -/

/-- The powers of two of a number's low bits sum to the number that those bits hold. -/
theorem foldl_testBit (x n : Nat) :
    (List.range n).foldl (fun m k => m + if x.testBit k then 2 ^ k else 0) 0 = x % 2 ^ n := by
  induction n with
  | zero => rw [Nat.pow_zero, Nat.mod_one]; rfl
  | succ n ih =>
    rw [List.range_succ, List.foldl_append, List.foldl_cons, List.foldl_nil, ih, Nat.mod_pow_succ, ← Nat.toNat_testBit]
    cases x.testBit n <;> simp

theorem getLsbD_one_eight (q : BitVec 3) : (1#8).getLsbD q.toNat = (q == 0) := by
  revert q; decide

/-- The predicates as PGET reads them: P0 is always true (R172). -/
theorem pred_eq_getLsbD (u : Thread) (q : BitVec 3) : u.pred q = (u.preds ||| 1#8).getLsbD q.toNat := by
  rw [Thread.pred, BitVec.getLsbD_or, getLsbD_one_eight, Bool.or_comm]

theorem predBits_eq (u : Thread) :
    (List.range 8).foldl (fun n k => n + if u.pred (BitVec.ofNat 3 k) then 2 ^ k else 0) 0 = (u.preds ||| 1#8).toNat := by
  rw [← Nat.mod_eq_of_lt (u.preds ||| 1#8).isLt, ← foldl_testBit]
  refine List.foldl_rel (r := Eq) rfl fun k hk m n hmn => ?_
  rw [hmn, pred_eq_getLsbD, BitVec.testBit_toNat, BitVec.toNat_ofNat, Nat.mod_eq_of_lt (List.mem_range.1 hk)]

theorem pget_completes {s : State} {g : BitVec 3} {e : BitVec 6} (hi : s.issues (.pget g e) (Clean (.pget g e))) :
    Completes (.pget g e) s (Gives e fun u => { val := BitVec.ofNat 64 ((List.range 8).foldl
      (fun n k => n + if u.pred (BitVec.ofNat 3 k) then 2 ^ k else 0) 0), tag := tagI32 }) := by
  simp only [predBits_eq, BitVec.ofNat_toNat]
  exact completes_setReg rfl hi

/-- PPUT takes P1 to P7 from bits 1 to 7 of a register. -/
theorem pput_lane (u : Thread) (x : BitVec 64) :
    Lane u { u.retire with preds := (x.setWidth 8 &&& 0xFE#8) ||| (u.preds &&& 1#8) } nothing
      (fun k => k = 0 || x.getLsbD k.toNat) u.fpstat u.nextPc where
  reg := reg_nothing u
  preds q := by
    have hmask : (0xFE#8).getLsbD q.toNat = !(q == 0) := by revert q; decide
    show _ = (q == 0 || x.getLsbD q.toNat)
    simp only [pred_eq_getLsbD, BitVec.getLsbD_or, BitVec.getLsbD_and, BitVec.getLsbD_setWidth, hmask, getLsbD_one_eight,
      decide_eq_true (show q.toNat < 8 from q.isLt)]
    cases q == 0 <;> simp
  fpstat := rfl
  pc := rfl
  hint := rfl
  rest := rfl

theorem pput_completes {s : State} {g : BitVec 3} {a : BitVec 6} (hi : s.issues (.pput g a) (Clean (.pput g a))) :
    Completes (.pput g a) s fun u v =>
      Lane u v nothing (fun k => k = 0 || (u.reg a.toNat).val.getLsbD k.toNat) u.fpstat u.nextPc :=
  completes_register rfl hi (veiled_lane _ _ _ _) fun u => pput_lane u (u.reg a.toNat).val

/-- Settles O18: a compare by the list of its conditions, predicate logic by its result, PGET and PPUT by the bits of the
predicates. -/
theorem compareAndPredicateResults : Obligations.CompareAndPredicateResults := by
  unfold Obligations.CompareAndPredicateResults
  exact fun s g d p q a b e w c => ⟨
    fun hc => completes_setPred rfl fun t => by simp only [icmpHolds_eq hc]; split <;> rfl,
    -- PAND, POR, PXOR, PANDN, PNOT, PMOV
    forall_mem_cons_pair (completes_setPred rfl fun _ => rfl) <|
    forall_mem_cons_pair (completes_setPred rfl fun _ => rfl) <|
    forall_mem_cons_pair (completes_setPred rfl fun _ => rfl) <|
    forall_mem_cons_pair (completes_setPred rfl fun _ => rfl) <|
    forall_mem_cons_pair (completes_setPred rfl fun _ => rfl) <|
    forall_mem_cons_pair (completes_setPred rfl fun _ => rfl) forall_mem_nil_pair,
    pget_completes, pput_completes, completes_setReg rfl⟩

/-! ## Control transfers (R256, R257) -/

/-- A lane that then goes to another address. -/
theorem Lane.withPc {u v : Thread} {w : Nat → Option Reg} {p : BitVec 3 → Bool} {c : BitVec 32} {x : BitVec 64}
    (h : Lane u v w p c x) (y : BitVec 64) : Lane u { v with pc := y } w p c y :=
  ⟨h.reg, h.preds, h.fpstat, rfl, h.hint, h.rest⟩

/-- The register of a call's link (R256). -/
def linkReg (u : Thread) : BitVec 6 := if u.ctl then 31 else 62

/-- What a call writes (R256). -/
def linkOf (u : Thread) : Nat → Option Reg := pair u.ctl (linkReg u) (u.wordPc + 4) tagI32

theorem writes_setLink (u : Thread) : Writes linkOf u (u.setLink u.retire) := by
  have hreg : u.setLink u.retire = u.retire.setPair (linkReg u).toNat (u.wordPc + 4) tagI32 := by
    unfold Thread.setLink linkReg
    split <;> rfl
  rw [hreg]
  refine writes_setPair u (linkReg u) _ tagI32 fun hc => ?_
  simp [linkReg, hc]

theorem extractLsb'_zero_two_eq_zero {x : BitVec 64} (h : x.toNat % 4 = 0) : x.extractLsb' 0 2 = 0 :=
  BitVec.eq_of_toNat_eq (by simpa using h)

section
variable {s : State} {i : Instr} {f : Thread → BitVec 64}

theorem jumpCheck_run {r : Ref} (hc : Clean i (s.thr r)) (hg : goodTarget (f (s.thr r))) : s.jumpCheck i f r = .run := by
  obtain ⟨haligned, hcanonical⟩ := hg
  have hpoison : (s.thr r).poisoned (infoOf i).reads = false := hc
  simp [State.jumpCheck, hpoison, extractLsb'_zero_two_eq_zero haligned, hcanonical]

/-- A branch to a good target. -/
theorem completes_jump (he : exec i s = .next (s.jump i f false))
    (hi : s.issues i fun u => Clean i u ∧ goodTarget (f u)) :
    Completes i s (Jumps (fun _ => nothing) f) :=
  completes_lanewise he hi (fun _ _ _ ⟨hc, hg⟩ => jumpCheck_run hc hg) (veiled_lane _ _ _ _) fun u _ _ =>
    (idle_retire u).withPc (f u)

/-- A call of a good target. -/
theorem completes_call (he : exec i s = .next (s.jump i f true)) (hi : s.issues i fun u => Clean i u ∧ goodTarget (f u)) :
    Completes i s (Jumps linkOf f) :=
  completes_lanewise he hi (fun _ _ _ ⟨hc, hg⟩ => jumpCheck_run hc hg) (veiled_lane _ _ _ _) fun u _ _ =>
    (writes_setLink u).withPc (f u)

end

/-- Settles O20: a transfer whose target is good retires its word with the target as its PC, a call with its link too. -/
theorem controlTransfers : Obligations.ControlTransfers := by
  unfold Obligations.ControlTransfers
  exact fun s g a b o => ⟨
    -- BRA, RET, JMPR, BRX
    forall_mem_cons_pair (completes_jump rfl) <| forall_mem_cons_pair (completes_jump rfl) <|
    forall_mem_cons_pair (completes_jump rfl) <| forall_mem_cons_pair (completes_jump rfl) forall_mem_nil_pair,
    -- CALL, CALLR
    forall_mem_cons_pair (completes_call rfl) <| forall_mem_cons_pair (completes_call rfl) forall_mem_nil_pair⟩

end Sys2Proof.Machine
end

section
/-! PROOFS. SRD and CSRR: no lane that reads changes what another one reads, but for CPSTAT and ESTAT, which the first to
read them clears; they settle O27 (R263, R264, R356, R385). -/

namespace Sys2Proof.Machine

open Sys2Proof

/-! ## What the special and control registers are read from -/

/-- A thread without what a word that only writes registers changes. -/
def Thread.readable (t : Thread) : Thread :=
  { t with pc := 0, hint := none, regs := default, wait := none, walked := [], age := 0, holdoff := 0 }
/-- A team so. -/
def Team.readable (x : Team) : Team := { x with threads := x.threads.map Thread.readable }
/-- A state so: what every special and control register is read from. -/
def State.readable (s : State) : State := { s with teams := s.teams.map Team.readable }

theorem readable_retire (u : Thread) : u.retire.readable = u.readable := rfl

theorem readable_setReg (u : Thread) (n : Nat) (v : Reg) : (u.setReg n v).readable = u.readable := by
  unfold Thread.setReg
  split <;> rfl

theorem readable_setPair (u : Thread) (n : Nat) (v : BitVec 64) (tag : Tag) :
    (u.setPair n v tag).readable = u.readable := by
  unfold Thread.setPair
  split <;> simp only [readable_setReg]

theorem readable_set32 (u : Thread) (n : Nat) (v : BitVec 32) (tag : Tag) : (u.set32 n v tag).readable = u.readable :=
  readable_setReg ..

theorem readable_setWord (u : Thread) (d : Nat) (wide : Bool) (v : BitVec 64) :
    (u.setWord d wide v).readable = u.readable := by
  unfold Thread.setWord
  split
  · exact readable_setPair ..
  · exact readable_set32 ..

section
variable {s x : State}

theorem readable_modThr (s : State) (r : Ref) {f : Thread → Thread} (h : ∀ u, (f u).readable = u.readable) :
    (s.modThr r f).readable = s.readable := by
  have hteam (x : Team) : Team.readable { x with threads := x.threads.modify r.thr f } = x.readable := by
    simp only [Team.readable, veil_map _ _ _ _ h]
  simp only [State.readable, State.modThr, State.modTeam, veil_map _ _ _ _ hteam]

theorem readable_each (s : State) (rs : List Ref) {f : Ref → Thread → Thread} (h : ∀ r u, (f r u).readable = u.readable) :
    (s.each rs f).readable = s.readable := by
  induction rs generalizing s with
  | nil => rfl
  | cons r rs ih => rw [each_cons, ih, readable_modThr _ _ (h r)]

theorem readable_passed (s : State) : s.passed.readable = s.readable := readable_each s s.cur fun _ => readable_retire

theorem team_readable (s : State) (n : Nat) : s.readable.team n = (s.team n).readable := getD_map _ _ _ _ rfl

theorem thr_readable (s : State) (r : Ref) : s.readable.thr r = (s.thr r).readable := by
  simp only [State.thr, team_readable]
  exact getD_map _ _ _ _ rfl

theorem team_of_readable (h : x.readable = s.readable) (n : Nat) : (x.team n).readable = (s.team n).readable := by
  rw [← team_readable, ← team_readable, h]

theorem srdVal_readable (s : State) (r : Ref) (n : BitVec 6) : s.readable.srdVal r n = s.srdVal r n := by
  simp only [State.srdVal, State.siblings, State.liveRefs, State.groupRefs, State.width, State.lanes, State.harvest,
    State.block, State.launchOf, State.dieOf, State.coreOf, State.halfOf, State.half, State.group, State.ccount,
    State.core, thr_readable, team_readable]
  rfl

theorem coreOf_readable (s : State) (r : Ref) : s.readable.coreOf r = s.coreOf r := by
  simp only [State.coreOf, State.halfOf, State.half, thr_readable, team_readable]
  rfl

theorem accInfo_readable (s : State) (k : Nat) : s.readable.accInfo k = s.accInfo k := by
  have hcore : s.readable.core k = s.core k := rfl
  have hhalves (n : Nat) : (s.readable.team n).halves = (s.team n).halves := by rw [team_readable]; rfl
  simp only [State.accInfo, hcore, hhalves]

theorem accOwn_readable (s : State) (k : Nat) : s.readable.accOwn k = s.accOwn k := rfl

theorem csrVal_readable (s : State) (r : Ref) (n : BitVec 11) : s.readable.csrVal r n = s.csrVal r n := by
  simp only [State.csrVal, accOwn_readable, accInfo_readable, coreOf_readable, thr_readable, team_readable]
  rfl

end

/-! ## A read that clears nothing (R263, R385) -/

section
variable {s x : State} {i : Instr} {d : BitVec 6} {wide : Bool}

theorem writes_setWord (u : Thread) (v : BitVec 64) (h : wide = true → u.ctl = false → d.toNat + 1 < 64) :
    Writes (fun u => wordReg u.ctl wide d v) u (u.retire.setWord d.toNat wide v) := by
  cases wide with
  | true => exact writes_setPair u d v tagI32 (h rfl)
  | false =>
    have hlow : (v.setWidth 32).setWidth 64 = v &&& 0xFFFFFFFF := low32_eq_and v
    show Writes (fun _ => one d { val := v &&& 0xFFFFFFFF, tag := tagI32 }) u
      (u.retire.setReg d.toNat { val := (v.setWidth 32).setWidth 64, tag := tagI32 })
    rw [hlow]
    exact gives_setReg u d _

/-- A register `val` that is read from what no read changes. -/
def Lasting (val : State → Ref → BitVec 64) : Prop := ∀ s r, val s.readable r = val s r

theorem Lasting.eq {val : State → Ref → BitVec 64} (hv : Lasting val) (h : x.readable = s.readable) (r : Ref) :
    val x r = val s r := by
  rw [← hv x, ← hv s, h]

/-- Lanes that read one after another read what stood there at first. -/
theorem foldl_read {val : State → Ref → BitVec 64} (hv : Lasting val) (h : x.readable = s.readable) (rs : List Ref)
    (d : Nat) :
    rs.foldl (fun x r => x.modThr r fun u => u.setWord d wide (val x r)) x =
      x.each rs fun r u => u.setWord d wide (val s r) := by
  induction rs generalizing x with
  | nil => rw [List.foldl_nil, each_nil]
  | cons r rs ih =>
    rw [List.foldl_cons, each_cons, hv.eq h, ih ((readable_modThr _ _ fun _ => readable_setWord ..).trans h)]

theorem perform_congr_act {v : Ref → Verdict} {act act' : State → List Ref → State} (hc : s.clear v)
    (h : ∀ rs, act s.passed rs = act' s.passed rs) : s.perform v act = s.perform v act' := by
  have hpassed : s.each s.cur (fun _ => Thread.retire) = s.passed := rfl
  rw [perform_clear act hc, perform_clear act' hc, hpassed, h]

theorem completes_read {own : Ref → Verdict} {val : State → Ref → BitVec 64} (hv : Lasting val)
    (he : exec i s = .next (s.perform (s.judge i own) fun x rs =>
      rs.foldl (fun x r => x.modThr r fun u => u.setWord d.toNat wide (val x r)) x))
    (hi : s.issues i fun _ => True) (ho : ∀ r, own r = .run)
    (hd : (infoOf i).writes = [if wide then u2 d else u1 d]) :
    CompletesAt i s fun r => Writes fun u => wordReg u.ctl wide d (val s r) := by
  have hclear : s.clear (s.judge i own) := clear_of_issues hi fun r _ _ _ => ho r
  rw [perform_congr_act hclear fun rs => foldl_read hv (readable_passed s) rs d.toNat] at he
  have hpair : wide = true → u2 d ∈ (infoOf i).reads ++ (infoOf i).writes := fun hw => by
    rw [hd, if_pos hw]
    exact List.mem_concat_self
  exact completesAt_of_acts (f := fun _ r u => u.setWord d.toNat wide (val s r)) he (fun _ _ => rfl) hi
    (fun r _ _ _ => ho r) (fun _ => veiled_lane _ _ _ _) fun r hr hg _ =>
      writes_setWord (s.thr r) _ fun hw => pair_lt_of_accepts (hi.2 r hr).1 hg (hpair hw)

end

section
variable {s : State} {g : BitVec 3} {d : BitVec 6}

theorem srd_completes {n : BitVec 6} (hn : srdExists n = true) (hne : n ≠ 0x13)
    (hi : s.issues (.srd g d n) fun _ => True) :
    CompletesAt (.srd g d n) s fun r => Writes fun u => wordReg u.ctl (srdWide n) d (s.srdVal r n) := by
  have hlane (x : State) (r : Ref) : x.srdLane d n r = x.modThr r fun u => u.setWord d.toNat (srdWide n) (x.srdVal r n) :=
    if_neg hne
  have he : exec (.srd g d n) s = .next (s.perform (s.judge (.srd g d n) fun _ =>
    if srdExists n then .run else .fail (illegalFault rRange)) fun x rs => rs.foldl (fun x r => x.srdLane d n r) x) := rfl
  simp only [hlane] at he
  exact completes_read (val := fun x r => x.srdVal r n) (fun s r => srdVal_readable s r n) he hi (fun _ => if_pos hn) rfl

theorem csrr_completes {n : BitVec 11} (hn : csrExists n = true) (hne : n ≠ 0x010)
    (hi : s.issues (.csrr g d n) fun _ => True) :
    CompletesAt (.csrr g d n) s fun r => Writes fun u => wordReg u.ctl (csrWide n) d (s.csrVal r n) := by
  have hlane (x : State) (r : Ref) : x.csrrLane d n r = x.modThr r fun u => u.setWord d.toNat (csrWide n) (x.csrVal r n) :=
    if_neg hne
  have he : exec (.csrr g d n) s = .next (s.perform (s.judge (.csrr g d n) fun _ => csrCheck n .run) fun x rs =>
    rs.foldl (fun x r => x.csrrLane d n r) x) := rfl
  simp only [hlane] at he
  exact completes_read (val := fun x r => x.csrVal r n) (fun s r => csrVal_readable s r n) he hi (fun _ => if_pos hn) rfl

end

/-! ## The registers one by one (R263, R18, R356) -/

/-- ACCOWN: the owner's context in bits [15:0], HELD in bit 16 (R375). -/
theorem accOwn_eq (s : State) (k : Nat) :
    s.accOwn k = (s.core k).owner.setWidth 64 + if (s.core k).held then 0x10000 else 0 := by
  have howner := (s.core k).owner.isLt
  refine BitVec.eq_of_toNat_eq ?_
  cases h : (s.core k).held <;>
    · simp only [State.accOwn, h, toNat_append_eq_add, BitVec.toNat_add, BitVec.toNat_setWidth, BitVec.toNat_ofNat,
        BitVec.ofNat_eq_ofNat, BitVec.toNat_ofBool, Bool.toNat_true, Bool.toNat_false, Bool.false_eq_true, if_true,
        if_false]
      omega

/-- COHORT: all ones where the team has none (R263). -/
theorem srdVal_cohort (s : State) (r : Ref) :
    s.srdVal r 0x09 = (s.team r.team).cohort.elim 0xFFFFFFFF (BitVec.ofNat 64) := by
  simp only [State.srdVal]
  cases (s.team r.team).cohort <;> rfl

theorem srdTable_holds (s : State) (r : Ref) : ∀ p ∈ srdTable s r, srdWide p.1 = p.2.1 ∧ s.srdVal r p.1 = p.2.2 := by
  simp only [srdTable, ← srdVal_cohort s r, List.forall_mem_cons, List.not_mem_nil, false_implies, implies_true, and_true]
  and_intros <;> rfl

theorem csrTable_holds (s : State) (r : Ref) : ∀ p ∈ csrTable s r, csrWide p.1 = p.2.1 ∧ s.csrVal r p.1 = p.2.2 := by
  simp only [csrTable, ← accOwn_eq, List.forall_mem_cons, List.not_mem_nil, false_implies, implies_true, and_true]
  and_intros <;> rfl

/-! ## A read that clears (R264, R385) -/

/-- A word of a team that a lane clears as it reads it: `get` reads it, `clear` clears it, and neither sees the threads. -/
structure Cleared (get : Team → BitVec 32) (clear : Team → Team) : Prop where
  get_threads : ∀ m l, get { m with threads := l } = get m
  get_clear : ∀ m, get (clear m) = 0
  clear_of_zero : ∀ m, get m = 0 → clear m = m

theorem cleared_cpstat : Cleared Team.cpstat fun m => { m with cpstat := 0 } where
  get_threads _ _ := rfl
  get_clear _ := rfl
  clear_of_zero m h := by cases m; cases h; rfl

theorem cleared_estat : Cleared Team.estat fun m => { m with estat := 0 } where
  get_threads _ _ := rfl
  get_clear _ := rfl
  clear_of_zero m h := by cases m; cases h; rfl

/-- One lane reads such a word into a register, and clears it. -/
def State.readClear (x : State) (get : Team → BitVec 32) (clear : Team → Team) (d : Nat) (r : Ref) : State :=
  (x.modThr r fun u => u.set32 d (get (x.team r.team)) tagI32).modTeam r.team clear

section
variable {s x : State} {get : Team → BitVec 32} {clear : Team → Team} {d : Nat}

theorem modTeam_of_fixed {n : Nat} {f : Team → Team} (h : f (x.team n) = x.team n) : x.modTeam n f = x := by
  refine congrArg (fun l => ({ x with teams := l } : State)) (modify_of_fixed _ _ _ fun y hy => ?_)
  simpa only [State.team, List.getD, hy, Option.getD_some] using h

theorem Cleared.get_modThr (hc : Cleared get clear) (x : State) (r : Ref) (f : Thread → Thread) (n : Nat) :
    get ((x.modThr r f).team n) = get (x.team n) := by
  rw [← hc.get_threads _ [], show x.modThr r f = x.each [r] fun _ => f from rfl, each_team, hc.get_threads]

theorem Cleared.get_modTeam (hc : Cleared get clear) {n : Nat} (h : n < x.teams.length) :
    get ((x.modTeam n clear).team n) = 0 := by
  rw [team_modTeam_eq _ _ _ h, hc.get_clear]

/-- The lanes that read such a word once it is 0 read 0. -/
theorem Cleared.foldl_readClear (hc : Cleared get clear) {rs : List Ref} {n : Nat} (hn : ∀ q ∈ rs, q.team = n)
    (hx : get (x.team n) = 0) : rs.foldl (fun x r => x.readClear get clear d r) x =
      rs.foldl (fun x q => x.modThr q fun u => u.set32 d 0 tagI32) x := by
  induction rs generalizing x with
  | nil => rfl
  | cons q rs ih =>
    obtain ⟨rfl, hrs⟩ := List.forall_mem_cons.1 hn
    have hzero : get ((x.modThr q fun u => u.set32 d 0 tagI32).team q.team) = 0 := (hc.get_modThr ..).trans hx
    have hlane : x.readClear get clear d q = x.modThr q fun u => u.set32 d 0 tagI32 := by
      rw [State.readClear, hx, modTeam_of_fixed (hc.clear_of_zero _ hzero)]
    rw [List.foldl_cons, List.foldl_cons, hlane, ih hrs hzero]

theorem Cleared.get_passed (hc : Cleared get clear) (s : State) (n : Nat) : get (s.passed.team n) = get (s.team n) := by
  rw [← hc.get_threads _ [], show s.passed = s.each s.cur fun _ => Thread.retire from rfl, each_team, hc.get_threads]

/-- The first lane reads the word, and those of its team after it read 0. -/
theorem becomes_readClear (hc : Cleared get clear) {i : Instr} {own : Ref → Verdict} {r : Ref} {rs : List Ref}
    (he : exec i s = .next (s.perform (s.judge i own) fun x rs => rs.foldl (fun x r => x.readClear get clear d r) x))
    (hi : s.issues i fun _ => True) (ho : ∀ r, own r = .run) (ha : s.active i = r :: rs)
    (hrs : ∀ q ∈ rs, q.team = r.team) :
    Becomes i s (rs.foldl (fun x q => x.modThr q fun u => u.set32 d 0 tagI32)
      ((s.passed.modThr r fun u => u.set32 d (get (s.team r.team)) tagI32).modTeam r.team clear)) := by
  have hr : (s.passed.modThr r fun u => u.set32 d (get (s.team r.team)) tagI32).has r :=
    (has_modThr ..).2 (passed_has.2 (of_issues_active hi ha).1)
  refine ⟨_, he, ?_⟩
  rw [perform_veil_of_issues _ hi fun r _ _ _ => ho r, ha, List.foldl_cons, State.readClear, hc.get_passed,
    hc.foldl_readClear hrs (hc.get_modTeam hr.1)]

end

theorem srdLane_cpstat (x : State) (d : BitVec 6) (r : Ref) :
    x.srdLane d 0x13 r = x.readClear Team.cpstat (fun m => { m with cpstat := 0 }) d.toNat r := by
  show (x.modThr r fun u => u.set32 d.toNat (((x.team r.team).cpstat.setWidth 64).setWidth 32) tagI32).modTeam _ _ = _
  rw [BitVec.setWidth_setWidth_of_le _ (by decide), BitVec.setWidth_eq, State.readClear]

theorem csrrLane_estat (x : State) (d : BitVec 6) (r : Ref) :
    x.csrrLane d 0x010 r = x.readClear Team.estat (fun m => { m with estat := 0 }) d.toNat r := by
  show (x.modThr r fun u => u.set32 d.toNat (((x.team r.team).estat.setWidth 64).setWidth 32) tagI32).modTeam _ _ = _
  rw [BitVec.setWidth_setWidth_of_le _ (by decide), BitVec.setWidth_eq, State.readClear]

section
variable {s : State} {g : BitVec 3} {d : BitVec 6}

theorem exec_srd_cpstat : exec (.srd g d 0x13) s = .next (s.perform (s.judge (.srd g d 0x13) fun _ => .run) fun x rs =>
    rs.foldl (fun x r => x.readClear Team.cpstat (fun m => { m with cpstat := 0 }) d.toNat r) x) := by
  simp only [← srdLane_cpstat]
  rfl

theorem exec_csrr_estat : exec (.csrr g d 0x010) s = .next (s.perform (s.judge (.csrr g d 0x010) fun _ => .run) fun x rs =>
    rs.foldl (fun x r => x.readClear Team.estat (fun m => { m with estat := 0 }) d.toNat r) x) := by
  simp only [← csrrLane_estat]
  rfl

end

/-- Settles O27: a register that no read changes reads as it did before the word, the tables give each, and a word that is
cleared as it is read goes to the first lane. -/
theorem specialRegisterReads : Obligations.SpecialRegisterReads := by
  unfold Obligations.SpecialRegisterReads
  refine fun s g d => ⟨fun n => srd_completes, fun r n wide x => srdTable_holds s r (n, wide, x), fun n => csrr_completes,
    fun r n wide x => csrTable_holds s r (n, wide, x), fun i get clear hm hi r rs ha hrs => ?_⟩
  simp only [List.mem_cons, Prod.mk.injEq, List.not_mem_nil, or_false] at hm
  obtain ⟨rfl, rfl, rfl⟩ | ⟨rfl, rfl, rfl⟩ := hm
  · exact becomes_readClear cleared_cpstat exec_srd_cpstat hi (fun _ => rfl) ha hrs
  · exact becomes_readClear cleared_estat exec_csrr_estat hi (fun _ => rfl) ha hrs

end Sys2Proof.Machine
end

section
/-! PROOFS. Floating-point words: a word whose lanes round, and one that only moves bits or tests them; they settle
O23 to O25 (R267 to R284). -/

namespace Sys2Proof.Machine

open Sys2Proof

/-! ## Words that check tags, and words that round (R106, R269, R273) -/

section
variable {s : State} {i : Instr} {d a b : BitVec 6} {ok ok' : Thread → Bool} {g : Thread → Tag}

theorem tagCheck_run {r : Ref} (h : Tagged i ok (s.thr r)) : s.tagCheck i ok r = .run := by
  obtain ⟨hclean, hok⟩ := h
  have hp : (s.thr r).poisoned (infoOf i).reads = false := hclean
  rw [State.tagCheck, hp, if_neg Bool.false_ne_true, if_pos hok]

theorem Tagged.imp {u : Thread} (h : Tagged i ok' u) (hok : ∀ u, ok' u = true → ok u = true) : Tagged i ok u :=
  ⟨h.1, hok u h.2⟩

/-- A word that checks the tags of its sources and changes each lane's thread by itself. -/
theorem completes_tagged {f : Thread → Thread → Thread} {p : Thread → Thread → Prop}
    (he : exec i s = .next (s.lanewise i (s.tagCheck i ok) f)) (hok : ∀ u, ok' u = true → ok u = true)
    (hi : s.issues i (Tagged i ok')) (hv : Veiled p) (hp : ∀ u, ok' u = true → p u (f u u.retire)) : Completes i s p :=
  completes_lanewise he hi (fun _ _ _ ht => tagCheck_run (ht.imp hok)) hv fun u _ ht => hp u ht.2

/-- A result written with its tag, whose conditions join FPSTAT. -/
theorem lane_setF (u : Thread) (d : BitVec 6) (x : BitVec 32 × Conds) (tag : Tag) : Lane u (u.retire.setF d x tag)
    (one d { val := x.1.setWidth 64, tag := tag }) u.pred (u.fpstat ||| x.2.setWidth 32) u.nextPc := by
  obtain ⟨hreg, hpreds, hfpstat, hpc, hhint, hrest⟩ := gives_setReg u d fun _ => { val := x.1.setWidth 64, tag := tag }
  exact ⟨hreg, hpreds, congrArg (· ||| x.2.setWidth 32) hfpstat, hpc, hhint, hrest⟩

theorem veiled_rounds (d : BitVec 6) (x : Rounding → Thread → BitVec 32 × Conds) (g : Thread → Tag) :
    Veiled (Rounds d x g) := fun _ _ _ hv ⟨m, hrm, hsat, hlane⟩ => ⟨m, hrm, hsat, hlane.of_veil hv⟩

/-- A word whose lanes round completes with its result under each lane's own modes. -/
theorem completes_rounds {own : Ref → Verdict} {f : Rounding → Thread → Thread → Thread} {q : Thread → Prop}
    {x : Rounding → Thread → BitVec 32 × Conds} (he : exec i s = .next (s.floatwise i own f)) (hi : s.issues i q)
    (ho : ∀ r ∈ s.cur, (s.thr r).active i = true → q (s.thr r) → own r = .run)
    (hf : ∀ m u, q u → f m u u.retire = u.retire.setF d (x m u) (g u)) : Completes i s (Rounds d x g) :=
  completesAt_of_acts (f := fun rs r =>
      f { rm := (s.thr r).rm, sat := (s.thr r).sat, draw := s.drawn + 8 * rs.idxOf r } (s.thr r))
    he (fun _ _ => rfl) hi ho (fun _ => veiled_rounds d x g) fun r _ _ hq =>
      ⟨_, rfl, rfl, hf _ (s.thr r) hq ▸ lane_setF (s.thr r) d _ _⟩

/-- So, where it checks the tags of its sources. -/
theorem completes_rounds_tagged {f : Rounding → Thread → Thread → Thread} {x : Rounding → Thread → BitVec 32 × Conds}
    (he : exec i s = .next (s.floatwise i (s.tagCheck i ok) f)) (hok : ∀ u, ok' u = true → ok u = true)
    (hi : s.issues i (Tagged i ok')) (hf : ∀ m u, ok' u = true → f m u u.retire = u.retire.setF d (x m u) (g u)) :
    Completes i s (Rounds d x g) :=
  completes_rounds he hi (fun _ _ _ ht => tagCheck_run (ht.imp hok)) fun m u ht => hf m u ht.2

end

/-- Settles O23: each word is the same word of its own operation, element by element, under its lane's modes. -/
theorem floatArithmeticResults : Obligations.FloatArithmeticResults := by
  unfold Obligations.FloatArithmeticResults
  intro s g d a b i rs f hm hi
  have he : exec i s = .next (s.floatwise i (s.tagCheck i fun t => t.oneTag tagsArith rs) fun m t u =>
      Thread.arith m t u d a (f t)) := by
    simp only [List.mem_cons, Prod.mk.injEq, List.not_mem_nil, or_false] at hm
    obtain ⟨rfl, rfl, rfl⟩ | ⟨rfl, rfl, rfl⟩ | ⟨rfl, rfl, rfl⟩ | ⟨rfl, rfl, rfl⟩ | ⟨rfl, rfl, rfl⟩ | ⟨rfl, rfl, rfl⟩ |
      ⟨rfl, rfl, rfl⟩ := hm <;> rfl
  exact completes_rounds_tagged he (fun _ => id) hi fun _ _ _ => rfl

/-! ## Moves, tests and status (R275, R278, R281 to R284) -/

/-- The one element of an F32 word is the word. -/
theorem elemOf_f32 (v : BitVec 32) : elemOf Fmt.f32.width v 0 = v.toNat := by
  show v.toNat / 2 ^ 0 % 2 ^ 32 = v.toNat
  rw [Nat.pow_zero, Nat.div_one, Nat.mod_eq_of_lt v.isLt]

theorem tagAt_of_oneTag {u : Thread} {t : Tag} {a : BitVec 6} {rs : List (BitVec 6)} (h : u.oneTag [t] (a :: rs) = true) :
    u.tagAt a = t := by
  simp only [Thread.oneTag, Bool.and_eq_true, List.headD_cons, List.contains_cons, List.contains_nil, Bool.or_false,
    beq_iff_eq] at h
  exact h.1.1

/-- A tag that is accepted of a list is accepted of a longer one. -/
theorem oneTag_mono {u : Thread} {l l' : List Tag} {rs : List (BitVec 6)} (hl : l ⊆ l') (h : u.oneTag l rs = true) :
    u.oneTag l' rs = true := by
  simp only [Thread.oneTag, Bool.and_eq_true, List.contains_iff_mem] at h ⊢
  exact ⟨⟨hl h.1.1, h.1.2⟩, h.2⟩

/-- Elements that set no condition leave none. -/
theorem mapElems_no_conds (u : Thread) (a : BitVec 6) (op : Fmt → Nat → Nat) : (u.mapElems a fun f e => (op f e, 0)).2 = 0 := by
  unfold Thread.mapElems
  split
  · refine List.foldlRecOn (motive := (· = 0)) _ _ rfl fun c hc x hx => ?_
    obtain ⟨e, -, rfl⟩ := List.mem_map.1 hx
    show c ||| 0 = 0
    rw [hc, BitVec.or_self]
  · rfl

/-- A result that sets no condition is one register written. -/
theorem gives_setF (u : Thread) (d : BitVec 6) {x : BitVec 32 × Conds} (hx : x.2 = 0) (tag : Tag) :
    Lane u (u.retire.setF d x tag) (one d { val := x.1.setWidth 64, tag := tag }) u.pred u.fpstat u.nextPc := by
  have h := lane_setF u d x tag
  rwa [hx, show (0 : Conds).setWidth 32 = 0#32 from rfl, BitVec.or_zero] at h

theorem ofNat_eq_setWidth {n : Nat} (h : n < 2 ^ 32) : BitVec.ofNat 64 n = (BitVec.ofNat 32 n).setWidth 64 :=
  BitVec.eq_of_toNat_eq (by
    simp only [BitVec.toNat_ofNat, BitVec.toNat_setWidth]
    omega)

/-- A lane whose FPSTAT is then another. -/
theorem Lane.withFpstat {u v : Thread} {w : Nat → Option Reg} {p : BitVec 3 → Bool} {c : BitVec 32} {x : BitVec 64}
    (h : Lane u v w p c x) (y : BitVec 32) : Lane u { v with fpstat := y } w p y x :=
  ⟨h.reg, h.preds, rfl, h.pc, h.hint, h.rest⟩

theorem set32_withFpstat (u : Thread) (y : BitVec 32) (n : Nat) (v : BitVec 32) (tag : Tag) :
    ({ u with fpstat := y } : Thread).set32 n v tag = { u.set32 n v tag with fpstat := y } := by
  unfold Thread.set32 Thread.setReg
  split <;> rfl

theorem classBit_lt (f : Fmt) (x : Nat) : classBit f x < 10 := by
  unfold classBit
  extract_lets quiet normal
  cases f.decode x with
  | nan => cases quiet <;> simp
  | inf neg => cases neg <;> simp
  | zero neg => cases neg <;> simp
  | fin neg m e => cases normal <;> cases neg <;> simp

section
variable {s : State} {i : Instr} {g p c : BitVec 3} {d a b : BitVec 6}

theorem completes_minMax {less : Bool} (he : exec i s = .next (s.lanewise i
      (s.tagCheck i fun t => t.oneTag tagsArith [a, b]) fun t u => u.setF d (t.mapElems a fun f e =>
        (minMaxElem f less (elemOf f.width (t.val32 a.toNat) e) (elemOf f.width (t.val32 b.toNat) e), 0)) (t.tagAt a)))
    (hi : s.issues i (Tagged i fun u => u.oneTag [tagF32, tagBF16, tagF16] [a, b])) : Completes i s (Gives d fun u =>
      { val := (u.mapElems a fun f e =>
          (minMaxElem f less (elemOf f.width (u.val32 a.toNat) e) (elemOf f.width (u.val32 b.toNat) e), 0)).1.setWidth 64,
        tag := u.tagAt a }) :=
  completes_tagged he (fun _ => id) hi (veiled_lane _ _ _ _) fun u _ => gives_setF u d (mapElems_no_conds u a _) _

theorem fcmp_completes (hi : s.issues (.fcmp g p a b c) (Tagged (.fcmp g p a b c) fun u => u.oneTag [tagF32] [a, b])) :
    Completes (.fcmp g p a b c) s (Sets p fun u => fcmpHolds c (u.num .f32 a 0) (u.num .f32 b 0)) := by
  refine completes_tagged rfl (fun _ => oneTag_mono (by decide)) hi (veiled_lane _ _ _ _) fun u hu => ?_
  simp only [tagAt_of_oneTag hu, show tagFmt tagF32 = some (.f32, 1) from rfl, List.range_one, List.all_cons, List.all_nil,
    Bool.and_true]
  exact sets_setPred u p _

theorem fclass_completes (hi : s.issues (.fclass g d a) (Tagged (.fclass g d a) fun u => u.oneTag [tagF32] [a])) :
    Completes (.fclass g d a) s (Gives d fun u =>
      { val := BitVec.ofNat 64 (2 ^ classBit .f32 (u.val32 a.toNat).toNat), tag := tagI32 }) := by
  refine completes_tagged rfl (fun _ => oneTag_mono (by decide)) hi (veiled_lane _ _ _ _) fun u hu => ?_
  have hlt : 2 ^ classBit .f32 (u.val32 a.toNat).toNat < 2 ^ 16 :=
    Nat.pow_lt_pow_right (by decide) ((classBit_lt _ _).trans (by decide))
  have hval := ofNat_eq_setWidth (hlt.trans (by decide))
  simp only [tagAt_of_oneTag hu, show tagFmt tagF32 = some (.f32, 1) from rfl, List.range_one, List.map_cons, List.map_nil,
    elemOf_f32, joinElems, Nat.mul_zero, Nat.add_zero, Nat.mod_eq_of_lt hlt]
  show Gives d (fun u => { val := BitVec.ofNat 64 (2 ^ classBit .f32 (u.val32 a.toNat).toNat), tag := tagI32 }) u _
  rw [Gives, Writes, hval]
  exact gives_setReg u d fun _ => _

end

/-- Settles O24: FMIN and FMAX by elements that set no condition, the bit moves and the tests by the one register or predicate
that each writes. -/
theorem floatMovesTestsAndStatus : Obligations.FloatMovesTestsAndStatus := by
  unfold Obligations.FloatMovesTestsAndStatus
  refine fun s g p c d a b => ⟨
    forall_mem_cons_pair (completes_minMax rfl) (forall_mem_cons_pair (completes_minMax rfl) forall_mem_nil_pair),
    fun i rs f hm hi => ?_, fcmp_completes, fclass_completes, fun hi => ?_, fun hi => ?_⟩
  · have he : exec i s = .next (s.lanewise i (s.tagCheck i fun t => t.oneTag tagsMove rs) fun t u =>
        u.set32 d.toNat (f t (signBits (t.tagAt a))) (t.tagAt a)) := by
      simp only [List.mem_cons, Prod.mk.injEq, List.not_mem_nil, or_false] at hm
      obtain ⟨rfl, rfl, rfl⟩ | ⟨rfl, rfl, rfl⟩ | ⟨rfl, rfl, rfl⟩ := hm <;> rfl
    exact completes_tagged he (fun _ => id) hi (veiled_lane _ _ _ _) fun u _ => gives_setReg u d _
  · exact completes_rounds_tagged rfl (fun _ => id) hi fun _ _ _ => rfl
  · refine completes_lanewise rfl hi (fun _ _ _ _ => rfl) (veiled_lane _ _ _ _) fun u _ _ => ?_
    rw [set32_withFpstat]
    exact Lane.withFpstat (gives_setReg u d fun _ => _) 0

/-! ## Dot products and functions (R277, R279, R280) -/

/-- Registers that all carry one accepted tag pass the check in the lane stream. -/
theorem oneTag_of_tagAt {u : Thread} {t : Tag} {l : List Tag} {a : BitVec 6} {rs : List (BitVec 6)} (ht : t ∈ l)
    (hc : u.ctl = false) (h : ∀ r ∈ a :: rs, u.tagAt r = t) : u.oneTag l (a :: rs) = true := by
  have ha : (u.reg a.toNat).tag = t := h a List.mem_cons_self
  simp only [Thread.oneTag, List.headD_cons, ha, hc, Bool.not_false, Bool.true_or, Bool.and_true, Bool.and_eq_true,
    List.contains_iff_mem, List.all_eq_true, beq_iff_eq]
  exact ⟨ht, h⟩

section
variable {s : State} {i : Instr} {g : BitVec 3} {d a b : BitVec 6}

theorem completes_dot {l : List Tag} {ts : Tag} {n : Nat} {f : Fmt} (hf : tagFmt ts = some (f, n)) (hl : ts ∈ l)
    (he : exec i s = .next (s.floatwise i (s.tagCheck i fun t => t.oneTag l [a, b] && t.tagAt d == tagF32) fun m t u =>
      Thread.dot m t u d a b))
    (hi : s.issues i (Tagged i fun u => u.tagAt a == ts && u.tagAt b == ts && u.tagAt d == tagF32 && !u.ctl)) :
    Completes i s (Rounds d (fun m u =>
      let ps := (List.range n).map fun e => (u.num f a e, u.num f b e)
      let x := round .f32 (m.mode 0) (exactSum (u.num .f32 d 0 :: ps.map fun p => mulNum p.1 p.2))
      (BitVec.ofNat 32 x.1, x.2 ||| (if dotInvalid (u.num .f32 d 0) ps then cINV else 0))) fun _ => tagF32) := by
  refine completes_rounds_tagged he (fun u hu => ?_) hi fun m u hu => ?_
  · simp only [Bool.and_eq_true, beq_iff_eq, Bool.not_eq_true'] at hu ⊢
    obtain ⟨⟨⟨ha, hb⟩, hd⟩, hc⟩ := hu
    exact ⟨oneTag_of_tagAt hl hc (List.forall_mem_cons.2 ⟨ha, List.forall_mem_singleton.2 hb⟩), hd⟩
  · simp only [Bool.and_eq_true, beq_iff_eq] at hu
    simp only [Thread.dot, hu.1.1.1, hf]

theorem function_completes {f : Fun} (he : exec i s = .next (s.function i f d a))
    (hi : s.issues i (Tagged i fun u => u.oneTag [tagF32] [a])) : Completes i s (Rounds d (fun m u =>
      let x := funResult f (u.val32 a.toNat) (m.mode 0)
      (BitVec.ofNat 32 x.1, x.2)) fun _ => tagF32) :=
  completes_rounds_tagged he (fun _ => id) hi fun _ _ _ => rfl

end

/-- Settles O25: a dot product by the format of its sources' tag, a function by its result. -/
theorem dotProductsAndFunctions : Obligations.DotProductsAndFunctions := by
  unfold Obligations.DotProductsAndFunctions
  refine fun s g d a b => ⟨fun i ts n f hm hi => ?_,
    -- FRCP, FRSQ, FEXP2, FLOG2, FSIN, FCOS, FTANH
    forall_mem_cons_pair (function_completes rfl) <| forall_mem_cons_pair (function_completes rfl) <|
    forall_mem_cons_pair (function_completes rfl) <| forall_mem_cons_pair (function_completes rfl) <|
    forall_mem_cons_pair (function_completes rfl) <| forall_mem_cons_pair (function_completes rfl) <|
    forall_mem_cons_pair (function_completes rfl) forall_mem_nil_pair⟩
  simp only [List.mem_cons, Prod.mk.injEq, List.not_mem_nil, or_false] at hm
  obtain ⟨rfl, rfl, rfl, rfl⟩ | ⟨rfl, rfl, rfl, rfl⟩ | ⟨rfl, rfl, rfl, rfl⟩ | ⟨rfl, rfl, rfl, rfl⟩ := hm
  · exact completes_dot (l := [tagBF16, tagF16]) rfl (by decide) rfl hi
  · exact completes_dot (l := [tagBF16, tagF16]) rfl (by decide) rfl hi
  · exact completes_dot (l := [tagE4M3, tagE5M2]) rfl (by decide) rfl hi
  · exact completes_dot (l := [tagE4M3, tagE5M2]) rfl (by decide) rfl hi

end Sys2Proof.Machine
end

section
/-! PROOFS. Conversions, packing, widening and the tag words; a result that is rounded to a format is a pattern of it; they settle
O26 (R107, R109, R285 to R288). -/

namespace Sys2Proof.Machine

open Sys2Proof

/-! ## Patterns of a format (R107, R109) -/

/-- A magnitude code with its sign is a pattern of the format. -/
theorem signed_lt {f : Fmt} {c : Nat} (neg : Bool) (hc : c < 2 ^ (f.width - 1)) : f.signed neg c < 2 ^ f.width := by
  have hwidth : 2 ^ f.width = 2 ^ (f.width - 1) + 2 ^ (f.width - 1) := by rw [← Nat.two_mul, ← Nat.pow_succ']; cases f <;> rfl
  unfold Fmt.signed
  split <;> omega

theorem maxCode_lt (f : Fmt) : f.maxCode < 2 ^ (f.width - 1) := by cases f <;> decide

theorem infCode_lt (f : Fmt) : f.infCode < 2 ^ (f.width - 1) := by cases f <;> decide

theorem nan_lt (f : Fmt) : f.nan < 2 ^ f.width := by cases f <;> decide

theorem overflowBits_lt (f : Fmt) (neg : Bool) (m : Mode) : overflowBits f neg m < 2 ^ f.width := by
  unfold overflowBits
  extract_lets toInf
  split
  · exact signed_lt neg (maxCode_lt f)
  split
  · exact signed_lt neg (infCode_lt f)
  · exact nan_lt f

theorem roundEx_lt (f : Fmt) (m : Mode) (neg : Bool) (a : Ex) : (roundEx f m neg a).1 < 2 ^ f.width := by
  unfold roundEx
  extract_lets lg qe t sticky inx n ef code
  split
  · exact overflowBits_lt f neg m
  next hcode => exact signed_lt neg ((Nat.not_lt.1 hcode).trans_lt (maxCode_lt f))

/-- What an exact value rounds to is a pattern of the format. -/
theorem round_lt (f : Fmt) (m : Mode) (x : Exact) : (round f m x).1 < 2 ^ f.width := by
  cases x with
  | nan => exact nan_lt f
  | inf neg =>
    unfold round
    dsimp only
    split
    · exact signed_lt neg (maxCode_lt f)
    split
    · exact signed_lt neg (infCode_lt f)
    · exact nan_lt f
  | zero neg => exact signed_lt neg (Nat.two_pow_pos _)
  | val x =>
    unfold round
    dsimp only
    split
    · exact roundEx_lt f m true _
    · exact roundEx_lt f m false _

/-! ## Conversions and tags (R285 to R288) -/

section
variable {s : State} {i : Instr} {g p : BitVec 3} {d a b : BitVec 6} {t : BitVec 4}

theorem cvt_completes {l : Thread → List Machine.Num} {f : Fmt} {n : Nat} (hf : tagFmt t = some (f, n))
    (hi : s.issues (.cvt g d a b t) fun u => Clean (.cvt g d a b t) u ∧ u.cvtSrc a b t = some (l u)) :
    Completes (.cvt g d a b t) s (Rounds d (fun m u => roundList m f (l u)) fun _ => t) := by
  refine completes_rounds rfl hi (fun r _ _ ⟨hc, hl⟩ => tagCheck_run ⟨hc, ?_⟩) fun m u ⟨_, hl⟩ => ?_
  · dsimp only
    rw [hl, Option.isSome_some]
  · simp only [hl, hf]

theorem cvti_completes {un : BitVec 1}
    (hi : s.issues (.cvti g d a b un t) (Tagged (.cvti g d a b un t) fun u => u.cvtiOk a b t && !u.ctl)) :
    Completes (.cvti g d a b un t) s (Rounds d (fun m u => u.cvtiRes m a b (un == 1) t) fun _ => t) := by
  refine completes_rounds_tagged rfl (fun _ hu => (Bool.and_eq_true_iff.1 hu).1) hi fun m u hu => ?_
  have hc : u.ctl = false := by simpa using (Bool.and_eq_true_iff.1 hu).2
  simp only [hc, Bool.false_and, Bool.false_eq_true, if_false]

/-- UNPK of a pair of 16 bits: the element of the half that the word names (R287). -/
theorem completes_unpk {hi : Bool} {f : Fmt} {ts : Tag} (hf : tagFmt ts = some (f, 2)) (hl : ts ∈ tagsUnpk)
    (he : exec i s = .next (s.lanewise i (s.tagCheck i fun t => t.oneTag tagsUnpk [a]) fun t u => t.widen u d a hi))
    (his : s.issues i (Tagged i fun u => u.tagAt a == ts && !u.ctl)) : Completes i s (Gives d fun u =>
      { val := BitVec.ofNat 64 (round .f32 Mode.rne (u.num f a (if hi then 1 else 0)).exact).1, tag := tagF32 }) := by
  refine completes_tagged he (fun u hu => ?_) his (veiled_lane _ _ _ _) fun u hu => ?_
  · simp only [Bool.and_eq_true, beq_iff_eq, Bool.not_eq_true'] at hu
    exact oneTag_of_tagAt hl hu.2 (List.forall_mem_singleton.2 hu.1)
  · simp only [Bool.and_eq_true, beq_iff_eq] at hu
    simp only [Thread.widen, hu.1, hf]
    have hg := gives_setReg u d fun u =>
      { val := BitVec.ofNat 64 (round .f32 Mode.rne (u.num f a (if hi then 1 else 0)).exact).1, tag := tagF32 }
    rwa [ofNat_eq_setWidth (round_lt .f32 _ _)] at hg

theorem tagset_completes (ht : tagsetOk false t = true)
    (hi : s.issues (.tagset g d a t) fun u => Clean (.tagset g d a t) u ∧ u.ctl = false) :
    Completes (.tagset g d a t) s (Gives d fun u => { val := if t = tagPOISON then 0 else (u.reg a.toNat).val, tag := t }) := by
  refine completes_lanewise rfl hi (fun r _ _ ⟨hclean, hc⟩ => ?_) (veiled_lane _ _ _ _) fun u _ _ => gives_setReg u d fun _ => _
  have hp : (s.thr r).poisoned (infoOf (.tagset g d a t)).reads = false := hclean
  rw [hc, ht, Bool.not_true, if_neg Bool.false_ne_true, State.srcCheck, State.poisonCheck, hp, if_neg Bool.false_ne_true]

theorem tagchk_completes (ht : t.toNat < 14) (hi : s.issues (.tagchk g p a t) fun _ => True) :
    Completes (.tagchk g p a t) s (Sets p fun u => (u.reg a.toNat).tag == t) :=
  completes_lanewise rfl hi (fun _ _ _ _ => if_neg (by simpa using ht)) (veiled_lane _ _ _ _)
    fun u _ _ => sets_setPred u p _

theorem tagrd_completes (hi : s.issues (.tagrd g d a) (Clean (.tagrd g d a))) : Completes (.tagrd g d a) s
    (Gives d fun u => { val := (u.reg a.toNat).tag.setWidth 64, tag := tagI32 }) := by
  refine completes_register rfl hi (veiled_lane _ _ _ _) fun u => ?_
  have hg := gives_setReg u d fun u => { val := (u.reg a.toNat).tag.setWidth 64, tag := tagI32 }
  have htag : ((u.tagAt a).setWidth 32).setWidth 64 = (u.reg a.toNat).tag.setWidth 64 := by simp [Thread.tagAt]
  rwa [← htag] at hg

end

/-- Settles O26: each conversion by its sources and its rounding, each tag word by the register or predicate that it writes. -/
theorem conversionsAndTags : Obligations.ConversionsAndTags := by
  unfold Obligations.ConversionsAndTags
  refine fun s g p d a b t un => ⟨fun l f n hf => cvt_completes hf, cvti_completes,
    fun hi => completes_tagged rfl (fun _ => id) hi (veiled_lane _ _ _ _) fun u _ => gives_setReg u d _,
    fun i k f ts hm hi => ?_, tagset_completes, tagchk_completes, tagrd_completes⟩
  simp only [List.mem_cons, Prod.mk.injEq, List.not_mem_nil, or_false] at hm
  obtain ⟨rfl, rfl, rfl, rfl⟩ | ⟨rfl, rfl, rfl, rfl⟩ | ⟨rfl, rfl, rfl, rfl⟩ | ⟨rfl, rfl, rfl, rfl⟩ := hm
  · exact completes_unpk (hi := false) rfl (by decide) rfl hi
  · exact completes_unpk (hi := true) rfl (by decide) rfl hi
  · exact completes_unpk (hi := false) rfl (by decide) rfl hi
  · exact completes_unpk (hi := true) rfl (by decide) rfl hi

end Sys2Proof.Machine
end

section
/-! PROOFS. The front end's NOP, SIGNAL and WAIT packets, a bad packet at the head of a queue, and the ADMIN operations; they
settle O5, O6 and O7 (R404, R406, R408, R409). -/

namespace Sys2Proof.Machine

open Sys2Proof

/-! ## NOP, SIGNAL, WAIT (R404, R406) -/

section
variable {s x y : State} {p : List Byte} {f : LaneFault}

theorem nopPacket_taken (h : Taken s p tNop x) : exec .nopPacket s = .next (x.finishHead s.sel p 0 0) := by
  have hm : (pktType p == tNop) = true := beq_iff_eq.2 h.1.2.2.2
  exact congrArg Host.Outcome.next (take_of_taken (act := fun x p => x.finishHead s.sel p 0 0) h hm (by decide) (by decide))

/-- The check of a SIGNAL's counter, for an add (R404). -/
def State.signalCheck (x : State) (n : Nat) (p : List Byte) : State × Option LaneFault :=
  x.agentCheck (x.queue n).homedie.toNat (x.queue n).space { rd := true, wr := true } 3 (pktWord p 16) 8

theorem signal_taken (h : Taken s p tSignal x) (ha : (pktWord p 16).toNat % 8 = 0) : exec .signal s = .next (
    match x.signalCheck s.sel p with
    | (y, some _) => y.stopQueue s.sel 0x29
    | (y, none) => (y.finishHead s.sel p 0 0).frontAdd (x.queue s.sel).homedie.toNat (x.queue s.sel).space
        (x.queue s.sel).harvest (pktWord p 16) (pktWord p 24) false) := by
  have hm : (pktType p == tSignal) = true := beq_iff_eq.2 h.1.2.2.2
  refine congrArg Host.Outcome.next ((take_of_taken h hm (by decide) (by decide)).trans ?_)
  rw [if_neg (Classical.not_not.2 ha)]
  rfl

/-- A WAIT at the head of its queue is judged before its STATUS is checked. -/
theorem wait_ready (h : Ready s p tWait) : exec .wait s = .next (s.judgeWait s.sel p) := by
  obtain ⟨hopen, hhead, hgood, htype⟩ := h
  have hw : (pktType p == tWait) = true := beq_iff_eq.2 htype
  refine congrArg Host.Outcome.next ?_
  simp only [State.take, hopen, hhead, hgood, hw, Bool.not_true, Bool.false_eq_true, if_false, if_true]

/-- A WAIT of an aligned counter goes by what the counter says. -/
theorem judgeWait_aligned (n : Nat) (ha : (pktWord p 16).toNat % 8 = 0) : s.judgeWait n p =
    match s.waitReached n p with
    | (y, .fault) => (y.modQueue n fun q => { q with held := false }).stopQueue n 0x29
    | (y, .yes) =>
      match (y.modQueue n fun q => { q with held := false }).statusOk n (pktStatus p) with
      | (x, true) => x.finishHead n p 0 0
      | (x, false) => x.stopQueue n 0x10
    | (y, .no) => y.modQueue n fun q => { q with held := true } :=
  if_neg (Classical.not_not.2 ha)

/-- A WAIT that holds its queue is judged again where its counter lies in a space that the event looks at. -/
theorem retryWait_of_held {n l pa} {where_ : Nat → Bool} (ho : s.homesOpen = true) (hh : (s.queue n).held = true)
    (he : (s.queue n).en = true) (hs : (s.queue n).stopped = false) (hp : s.headPacket n = some p)
    (ha : s.agentAt (s.queue n).homedie.toNat (s.queue n).space (pktWord p 16) { rd := true } 1 = (y, .ok (l, pa))) :
    s.retryWait n where_ = if where_ pa then y.judgeWait n p else s := by
  simp only [State.retryWait, ho, hh, he, hs, hp, ha, Bool.not_true, Bool.or_self, Bool.false_eq_true, if_false]

end

/-- Settles O5: NOP and SIGNAL by the checks of a packet that is taken, WAIT by what its counter says. -/
theorem frontEndPackets : Obligations.FrontEndPackets := by
  unfold Obligations.FrontEndPackets
  intro s x p
  dsimp only
  refine ⟨nopPacket_taken, fun h ha => ⟨fun y hy => ?_, fun y f hy => ?_⟩, fun y f hy => ?_, fun h ha => ⟨fun y hy =>
    ⟨fun hs => ?_, fun hs => ?_⟩, fun y hy => ?_, fun y hy => ?_⟩, fun ho hh he hs hp y l pa ha => ⟨?_, ?_⟩, fun code extra h0 => ?_⟩
  · rw [signal_taken h ha, State.signalCheck, hy]
  · rw [signal_taken h ha, State.signalCheck, hy]
  · rw [State.frontAdd, hy]
    cases f <;> rfl
  · rw [wait_ready h, judgeWait_aligned _ ha, hy]
    simp only [hs]
  · rw [wait_ready h, judgeWait_aligned _ ha, hy]
    simp only [hs]
  · rw [wait_ready h, judgeWait_aligned _ ha, hy]
  · rw [wait_ready h, judgeWait_aligned _ ha, hy]
  · refine congrArg Host.Outcome.next ((retryWait_of_held ho hh he hs hp ha).trans ?_)
    simp only [bne_iff_ne]
  · refine congrArg Host.Outcome.next ((retryWait_of_held ho hh he hs hp ha).trans ?_)
    simp only [beq_iff_eq]
  · rw [State.finishHead, h0]
    rfl

/-! ## A bad packet (R406) -/

section
variable {s : State} {p : List Byte}

theorem take_of_bad {mine : List Byte → Bool} {act : State → List Byte → State} (ho : s.homesOpen = true)
    (hp : s.readyHead s.sel = some (some p)) (hb : pktBad p = true) : s.take s.sel mine act = s.stopQueue s.sel 0x10 := by
  simp only [State.take, ho, hp, hb, Bool.not_true, Bool.false_eq_true, if_false, if_true]

theorem raise_queues (s : State) (d bit : Nat) : (s.raise d bit).queues = s.queues := by
  unfold State.raise
  extract_lets old s1
  split <;> rfl

theorem raise_launches (s : State) (d bit : Nat) : (s.raise d bit).launches = s.launches := by
  unfold State.raise
  extract_lets old s1
  split <;> rfl

/-- A queue that stops keeps its head, and its die has a cause raised (R406). -/
theorem queue_stopQueue {n : Nat} (hn : n < s.queues.length) (code : BitVec 8) :
    (s.stopQueue n code).queue n = { s.queue n with stopped := true, errcode := code } := by
  rw [State.queue, State.stopQueue, raise_queues]
  exact getD_modify_eq _ _ _ _ hn

end

/-- Settles O6: each step that takes packets stops the queue of a bad one. -/
theorem badPacketStopsQueue : Obligations.BadPacketStopsQueue := by
  unfold Obligations.BadPacketStopsQueue
  intro s p ho hp hb hd hn i hi
  obtain ⟨mine, act, he⟩ : ∃ mine act, exec i s = .next (s.take s.sel mine act) := by
    simp only [List.mem_cons, List.not_mem_nil, or_false] at hi
    obtain rfl | rfl | rfl | rfl | rfl | rfl | rfl | rfl | rfl | rfl | rfl | rfl | rfl | rfl | rfl | rfl | rfl := hi <;>
      exact ⟨_, _, rfl⟩
  rw [take_of_bad ho hp hb] at he
  have hq := queue_stopQueue hn 0x10
  refine ⟨_, he, ?_, ?_, ?_, intcause_raise (by decide) hd, fun a => ?_, raise_teams _ _ _, raise_launches _ _ _⟩
  · rw [hq]
  · rw [hq]
  · rw [hq]
  · exact congrArg (readByte · a) (State.stopQueue_mem _ _ _)

/-! ## ADMIN operations (R408, R409) -/

section
variable {s x : State} {p : List Byte} {op : Nat} {effect : State → List Byte → AdminResult}

/-- The curator performs an ADMIN packet of the step's operation. -/
theorem adminStep_of_taken (h : AdminTaken s p x) (hop : pktOp p = op) :
    s.adminStep op effect = (effect x p).state.finishHead s.sel p (effect x p).code (effect x p).extra := by
  obtain ⟨⟨⟨hopen, hhead, hgood, htype⟩, hstatus⟩, hadmin, hrunning, hrestarting⟩ := h
  have ha : (pktType p == tAdmin) = true := beq_iff_eq.2 htype
  have hw : (pktType p == tWait) = false := by rw [htype]; rfl
  simp only [State.adminStep, State.take, hopen, hhead, hgood, ha, hw, hop, hstatus, hadmin, hrunning, hrestarting,
    beq_self_eq_true, Bool.true_or, Bool.and_self, Bool.not_true, Bool.not_false, Bool.and_false, Bool.false_eq_true, if_false, if_true]

/-! ### Queues and partitions (R409 to R411) -/

theorem opQdestroy_eq {n : Nat} (hn : pktQueue p = some n) (he : (x.queue n).en = true) :
    x.opQdestroy p = { state := x.modQueue n fun q => { q with destroying := true }, code := 0 } := by
  simp only [State.opQdestroy, hn, he, if_true]
  rfl

theorem opQprio_eq {n : Nat} (hn : pktQueue p = some n) (hp : recNum p 22 1 ≤ 15) : x.opQprio p =
    { state := x.modQueue n fun q => { q with prio := BitVec.ofNat 4 (recNum p 22 1) }, code := 0 } := by
  simp only [State.opQprio, hn, if_neg (Nat.not_lt.2 hp)]
  rfl

theorem opQprio_bad {n : Nat} (hn : pktQueue p = some n) (hp : 15 < recNum p 22 1) :
    x.opQprio p = { state := x, code := 0x13 } := by
  simp only [State.opQprio, hn, if_pos hp]
  rfl

theorem opPartition_eq (hn : recNum p 20 1 ∈ [1, 2, 4, 8, 16]) (hl : ∀ l ∈ x.launches, l.status = .retired) :
    x.opPartition p = { state := { x with npart := recNum p 20 1 }, code := 0 } := by
  have hbusy : x.launches.any (fun l => l.status != .retired) = false := List.any_eq_false.2 fun l h => by simp [hl l h]
  simp only [State.opPartition, List.contains_iff_mem.2 hn, hbusy, Bool.not_true, Bool.false_eq_true, if_false]
  rfl

/-! ### The launches that an operation names (R409) -/

section
variable {l : Nat} (h : x.namedLaunches p = [l])
include h

theorem opEnd_one : x.opEnd p = { state := x.endOne l 0x24, code := 0 } := by
  rw [State.opEnd, h]
  rfl

theorem opResume_one : x.opResume p = { state := (x.teamsOf l).foldl State.resumeTeam x, code := 0 } := by
  rw [State.opResume, h, List.flatMap_singleton]
  rfl

/-- A harvest launch is not pre-empted at the firmware's request (R402). -/
theorem opPreempt_harvest (hv : (x.launches.getD l default).harvest = true) :
    x.opPreempt p = { state := x, code := 0x13 } := by
  have hany : ([l].any fun k => (x.launches.getD k default).harvest) = true := by
    rw [List.any_cons, hv, Bool.true_or]
  rw [State.opPreempt, h]
  simp only [hany, Bool.or_true, if_true]
  rfl

end

/-- An operation that names no launch is a bad one. -/
theorem op_none (h : x.namedLaunches p = []) : x.opEnd p = x.badOp ∧ x.opResume p = x.badOp ∧ x.opHalt p = x.badOp ∧
    x.opPreempt p = x.badOp := by
  refine ⟨?_, ?_, ?_, ?_⟩
  · rw [State.opEnd, h]; rfl
  · rw [State.opResume, h]; rfl
  · rw [State.opHalt, h]; rfl
  · rw [State.opPreempt, h]; rfl

/-- With no image in the other slot, the fuses rise to the running image's version (R418). -/
theorem opSvncommit_alone {n : Nat} (hr : x.curator.running = some n) (ho : (x.curator.slot (1 - n)).length < 352) :
    x.opSvncommit = { state := { x with curator := { x.curator with
      fuses := max x.curator.fuses (imgSvn (x.curator.slot n)) } }, code := 0 } := by
  simp only [State.opSvncommit, hr, decide_eq_false (Nat.not_le.2 ho), Bool.false_and, Bool.false_eq_true, if_false]
  rfl

end

/-- Settles O7: each step performs its operation's packet, and the operations by the queue or the launches that they name. -/
theorem adminOperations : Obligations.AdminOperations := by
  unfold Obligations.AdminOperations
  refine fun s x p h => ⟨fun i op f hm hop => ?_, fun n hn => ⟨opQdestroy_eq hn, opQprio_eq hn, opQprio_bad hn⟩,
    opPartition_eq, fun l hl => ⟨opEnd_one hl, opResume_one hl, opPreempt_harvest hl⟩, op_none, fun n => opSvncommit_alone⟩
  obtain ⟨effect, he, hf⟩ : ∃ effect : State → List Byte → AdminResult,
      exec i s = .next (s.adminStep op effect) ∧ effect x p = f x := by
    simp only [List.mem_cons, Prod.mk.injEq, List.not_mem_nil, or_false] at hm
    obtain ⟨rfl, rfl, rfl⟩ | ⟨rfl, rfl, rfl⟩ | ⟨rfl, rfl, rfl⟩ | ⟨rfl, rfl, rfl⟩ | ⟨rfl, rfl, rfl⟩ | ⟨rfl, rfl, rfl⟩ |
      ⟨rfl, rfl, rfl⟩ | ⟨rfl, rfl, rfl⟩ | ⟨rfl, rfl, rfl⟩ | ⟨rfl, rfl, rfl⟩ | ⟨rfl, rfl, rfl⟩ | ⟨rfl, rfl, rfl⟩ := hm <;>
      exact ⟨_, rfl, rfl⟩
  rw [he, adminStep_of_taken h hop, hf]

end Sys2Proof.Machine
end

section
/-! PROOFS. Transactional regions: the words that open, commit and discard one, the drain of its committed entries, and the
store of one at its home; they settle O39 (R311, R313, R316, R317). -/

namespace Sys2Proof.Machine

open Sys2Proof

/-! ## The region words (R311, R313, R316, R317) -/

section
variable {s : State} {i : Instr} {p : Thread → Prop} {own : Ref → Verdict} {r : Ref} {rs : List Ref} {b : Bool}

theorem regionCheck_run (hw : s.wholeGroup i r = true) (ho : (s.group r.team (s.thr r).group).open_ = b) (hown : own r = .run) :
    s.regionCheck i b own r = .run := by
  simp only [State.regionCheck, hw, ho, hown, joinRegion, bne_self_eq_false, Bool.not_true, Bool.false_eq_true, if_false]

theorem openCheck_run {a : BitVec 6} {v : BitVec 11} (hp : (s.thr r).poisoned [u2 a] = false)
    (hm : badMask (s.block r.team).regs ((s.thr r).pairVal a.toNat) = false) (hl : canonical ((s.thr r).label v) = true) :
    s.openCheck a v r = .run := by
  simp only [State.openCheck, hp, hm, hl, Bool.not_true, Bool.false_eq_true, if_false]

/-- A region word of the whole group acts once every lane has retired it. -/
theorem region_becomes {act : State → List Ref → State} (he : exec i s = .next (s.collective i (s.regionCheck i b own) act))
    (hi : s.issues i p) (hr : s.active i = r :: rs) (hw : s.wholeGroup i r = true)
    (ho : (s.group r.team (s.thr r).group).open_ = b) (hown : own r = .run) : Becomes i s (act s.passed (r :: rs)) := by
  refine ⟨_, he, ?_⟩
  rw [collective_veil act hi (by rw [lead_of_active hr]; exact regionCheck_run hw ho hown), hr]

end

/-! ## The groups of every team -/

/-- A change of an element that keeps what `v` reads of it. -/
theorem map_modify_of_keeps {α β : Type} (v : α → β) {f : α → α} (h : ∀ x, v (f x) = v x) (l : List α) (n : Nat) :
    (l.modify n f).map v = l.map v := by
  refine List.ext_getElem? fun k => ?_
  simp only [List.getElem?_map, List.getElem?_modify]
  cases l[k]? with
  | none => rfl
  | some x => by_cases hk : n = k <;> simp [hk, h]

/-- Every group, team by team. -/
def State.allGroups (s : State) : List (List Group) := s.teams.map Team.groups

section
variable {s t : State}

theorem groups_allGroups (s : State) (n : Nat) : s.allGroups.getD n [] = (s.team n).groups := by
  simp only [State.allGroups, State.team, List.getD, List.getElem?_map]
  cases s.teams[n]? <;> rfl

theorem group_of_allGroups (h : t.allGroups = s.allGroups) (n k : Nat) : t.group n k = s.group n k := by
  rw [State.group, State.group, ← groups_allGroups, ← groups_allGroups, h]

/-- A group that exists is changed. -/
theorem group_modGroup_eq {n k : Nat} (hn : n < s.teams.length) (hk : k < (s.team n).groups.length) (f : Group → Group) :
    (s.modGroup n k f).group n k = f (s.group n k) := by
  rw [State.group, State.modGroup, team_modTeam_eq _ _ _ hn]
  exact getD_modify_eq _ _ _ _ hk

/-- So, in a state with the same groups. -/
theorem group_modGroup_of_allGroups (h : t.allGroups = s.allGroups) {n k : Nat} (hn : n < s.teams.length)
    (hk : k < (s.team n).groups.length) (f : Group → Group) : (t.modGroup n k f).group n k = f (s.group n k) := by
  have hlen : t.teams.length = s.teams.length := by simpa [State.allGroups] using congrArg List.length h
  rw [group_modGroup_eq (hlen ▸ hn) (by rwa [← groups_allGroups, h, groups_allGroups]), group_of_allGroups h]

theorem allGroups_modTeam (s : State) (n : Nat) {f : Team → Team} (hf : ∀ x, (f x).groups = x.groups) :
    (s.modTeam n f).allGroups = s.allGroups := map_modify_of_keeps _ hf _ _

theorem allGroups_modThr (s : State) (r : Ref) (f : Thread → Thread) : (s.modThr r f).allGroups = s.allGroups :=
  allGroups_modTeam _ _ fun _ => by rfl

theorem allGroups_endJoins (s : State) (n : Nat) (l : List (Nat × BitVec 32)) (f : Option LaneFault) :
    (s.endJoins n l f).allGroups = s.allGroups := foldl_keeps (fun _ _ => allGroups_modThr ..) l s

/-! ### What a piece's answer leaves of them -/

theorem allGroups_packetGo (s : State) (p : Packet) : (s.packetGo p).allGroups = s.allGroups := by
  unfold State.packetGo
  split
  · unfold State.portPush
    split <;> rfl
  unfold State.packetArrive
  split
  · dsimp only
    split <;> rfl
  · split
    · unfold State.messageBack
      extract_lets m
      split
      · rfl
      · exact allGroups_modThr _ _ _
    · rfl
  · rfl

theorem allGroups_sendReady (s : State) (n : Nat) : (s.sendReady n).allGroups = s.allGroups := by
  refine foldl_keeps (fun x k => ?_) _ s
  dsimp only
  split
  · exact allGroups_packetGo _ _
  · rfl

theorem allGroups_donePiece (s : State) (n k : Nat) (bs : List (Byte × Bool)) (lost : Bool) :
    (s.donePiece n k bs lost).allGroups = s.allGroups := by
  have hrespond (x : State) : (x.respond n k).allGroups = x.allGroups := allGroups_packetGo _ _
  unfold State.donePiece
  extract_lets s1 f s2
  have hs1 : s1.allGroups = s.allGroups := hrespond _
  have hs2 : s2.allGroups = s1.allGroups := by
    show (if _ then State.acquireOver _ _ _ _ else _).allGroups = _
    unfold State.acquireOver
    split
    · split
      · exact allGroups_modThr _ _ _
      · rfl
    · rfl
  exact (foldl_keeps allGroups_sendReady _ s2).trans (hs2.trans hs1)

/-! ### What a write at its home leaves of them -/

theorem allGroups_l2Touch (s : State) (pa slice line : Nat) (harvest : Bool) (ccls : BitVec 2) (mask : BitVec 128) :
    (s.l2Touch pa slice line harvest ccls mask).allGroups = s.allGroups := by
  unfold State.l2Touch
  split
  · rfl
  split
  · rfl
  next w out _ =>
    cases out with
    | none => rfl
    | some x =>
      show (s.evictLine x harvest).allGroups = _
      unfold State.evictLine
      dsimp only
      split <;> rfl

theorem allGroups_mapThreads (s : State) (f : Team → Thread → Thread) :
    ({ s with teams := s.teams.map fun x => { x with threads := x.threads.map (f x) } } : State).allGroups = s.allGroups :=
  List.map_map ..

theorem allGroups_triggerLine (s : State) (line : Nat) : (s.triggerLine line).allGroups = s.allGroups := by
  unfold State.triggerLine
  split
  · exact allGroups_mapThreads s _
  · rfl

/-- Bytes written at their home, which is there and which no window of a peer leads to (R85). -/
theorem homeWrite_hbm {pa addr : Nat} {bs : List Byte} (harvest : Bool) (ccls : BitVec 2) (hpa : spaceOf pa = .hbm)
    (hr : s.reaches pa = true) (hl : s.loopPa addr = addr) :
    (s.homeWrite pa addr bs harvest ccls).mem = writeBytes s.mem addr bs ∧
      (s.homeWrite pa addr bs harvest ccls).allGroups = s.allGroups := by
  have hloop : s.loopPa pa = pa := if_neg fun h => by simp [hpa] at h
  unfold State.homeWrite
  simp only [hloop, hr, hl, hpa, Bool.not_true, Bool.false_eq_true, if_false]
  refine ⟨?_, ?_⟩
  · simp only [State.wakeCounters_mem, State.triggerLine_mem]
    show writeBytes (State.l2Dirty _ _).mem addr bs = _
    rw [State.l2Dirty_mem, State.l2Touch_mem]
  · refine (allGroups_mapThreads _ _).trans ((allGroups_triggerLine _ _).trans ?_)
    exact allGroups_l2Touch ..

/-- What is read at its home is sound where no byte is uncorrectable. -/
theorem imageRead_sound (hp : s.poison = []) {a : Nat} (hr : s.reaches a = true) (n : Nat) :
    (s.imageRead a n).any (·.2) = false := by
  simp [State.imageRead, hr, hp]

/-! ## A committed entry performed at its home (R144, R316) -/

/-- The state of a store entry that has been performed: its bytes are in memory, and no group has changed. -/
theorem entryGlobal_store {n core : Nat} {e : BufEntry} {q : Part} (hop : e.op = .store) (hparts : e.parts = [q])
    (hp : s.poison = []) (hpa : spaceOf (e.addr + q.off) = .hbm) (ha : spaceOf e.addr = .hbm)
    (hr : s.reaches (e.addr + q.off) = true) (hl : s.loopPa (e.plinth.getD e.addr + q.off) = e.plinth.getD e.addr + q.off)
    (hat : s.reaches (e.plinth.getD e.addr + q.off) = true) : ∃ x, s.entryGlobal n core e = some x ∧
      x.mem = writeBytes s.mem (e.plinth.getD e.addr + q.off) q.bytes ∧ x.allGroups = s.allGroups := by
  obtain ⟨hmem, hgroups⟩ := homeWrite_hbm (bs := q.bytes) (s.harvest n) 0 hpa hr hl
  have hsound : ([q].any fun p => (s.imageRead (e.plinth.getD e.addr + p.off) p.bytes.length).any (·.2)) = false := by
    rw [List.any_cons, imageRead_sound hp hat, List.any_nil, Bool.or_false]
  have hhbm : (spaceOf e.addr != .device) = true := by rw [ha]; rfl
  have hdev : spaceOf e.addr ≠ .device := bne_iff_ne.1 hhbm
  simp only [State.entryGlobal, hop, hparts, hsound, Bool.and_false, Bool.false_eq_true, if_false, List.foldl_cons,
    List.foldl_nil, Option.bind_some, if_neg hdev]
  refine ⟨_, rfl, ?_, ?_⟩
  · split
    · exact (State.l1Drop_mem ..).trans hmem
    · exact (State.l1Update_mem ..).trans hmem
  · split
    · exact hgroups
    · exact hgroups

/-- The aged win that a piece takes changes no more than a die's count of them. -/
theorem noteAged_eq (s : State) (f : Flight) (p : Piece) :
    ∃ l, s.noteAged f p = { s with dies := l } ∧ ∀ d, (l.getD d default).live = (s.die d).live := by
  unfold State.noteAged
  extract_lets d
  split
  · refine ⟨s.dies.modify d _, rfl, fun k => ?_⟩
    simp only [State.die, List.getD, List.getElem?_modify]
    cases s.dies[k]? with
    | none => rfl
    | some x => by_cases hk : d = k <;> simp [hk, Die.agedWin]
  · exact ⟨s.dies, rfl, fun _ => rfl⟩

/-- Where an access goes rests on which slices of a die live. -/
theorem reaches_withDies {l : List Die} (hl : ∀ d, (l.getD d default).live = (s.die d).live) (a : Nat) :
    ({ s with dies := l } : State).reaches a = s.reaches a := by
  have hhome (b : Nat) : ({ s with dies := l } : State).homeOf b = s.homeOf b := by
    have hdie (d : Nat) : (({ s with dies := l } : State).die d).live = (s.die d).live := hl d
    simp only [State.homeOf, hdie]
  have hloop (b : Nat) : ({ s with dies := l } : State).loopPa b = s.loopPa b := rfl
  simp only [State.reaches, hhome, hloop]

/-- The access of a group's oldest committed entry, a store, is performed: the entry leaves the drain, and its bytes are in
memory. -/
theorem sliceAccess_entry {f : Flight} {p : Piece} {n k : Nat} {e : BufEntry} {rest : List BufEntry} {q : Part}
    (hf : s.flights[s.sel]? = some f) (hk : f.pieces[s.sel2]? = some p) (hjob : f.job = .entry n k) (hfop : f.op = .store)
    (hserved : s.served s.sel s.sel2 = true) (hlost : s.pieceLost f p = false) (hn : n < s.teams.length)
    (hg : k < (s.team n).groups.length) (hdrain : (s.group n k).draining = e :: rest) (hd : e.drain = none) (hop : e.op = .store)
    (hparts : e.parts = [q]) (hp : s.poison = []) (hpa : spaceOf (e.addr + q.off) = .hbm) (ha : spaceOf e.addr = .hbm)
    (hr : s.reaches (e.addr + q.off) = true) (hl : s.loopPa (e.plinth.getD e.addr + q.off) = e.plinth.getD e.addr + q.off)
    (hat : s.reaches (e.plinth.getD e.addr + q.off) = true) : ∃ t, exec .sliceAccess s = .next t ∧
      (t.group n k).draining = rest ∧ t.mem = writeBytes s.mem (e.plinth.getD e.addr + q.off) q.bytes := by
  obtain ⟨l, haged, hlive⟩ := noteAged_eq s f p
  have hfd : s.flights.getD s.sel default = f := by rw [List.getD_eq_getElem?_getD, hf, Option.getD_some]
  have hpd : f.pieces.getD s.sel2 default = p := by rw [List.getD_eq_getElem?_getD, hk, Option.getD_some]
  have hlost' : (s.noteAged f p).pieceLost f p = false := by
    simp only [State.pieceLost, haged, reaches_withDies hlive] at hlost ⊢
    exact hlost
  obtain ⟨x, hx, hmem, hgroups⟩ := entryGlobal_store (s := s.noteAged f p) (n := n) (core := f.core) hop hparts
    (by rw [haged]; exact hp) hpa ha (by rwa [haged, reaches_withDies hlive]) (by rw [haged]; exact hl)
    (by rwa [haged, reaches_withDies hlive])
  have hgroups' : x.allGroups = s.allGroups := by rw [hgroups, haged]; rfl
  refine ⟨(x.modGroup n k fun y => { y with draining := rest }).donePiece s.sel s.sel2 [], ?_, ?_, ?_⟩
  · have hexec : exec .sliceAccess s = .next ((s.noteAged f p).entryPiece s.sel s.sel2 n k) := by
      show execSliceAccess s = _
      simp only [execSliceAccess, hfd, hpd, hserved, hfop, hjob, AccOp.isAtomic, Bool.not_true, Bool.or_self, Bool.false_eq_true,
        if_false]
    have hentry : ((s.noteAged f p).group n k).draining = e :: rest := by rw [haged]; exact hdrain
    have hfd' : (s.noteAged f p).flights.getD s.sel default = f := by rw [haged]; exact hfd
    rw [hexec]
    simp only [State.entryPiece, hentry, hfd', hpd, hlost', hd, hx, Bool.false_eq_true, if_false]
  · rw [group_of_allGroups (allGroups_donePiece ..), group_modGroup_of_allGroups hgroups' hn hg]
  · rw [State.donePiece_mem, State.modGroup_mem, hmem, State.noteAged_mem]

/-! ## The drain (R316) -/

/-- Physical addresses of the pieces of every access. -/
def State.placesOut (s : State) : List (List Nat) := s.flights.map fun f => f.pieces.map Piece.pa

theorem placesOut_sendReady (s : State) (n : Nat) : (s.sendReady n).placesOut = s.placesOut := by
  refine foldl_keeps (fun x k => ?_) _ s
  dsimp only
  split
  · obtain ⟨l, hl⟩ := sendPiece_eq x n k
    rw [hl]
    have hplace (q : Piece) : Piece.pa { q with stage := .net } = q.pa := rfl
    exact map_modify_of_keeps (fun f => f.pieces.map Piece.pa)
      (f := fun f => { f with pieces := f.pieces.modify k fun q => { q with stage := .net } })
      (fun f => map_modify_of_keeps Piece.pa hplace f.pieces k) x.flights n
  · rfl

/-- An access of one piece that is launched joins the others, its piece for the same place. -/
theorem launchFlight_one {f : Flight} {p : Piece} (hf : f.pieces = [p]) : ∃ q : Piece, q.pa = p.pa ∧
    (s.launchFlight f).flights = s.flights ++ [{ f with pieces := [q] }] := by
  obtain ⟨ps, l, he⟩ := launchFlight_eq s f
  have hplaces : (s.launchFlight f).placesOut = s.placesOut ++ [[p.pa]] := by
    refine (placesOut_sendReady _ _).trans ?_
    show List.map _ (s.flights ++ [f]) = _
    rw [List.map_append, List.map_singleton, hf]
    rfl
  rw [he] at hplaces
  have hps : ps.map Piece.pa = [p.pa] := by simpa [State.placesOut] using hplaces
  obtain ⟨q, rfl, hq⟩ := List.map_eq_singleton_iff.1 hps
  exact ⟨q, hq, by rw [he]⟩

section
variable {e : BufEntry} {rest : List BufEntry} (hd : (s.group s.sel s.sel2).draining = e :: rest)
include hd

theorem regionDrainEntry_waits (h : e.sent = true ∨ s.entryMay s.sel e = false) : exec .regionDrainEntry s = .next s := by
  have hwait : (e.sent || !s.entryMay s.sel e) = true := by simpa using h
  refine congrArg Host.Outcome.next ?_
  simp only [hd, hwait, if_true]

variable (hs : e.sent = false) (hm : s.entryMay s.sel e = true)
include hs hm

theorem regionDrainEntry_scratch {h : Nat} (hsc : e.scratch = some h) (hop : e.op = .store)
    (hp : (s.half s.sel h).scrPoison = []) : exec .regionDrainEntry s =
      .next (((e.parts.foldl (fun z p => z.modHalf s.sel h fun y => y.scratchWrite (e.addr + p.off) p.bytes) s).modGroup
        s.sel s.sel2 fun y => { y with draining := rest }).sendAll) := by
  have hsound : (e.parts.any fun p => ((s.half s.sel h).scratchRead (e.addr + p.off) p.bytes.length).any (·.2)) = false :=
    List.any_eq_false.2 fun p _ => by simp [Half.scratchRead, hp]
  refine congrArg Host.Outcome.next ?_
  simp only [hd, hs, hm, hsc, State.entryScratch, hop, hsound, Bool.not_true, Bool.or_self, Bool.false_eq_true, if_false]

theorem regionDrainEntry_sends (hsc : e.scratch = none) : ∃ t f p, exec .regionDrainEntry s = .next t ∧
    t.flights = s.flights ++ [f] ∧ f.job = .entry s.sel s.sel2 ∧ f.op = e.op ∧ f.pieces = [p] ∧ p.pa = e.addr ∧
    t.mem = s.mem := by
  have hexec : exec .regionDrainEntry s = .next (s.entrySend s.sel s.sel2 (s.groupCore s.sel s.sel2) e) := by
    refine congrArg Host.Outcome.next ?_
    simp only [hd, hs, hm, hsc, Bool.not_true, Bool.or_self, Bool.false_eq_true, if_false]
  obtain ⟨q, hq, hflights⟩ := launchFlight_one
    (s := s.modGroup s.sel s.sel2 fun x => { x with draining := x.draining.modify 0 fun y => { y with sent := true } })
    (f := { s.agentFlight s.sel (s.groupCore s.sel s.sel2) (.entry s.sel s.sel2) e.op [] [e.piece] with asid := e.asid })
    (p := e.piece) rfl
  exact ⟨_, _, q, hexec, hflights, rfl, rfl, rfl, hq, State.entrySend_mem ..⟩

end

/-! ## What is discarded (R317) -/

theorem allGroups_discardRegion (s : State) (n k : Nat) :
    (s.discardRegion n k).allGroups = (s.modGroup n k Group.discard).allGroups :=
  foldl_keeps (fun _ _ => allGroups_endJoins ..) _ _

/-- Entries that have joined no batch leave none. -/
theorem discardRegion_no_joins {n k : Nat} (h : ∀ e ∈ (s.group n k).buf, e.joins = []) :
    s.discardRegion n k = s.modGroup n k fun y => { y with buf := [] } :=
  List.foldlRecOn (motive := (· = s.modGroup n k Group.discard)) _ _ rfl fun x hx e he => by rw [hx, h e he]; rfl

end

/-- Settles O39: each region word by what it does to its group, the drain by where its oldest entry goes, and an entry's store
by its bytes in memory. -/
theorem regionWords : Obligations.RegionWords := by
  unfold Obligations.RegionWords
  intro s g a v r rs
  dsimp only
  refine ⟨?_, ?_, ?_, ?_, fun t k ht hk => ⟨?_, State.discardRegion_mem .., discardRegion_no_joins⟩, fun hd => ?_,
    fun e rest hd => ⟨regionDrainEntry_waits hd, fun hs hm => ⟨fun h => regionDrainEntry_scratch hd hs hm,
      regionDrainEntry_sends hd hs hm⟩⟩, ?_⟩
  · rintro _ rfl hi ⟨hr, hw⟩ ho hm hl
    exact region_becomes rfl hi hr hw ho (openCheck_run (of_issues_active hi hr).2 hm hl)
  · rintro _ rfl hi ⟨hr, hw⟩ ho hm hl
    exact region_becomes rfl hi hr hw ho (openCheck_run (of_issues_active hi hr).2 hm hl)
  · rintro _ rfl hi ⟨hr, hw⟩ ho
    exact region_becomes rfl hi hr hw ho rfl
  · rintro _ rfl hi ⟨hr, hw⟩ ho
    exact region_becomes rfl hi hr hw ho rfl
  · rw [group_of_allGroups (allGroups_discardRegion s t k), group_modGroup_eq ht hk]
    rfl
  · refine congrArg Host.Outcome.next ?_
    simp only [hd]
  · intro f p n k e rest q hf hk hjob hfop hserved hlost hn hg hdrain hd hop hparts hp hwf hpa ha hr hl hat
    obtain ⟨t, he, hrest, hmem⟩ :=
      sliceAccess_entry hf hk hjob hfop hserved hlost hn hg hdrain hd hop hparts hp hpa ha hr hl hat
    exact ⟨t, he, hrest, fun x => by rw [hmem, readByte_writeBytes _ hwf]⟩

end Sys2Proof.Machine
end


section
/-! PROOFS. The words of the matrix engine: what each accepted one leaves in its queue and in the slots that it reads;
they settle O46 (R319, R321, R330 to R332, R346 to R354). -/

namespace Sys2Proof.Machine

open Sys2Proof

/-! ## The stalls that the engine words share (R319, R321) -/

section
variable {s : State} {i : Instr} {p : Thread → Prop} {r : Ref} {rs : List Ref} {what slots : List Nat}

theorem engineHeld_eq (core : Nat) (b : Bool) :
    s.engineHeld core b = (s.engine.filter fun e => e.core == core && (!b || e.harvest)).length := rfl

theorem engineRoom_of_free (ha : (s.engine.filter fun e => e.core == s.coreOf r).length < 32)
    (hh : s.harvest r.team = true → (s.engine.filter fun e => e.core == s.coreOf r && e.harvest).length < 16) :
    s.engineRoom r = true := by
  simp only [State.engineRoom, engineHeld_eq, Bool.not_false, Bool.true_or, Bool.and_true, Bool.not_true, Bool.false_or,
    Bool.and_eq_true, decide_eq_true ha, true_and]
  by_cases h : s.harvest r.team = true
  · rw [decide_eq_true (hh h), Bool.or_true]
  · rw [Bool.not_eq_true] at h
    rw [h, Bool.not_false, Bool.true_or]

theorem fragPerformed_of_all {b : Bool} (h : ∀ q ∈ s.active i, s.allPerformed q b = true) : s.fragPerformed i b = true :=
  List.all_eq_true.2 h

/-- Nothing holds an engine word back where the engine is free for it. -/
theorem engineStall_run (h : s.engineFree i r what) (v : Verdict) : s.engineStall i what r v = v := by
  obtain ⟨haway, hbusy, hall, hharv, hperf, hrep⟩ := h
  simp only [State.engineStall, haway, hbusy, engineRoom_of_free hall hharv, fragPerformed_of_all hperf, Bool.not_true,
    Bool.false_eq_true, if_false]
  obtain hc | hl := hrep
  · simp [hc]
  · simp [Nat.not_le.2 hl]

/-! ## The checks of the engine words (R319, R331, R346, R348) -/

theorem tileTakes_of_fits {t want : Tag} (h : t = tagRAW ∨ t = want) : tileTakes t want = true := by
  obtain rfl | rfl := h <;> simp [tileTakes]

theorem any_slots_false {f : Slot → Bool} (h : ∀ n ∈ slots, f (s.slotOf r n) = false) :
    (slots.map fun n => (s.halfOf r).slots.getD n default).any f = false := by
  rw [List.any_map, List.any_eq_false]
  exact fun n hn => Bool.eq_false_iff.1 (h n hn)

theorem slots_fmts :
    (slots.map fun n => (s.halfOf r).slots.getD n default).map (·.fmt) = slots.map fun n => (s.slotOf r n).fmt :=
  List.map_map

/-- The checks of a matrix instruction pass where its slots and its tile suit its form. -/
theorem matCheck_run {x : Nat} {form : List Tag → Option Tag} {bytes : List Tag → List Nat} (hm : s.engineMay i r [x])
    (ho : s.operandsMay r x slots form bytes) : s.matCheck i x slots form bytes r = .run := by
  obtain ⟨hfree, hown⟩ := hm
  obtain ⟨htab, hready, herr, hlen, hpoison, want, hform, htag⟩ := ho
  have htag' : ((s.halfOf r).tiles.getD x default).tag = tagRAW ∨ ((s.halfOf r).tiles.getD x default).tag = want := htag
  have hbytes : (((slots.map fun n => (s.halfOf r).slots.getD n default).zip (bytes (slots.map fun n => (s.slotOf r n).fmt))).all
      fun p => decide (p.2 ≤ p.1.len)) = true := by
    rw [List.zip_map_left, List.all_map, List.all_eq_true]
    exact fun p hp => decide_eq_true (hlen p hp)
  have hsound : (((s.halfOf r).tiles.getD x default).tag == tagPOISON) = false := beq_eq_false_iff_ne.2 hpoison
  simp only [State.matCheck, htab, hown, hready, engineStall_run hfree, slots_fmts, hform,
    tileTakes_of_fits htag', hbytes, any_slots_false herr, hsound,
    Bool.not_true, Bool.false_eq_true, Bool.or_self, if_false]

theorem splineHead_run (hvit : (s.halfOf r).vit.isSome = true) (hown : s.accOwned r = false) {idx : Bool} (hi : idx = true)
    (rest : Verdict) : s.splineHead r idx false rest = rest := by
  simp only [State.splineHead, hi, hown, Option.isNone_eq_false_iff.2 hvit, Bool.not_true, Bool.false_eq_true, if_false]

/-- An array's FMT that the form of an evaluation takes has the size that the obligation names. -/
theorem gridBytes_eq {t : Tag} (h : t = tagF32 ∨ t = tagBF16) : gridBytes t = some (if t = tagF32 then 4096 else 2048) := by
  obtain rfl | rfl := h <;> rfl

theorem gridForm_eq_some {ts : List Tag} {want : Tag} (h : gridForm ts = some want) :
    want = tagF32 ∧ ∀ t ∈ ts, t = tagF32 ∨ t = tagBF16 := by
  unfold gridForm at h
  split at h
  next hall => exact ⟨(Option.some.inj h).symm, fun t ht => of_decide_eq_true (List.all_eq_true.1 hall t ht)⟩
  · cases h

/-- The checks of an evaluation pass where its slots hold arrays of its form and its tile takes F32. -/
theorem gridCheck_run {x k : Nat} (hm : s.engineMay i r [x]) (hs : s.splineMay r k)
    (ho : s.operandsMay r x slots gridForm gridSizes) : s.gridCheck i x k slots r = .run := by
  obtain ⟨hfree, hown⟩ := hm
  obtain ⟨hvit, hknot⟩ := hs
  obtain ⟨htab, hready, herr, hlen, hpoison, want, hform, htag⟩ := ho
  obtain ⟨rfl, hfmt⟩ := gridForm_eq_some hform
  have hbytes n (hn : n ∈ slots) : gridBytes (s.slotOf r n).fmt = some (if (s.slotOf r n).fmt = tagF32 then 4096 else 2048) :=
    gridBytes_eq (hfmt _ (List.mem_map_of_mem hn))
  have hforms : ((slots.map fun n => (s.halfOf r).slots.getD n default).any fun y => (gridBytes y.fmt).isNone) = false :=
    any_slots_false fun n hn => by rw [hbytes n hn, Option.isNone_some]
  have hsizes : ((slots.map fun n => (s.halfOf r).slots.getD n default).any fun y =>
      decide (y.len < (gridBytes y.fmt).getD 0)) = false := by
    refine any_slots_false fun n hn => ?_
    rw [hbytes n hn, decide_eq_false_iff_not, Nat.not_lt]
    refine hlen (n, _) ?_
    rw [gridSizes, List.map_map, ← List.map_prod_left_eq_zip]
    exact List.mem_map.2 ⟨n, hn, rfl⟩
  have htag' : ((s.halfOf r).tiles.getD x default).tag = tagRAW ∨ ((s.halfOf r).tiles.getD x default).tag = tagF32 := htag
  have hsound : (((s.halfOf r).tiles.getD x default).tag == tagPOISON) = false := beq_eq_false_iff_ne.2 hpoison
  have hidx : (s.inTables r [x] slots && s.hasKnot r k) = true := by
    rw [htab, Bool.true_and]
    exact decide_eq_true hknot
  simp only [State.gridCheck, splineHead_run hvit hown hidx, hready, engineStall_run hfree, hforms, hsizes,
    tileTakes_of_fits htag', any_slots_false herr, hsound, Bool.not_true, Bool.false_eq_true, Bool.or_self, if_false]

/-! ## Acceptance (R65, R321) -/

/-- What a word's retirement does not change of a thread stands after every lane has retired it. -/
theorem passed_keeps {α : Type} {f : Thread → α} (hf : ∀ u : Thread, f u.retire = f u) (hb : s.bundled) (q : Ref) :
    f (s.passed.thr q) = f (s.thr q) := by
  by_cases hq : q ∈ s.cur
  · exact (congrArg f (thr_each_mem s s.cur (fun _ => Thread.retire) q hb.1 (hb.2 q hq) hq)).trans (hf _)
  · exact congrArg f (thr_each_notMem s s.cur (fun _ => Thread.retire) q hq)

theorem passed_accept (e : MEntry) :
    s.passed.accept e = { s.passed with engine := s.engine ++ [e], stamp := s.stamp + 1 } := by
  have he : s.passed.engine = s.engine := (congrArg State.engine (passed_frame s) :)
  have hs : s.passed.stamp = s.stamp := (congrArg State.stamp (passed_frame s) :)
  rw [State.accept, he, hs]

/-- An engine word whose check passes joins its engine's queue, and its slots count its reads. -/
theorem engineWord_becomes {own : Ref → Verdict} (he : exec i s = .next (s.engineWord i own slots)) (hi : s.issues i p)
    (hr : s.active i = r :: rs) (ho : own r = .run) :
    Becomes i s (slots.foldl (fun w n => w.modSlot r.team (s.thr r).half n fun sl => sl.consume (s.thr r).group)
      { s.passed with engine := s.engine ++ [s.entryOf i r], stamp := s.stamp + 1 }) := by
  refine ⟨_, he, ?_⟩
  have hh : (s.passed.thr r).half = (s.thr r).half := passed_keeps (fun _ => rfl) hi.1 r
  have hg : (s.passed.thr r).group = (s.thr r).group := passed_keeps (fun _ => rfl) hi.1 r
  rw [State.engineWord, collective_veil _ hi (by rw [lead_of_active hr]; exact ho), hr, ← hh, ← hg, ← passed_accept]
  rfl

end

/-! ## The words accepted (R330 to R332, R346 to R354) -/

section
variable {s : State} {i : Instr} {r : Ref} {a : Nat}

theorem mzeroCheck_run (hm : s.engineMay i r []) (ht : s.inTables r [a] [] = true) :
    (if !s.inTables r [a] [] then Verdict.fail (illegalFault rRange)
      else if s.accOwned r then .fail (s.ownerFault r) else s.engineStall i [] r .run) = .run := by
  obtain ⟨hfree, hown⟩ := hm
  simp only [ht, hown, engineStall_run hfree, Bool.not_true, Bool.false_eq_true, if_false]

theorem mldaCheck_run {n : Nat} (hfree : s.engineFree i r []) (hown : s.accOwned r = false)
    (ht : s.inTables r [a] [n] = true) (hready : s.notReady r [n] = none) (hl : 4096 ≤ (s.slotOf r n).len)
    (hf : (s.slotOf r n).fmt = tagF32 ∨ (s.slotOf r n).fmt = tagI32 ∨ (s.slotOf r n).fmt = tagRAW)
    (he : (s.slotOf r n).err = false) :
    (if !s.inTables r [a] [n] then Verdict.fail (illegalFault rRange)
      else if s.accOwned r then .fail (s.ownerFault r)
      else match s.notReady r [n] with
        | some n => .wait (.slotReady n (s.slotNow r n))
        | none => s.engineStall i [] r (
          if !((s.slotOf r n).fmt == tagF32 || (s.slotOf r n).fmt == tagI32 || (s.slotOf r n).fmt == tagRAW) then
            .fail (plainFault .format)
          else if (s.slotOf r n).len < 4096 then .fail { cause := .scratchBounds }
          else if (s.slotOf r n).err then .fail poisonFault else .run)) = .run := by
  have hfmt : ((s.slotOf r n).fmt == tagF32 || (s.slotOf r n).fmt == tagI32 || (s.slotOf r n).fmt == tagRAW) = true := by
    simpa [or_assoc] using hf
  simp only [ht, hown, hready, engineStall_run hfree, hfmt, Nat.not_lt.2 hl, he, Bool.not_true, Bool.false_eq_true, if_false]

theorem planesOk_of_bounds {x z : BitVec 6} (hx : x.toNat ≤ 35) (hz : 1 ≤ z.toNat) (hs : x.toNat + z.toNat ≤ 36) :
    planesOk x z = true := by
  rw [planesOk, decide_eq_true hx, decide_eq_true hz, decide_eq_true hs, Bool.and_self, Bool.and_self]

theorem planeSlot_run {sl : Slot} {z : BitVec 6} (hf : sl.fmt = tagBF16) (hl : 2048 * z.toNat ≤ sl.len) (v : Verdict) :
    planeSlot sl z v = v := by
  simp only [planeSlot, hf, Nat.not_lt.2 hl, ne_eq, not_true_eq_false, if_false]

theorem splldCheck_run {n : Nat} {x z : BitVec 6} (hm : s.engineMay i r []) (ht : s.inTables r [] [n] = true)
    (hready : s.notReady r [n] = none) (hvit : (s.halfOf r).vit.isSome = true) (hp : planesOk x z = true)
    (hf : (s.slotOf r n).fmt = tagBF16) (hl : 2048 * z.toNat ≤ (s.slotOf r n).len) (he : (s.slotOf r n).err = false) :
    s.splineHead r (s.inTables r [] [n] && planesOk x z) false (
      match s.notReady r [n] with
      | some n => .wait (.slotReady n (s.slotNow r n))
      | none => s.engineStall i [] r (planeSlot (s.slotOf r n) z (if (s.slotOf r n).err then .fail poisonFault else .run))) =
      .run := by
  obtain ⟨hfree, hown⟩ := hm
  rw [splineHead_run hvit hown (by rw [ht, hp, Bool.and_self])]
  simp only [hready, engineStall_run hfree, planeSlot_run hf hl, he, Bool.false_eq_true, if_false]

end

/-- Settles O46: each form's own checks pass under what the obligation asks of its operands, and an accepted word joins its
engine's queue. -/
theorem engineWordsAccepted : Obligations.EngineWordsAccepted := by
  unfold Obligations.EngineWordsAccepted
  intro s g x y z ta tb k q j r rs i what slots good d a b c elems plane hmem hi hr hm hgood
  simp only [List.mem_cons, List.not_mem_nil, or_false, Prod.mk.injEq] at hmem
  rcases hmem with ⟨rfl, rfl, rfl, rfl⟩ | ⟨rfl, rfl, rfl, rfl⟩ | ⟨rfl, rfl, rfl, rfl⟩ | ⟨rfl, rfl, rfl, rfl⟩ |
    ⟨rfl, rfl, rfl, rfl⟩ | ⟨rfl, rfl, rfl, rfl⟩ | ⟨rfl, rfl, rfl, rfl⟩ | ⟨rfl, rfl, rfl, rfl⟩ | ⟨rfl, rfl, rfl, rfl⟩ |
    ⟨rfl, rfl, rfl, rfl⟩
  · exact engineWord_becomes rfl hi hr (matCheck_run hm hgood)
  · exact engineWord_becomes rfl hi hr (matCheck_run hm hgood)
  · exact engineWord_becomes rfl hi hr (matCheck_run hm hgood)
  · exact engineWord_becomes rfl hi hr (mzeroCheck_run hm hgood)
  · obtain ⟨hfree, hown⟩ := hm
    obtain ⟨htab, hready, hlen, hfmt, herr⟩ := hgood
    exact engineWord_becomes rfl hi hr (mldaCheck_run hfree hown htab hready hlen hfmt herr)
  · exact engineWord_becomes rfl hi hr (gridCheck_run hm hgood.1 hgood.2)
  · exact engineWord_becomes rfl hi hr (gridCheck_run hm hgood.1 hgood.2)
  · exact engineWord_becomes rfl hi hr (gridCheck_run hm hgood.1 hgood.2)
  · obtain ⟨hfree, hown⟩ := hm
    exact engineWord_becomes rfl hi hr
      ((splineHead_run hgood.1 hown (decide_eq_true hgood.2) _).trans (engineStall_run hfree _))
  · obtain ⟨htab, hready, hvit, hx, hz, hs, hfmt, hlen, herr⟩ := hgood
    exact engineWord_becomes rfl hi hr (splldCheck_run hm htab hready hvit (planesOk_of_bounds hx hz hs) hfmt hlen herr)

end Sys2Proof.Machine
end


section
/-! PROOFS. The engine words that produce a slot or memory, MMV, SPLKG, and the words that wait until the engine has
performed them; they settle O47 (R321, R333 to R335, R350 to R352, R388). -/

namespace Sys2Proof.Machine

open Sys2Proof

section
variable {s : State} {i : Instr} {p : Thread → Prop} {own : Ref → Verdict} {entry : Ref → MEntry} {r : Ref} {rs : List Ref}
  {v : Ref → Verdict} {w : Wait}

/-! ## A bundle whose lanes all wait -/

theorem lanes_of_waits (hv : ∀ q ∈ s.cur, v q = .wait w) (hw : (Verdict.wait w).walks = false) :
    s.badLanes v = [] ∧ s.stalledLanes v = s.cur ∧ s.goLanes v = [] ∧ ∀ q ∈ s.cur, s.waitOf v q = some w := by
  have hbad : s.badLanes v = [] := List.filter_eq_nil_iff.2 fun q _ => by
    have hfault : s.anyLane q (fun q => (v q).fault?.isSome) = false :=
      List.any_eq_false.2 fun k hk => by simp [hv k hk, Verdict.fault?]
    simp [hfault]
  have hstall : s.stalledLanes v = s.cur := List.filter_eq_self.2 fun q hq => by simp [hbad, hv q hq, Verdict.wait?]
  refine ⟨hbad, hstall, ?_, fun q hq => ?_⟩
  · exact List.filter_eq_nil_iff.2 fun q hq => by simp [hbad, hstall, hq]
  · have hwalks : (s.cur.filter fun k => s.sameGroup k q && (v k).walks) = [] :=
      List.filter_eq_nil_iff.2 fun k hk => by simp [hv k hk, hw]
    simp [State.waitOf, hwalks, hv q hq, hw, Verdict.wait?]

/-- Every lane of a bundle waits: each takes its wait, and nothing else is done. -/
theorem perform_waits (hv : ∀ q ∈ s.cur, v q = .wait w) (hw : (Verdict.wait w).walks = false) :
    (s.perform v fun a _ => a).veil = (s.each s.cur fun _ t => t.stall w s.gtime).veil := by
  obtain ⟨hbad, hstall, hgo, hwait⟩ := lanes_of_waits hv hw
  have hwaits : s.waitStalled s v = s.each s.cur fun _ t => t.stall w s.gtime := by
    rw [State.waitStalled, hstall]
    exact List.foldl_rel (r := Eq) rfl fun q hq x y hxy => by rw [hwait q hq, hxy]
  rw [State.perform, veil_settleAll, ← hwaits]
  simp only [State.trapBad, State.notePath, State.countRetired, hbad, hgo, State.fragLeads, List.filter_nil, List.foldl_nil]

/-! ## The words that hold their issuer (R351, R388) -/

/-- Where the lead's own check waits, each lane of the bundle waits with it. -/
theorem judgeAll_waits (hi : s.issues i p) (hr : s.active i = r :: rs) (ho : own r = .wait w) {q : Ref} (hq : q ∈ s.cur) :
    s.judgeAll i own q = .wait w := by
  have hl : s.lead i = r := lead_of_active hr
  obtain ⟨hrc, hra⟩ := mem_active.1 (hr ▸ List.mem_cons_self : r ∈ s.active i)
  have hlead : s.judgeWord i false false (fun _ => own r) r = .wait w :=
    (judge_of_active (own := fun _ => own r) (hi.2 r hrc).1 hra).trans ho
  simp only [State.judgeAll, hl]
  by_cases ha : (s.thr q).active i = true
  · have hj : s.judgeWord i false false (fun _ => own r) q = .wait w :=
      (judge_of_active (own := fun _ => own r) (hi.2 q hq).1 ha).trans ho
    rw [hj]
  · have hj : s.judgeWord i false false (fun _ => own r) q = .off :=
      (judge_accepts (own := fun _ => own r) (hi.2 q hq).1 fun h => absurd h ha).trans (if_neg ha)
    rw [hj]
    simp only [hr, hlead, List.isEmpty_cons, Bool.false_eq_true, if_false, Verdict.wait?, Option.map_some, Option.getD_some]

/-- A held word whose entry the engine no longer holds is over. -/
theorem heldVerdict_over {id : Nat} (hw : (s.thr r).wait = some (.engine id)) (he : ∀ e ∈ s.engine, e.id ≠ id) :
    s.heldVerdict own r = .run := by
  have hgone : (s.engine.any fun e => e.id == id) = false :=
    List.any_eq_false.2 fun e hm => mt beq_iff_eq.1 (he e hm)
  simp only [State.heldVerdict, hw, hgone, Bool.false_eq_true, if_false]

/-- A held word whose checks pass on its first issue waits for the entry that it is about to take. -/
theorem heldVerdict_first (hw : (s.thr r).wait = none) (ho : own r = .run) :
    s.heldVerdict own r = .wait (.engine s.stamp) := by simp only [State.heldVerdict, hw, ho]

/-- A held word that is over goes on with no effect. -/
theorem heldWord_over {id : Nat} (hi : s.issues i p) (hr : s.active i = r :: rs) (hw : (s.thr r).wait = some (.engine id))
    (he : ∀ e ∈ s.engine, e.id ≠ id) : (s.heldWord i own entry).veil = s.passed.veil := by
  have ho : s.heldVerdict own (s.lead i) = .run := by rw [lead_of_active hr]; exact heldVerdict_over hw he
  obtain ⟨hrc, hra⟩ := mem_active.1 (hr ▸ List.mem_cons_self : r ∈ s.active i)
  have hv : s.judgeAll i (s.heldVerdict own) r = .run :=
    (judgeAll_of_issues hi ho hrc).trans (judge_of_active (own := noCheck) (hi.2 r hrc).1 hra)
  have hx : s.heldWord i own entry = s.collective i (s.heldVerdict own) fun a _ => a := by
    simp only [State.heldWord, hr, hv, reduceCtorEq, if_false]
    rfl
  rw [hx, collective_veil _ hi ho]

/-- A held word on its first issue: its threads wait, and its entry joins the queue. -/
theorem heldWord_first (hi : s.issues i p) (hr : s.active i = r :: rs) (hw : (s.thr r).wait = none) (ho : own r = .run) :
    ∃ x : State, s.heldWord i own entry = x.accept (entry r) ∧
      x.veil = (s.each s.cur fun _ t => t.stall (.engine s.stamp) s.gtime).veil := by
  have hv q (hq : q ∈ s.cur) : s.judgeAll i (s.heldVerdict own) q = .wait (.engine s.stamp) :=
    judgeAll_waits hi hr (heldVerdict_first hw ho) hq
  refine ⟨_, ?_, perform_waits hv rfl⟩
  have hrc : r ∈ s.cur := (mem_active.1 (hr ▸ List.mem_cons_self : r ∈ s.active i)).1
  simp only [State.heldWord, hr, hv r hrc, if_true]

/-- What a held word leaves on its first issue. -/
theorem heldWord_holds (he : exec i s = .next (s.heldWord i own entry)) (hi : s.issues i p) (hr : s.active i = r :: rs)
    (hw : (s.thr r).wait = none) (ho : own r = .run) : ∃ t, exec i s = .next t ∧ t.engine = s.engine ++ [entry r] ∧
      (∀ q ∈ s.cur, (t.thr q).wait = some (.engine s.stamp) ∧ (t.thr q).pc = (s.thr q).pc) ∧
      (∀ q, (t.thr q).regs = (s.thr q).regs) ∧ ∀ a, readByte t.mem a = readByte s.mem a := by
  obtain ⟨x, hx, hveil⟩ := heldWord_first (entry := entry) hi hr hw ho
  have hrest : ({ s.each s.cur (fun _ t => t.stall (.engine s.stamp) s.gtime) with teams := s.teams } : State) = s :=
    each_rest _ _ _
  have hin q (hq : q ∈ s.cur) : (x.thr q).veil = ((s.thr q).stall (.engine s.stamp) s.gtime).veil := by
    rw [thr_of_veil hveil, thr_each_mem _ _ _ _ hi.1.1 (hi.1.2 q hq) hq]
  have hout q (hq : q ∉ s.cur) : (x.thr q).veil = (s.thr q).veil := by rw [thr_of_veil hveil, thr_each_notMem _ _ _ _ hq]
  refine ⟨_, he.trans (congrArg _ hx), ?_, fun q hq => ?_, fun q => ?_, fun a => ?_⟩
  · have heng : x.engine = s.engine :=
      (congrArg State.engine hveil :).trans (congrArg State.engine hrest :)
    exact congrArg (· ++ [entry r]) heng
  · exact ⟨(congrArg Thread.wait (hin q hq) :), (congrArg Thread.pc (hin q hq) :)⟩
  · by_cases hq : q ∈ s.cur
    · exact (congrArg Thread.regs (hin q hq) :)
    · exact (congrArg Thread.regs (hout q hq) :)
  · exact congrArg (readByte · a) ((congrArg State.mem hveil :).trans (congrArg State.mem hrest :))

end

/-! ## The producers of a slot (R333, R352) -/

section
variable {s : State} {i : Instr} {p : Thread → Prop} {own : Ref → Verdict} {r : Ref} {rs : List Ref} {x y z : BitVec 6}
  {f : BitVec 4}

/-- A collective word whose check passes leaves what its action leaves once every lane has retired it. -/
theorem collective_becomes {act : State → List Ref → State} {t : State} (he : exec i s = .next (s.collective i own act))
    (hi : s.issues i p) (hr : s.active i = r :: rs) (ho : own r = .run) (ht : act s.passed (r :: rs) = t) : Becomes i s t := by
  refine ⟨_, he, ?_⟩
  rw [collective_veil act hi (by rw [lead_of_active hr]; exact ho), hr, ht]

theorem drainCode_of_bounds (hl : 1 ≤ f.toNat) (hu : f.toNat ≤ 6) : drainCode f = true := by
  rw [drainCode, decide_eq_true hl, decide_eq_true hu, Bool.and_self]

theorem drainFormat_of_not {tag : Tag} (h : ¬(tag = tagF32 ∧ f = 6)) : drainFormat tag f = true := by
  rw [drainFormat, Bool.not_eq_true', Bool.eq_false_iff]
  exact fun hc => h (by simpa using hc)

/-! The checks read a slot and a tile's tag as the obligation names them. -/

theorem slots_getD (n : Nat) : (s.halfOf r).slots.getD n default = s.slotOf r n := rfl
theorem tiles_getD_tag (n : Nat) : ((s.halfOf r).tiles.getD n default).tag = s.tileTag r n := rfl

theorem drainSlotCheck_run (hm : s.engineMay i r [x.toNat]) (ht : s.inTables r [x.toNat] [y.toNat] = true)
    (hcode : drainCode f = true) (hform : drainFormat (s.tileTag r x.toNat) f = true)
    (hpoison : s.tileTag r x.toNat ≠ tagPOISON) (hstate : (s.slotOf r y.toNat).state = .filling)
    (hoff : (s.slotOf r y.toNat).off % (1024 * drainBytes f) = 0) (hfmt : (s.slotOf r y.toNat).fmt = drainTag f)
    (hlen : 1024 * drainBytes f ≤ (s.slotOf r y.toNat).len) : s.drainSlotCheck i x y f r = .run := by
  obtain ⟨hfree, hown⟩ := hm
  simp only [State.drainSlotCheck, slots_getD, tiles_getD_tag, ht, hown, hcode, hoff, hstate, hfmt, hform, hpoison,
    Nat.not_lt.2 hlen, engineStall_run hfree, ne_eq, not_true_eq_false, Bool.not_true, Bool.true_eq_false,
    Bool.false_eq_true, or_self, if_false]

theorem splstCheck_run (hm : s.engineMay i r []) (ht : s.inTables r [] [y.toNat] = true)
    (hvit : (s.halfOf r).vit.isSome = true) (hp : planesOk x z = true) (hstate : (s.slotOf r y.toNat).state = .filling)
    (hfmt : (s.slotOf r y.toNat).fmt = tagBF16) (hlen : 2048 * z.toNat ≤ (s.slotOf r y.toNat).len) :
    s.splineHead r (s.inTables r [] [y.toNat] && planesOk x z) false (
      if (s.slotOf r y.toNat).state ≠ .filling then .wait (.slotFilling y.toNat (s.slotNow r y.toNat))
      else s.engineStall i [] r (planeSlot (s.slotOf r y.toNat) z .run)) = .run := by
  obtain ⟨hfree, hown⟩ := hm
  rw [splineHead_run hvit hown (by rw [ht, hp, Bool.and_self]), if_neg (Classical.not_not.2 hstate), engineStall_run hfree,
    planeSlot_run hfmt hlen]

/-- An accepted producer of a slot: its slot counts it. -/
theorem producer_becomes {n : Nat} (hi : s.issues i p) (hr : s.active i = r :: rs) (ho : own r = .run)
    (he : exec i s = .next (s.collective i own fun s1 rs =>
      match rs with
      | [] => s1
      | r :: _ => (s1.accept (s.entryOf i r)).modSlot r.team (s.thr r).half n fun sl => sl.produce (s.thr r).group)) :
    Becomes i s (({ s.passed with engine := s.engine ++ [s.entryOf i r], stamp := s.stamp + 1 } : State).modSlot r.team
      (s.thr r).half n fun sl => sl.produce (s.thr r).group) := by
  refine collective_becomes he hi hr ho ?_
  simp only [passed_accept]

/-! ## MDRN to memory (R315, R333, R334) -/

theorem passes_of_ok {a : Except Verdict (List (BitVec 64 × Nat × Leaf × Nat))} {l : List (BitVec 64 × Nat × Leaf × Nat)}
    (h : a = .ok l) (next : List (BitVec 64 × Nat × Leaf × Nat) → Verdict) : passes a next = next l := by rw [h]; rfl

theorem partsOr_of_ok {a : Except Verdict (List (BitVec 64 × Nat × Leaf × Nat))} {l : List (BitVec 64 × Nat × Leaf × Nat)}
    (h : a = .ok l) : partsOr a = l := by rw [h]; rfl

/-- The store buffer has a place for a drain. -/
theorem drainRoom_run
    (hroom : s.buffers r = true → s.hasRoom r 1 ∧ ∀ e ∈ (s.group r.team (s.thr r).group).buf, e.drain = none) :
    (if s.buffers r then
      (if (s.group r.team (s.thr r).group).buf.any (·.drain.isSome) then .fail (plainFault .region) else s.bufferCheck r 1)
    else .run : Verdict) = .run := by
  by_cases hb : s.buffers r = true
  · obtain ⟨hplace, hdrain⟩ := hroom hb
    have hnone : (s.group r.team (s.thr r).group).buf.any (·.drain.isSome) = false :=
      List.any_eq_false.2 fun e he => by simp [hdrain e he]
    have hlen : (s.group r.team (s.thr r).group).buf.length + (s.group r.team (s.thr r).group).draining.length + 1 ≤ 64 := by
      simpa only [State.hasRoom, hb, if_true] using hplace
    simp only [hb, hnone, State.bufferCheck, Nat.not_lt.2 hlen, Bool.false_eq_true, if_true, if_false]
    exact if_neg (by omega)
  · exact if_neg hb

theorem drainMemCheck_run {add : Bool} {l : Parts} (hm : s.engineMay i r [x.toNat])
    (ht : s.inTables r [x.toNat] [] = true) (hclean : (s.thr r).poisoned [u2 y] = false) (hcode : drainCode f = true)
    (hform : drainFormat (s.tileTag r x.toNat) f = true) (hpoison : s.tileTag r x.toNat ≠ tagPOISON)
    (halign : ((s.thr r).pairVal y.toNat).toNat % (1024 * drainBytes f) = 0)
    (htrans : s.transAccess r ((s.thr r).pairVal y.toNat) (1024 * drainBytes f) { wr := true } 6 = .ok l)
    (hfar : add = true → farParts l = false)
    (hroom : s.buffers r = true → s.hasRoom r 1 ∧ ∀ e ∈ (s.group r.team (s.thr r).group).buf, e.drain = none) :
    s.drainMemCheck i x y f add r = .run := by
  obtain ⟨hfree, hown⟩ := hm
  have hnear : (add && farParts l) = false := by
    cases add with
    | false => rfl
    | true => exact hfar rfl
  unfold State.drainMemCheck
  simp only [drainRoom_run hroom, tiles_getD_tag, joinRegion, ht, hown, hclean, hcode, halign, engineStall_run hfree, hform,
    hpoison, passes_of_ok htrans, hnear, ne_eq, not_true_eq_false, Bool.not_true, Bool.false_eq_true, if_false,
    show ((Verdict.run == Verdict.fail (plainFault .region)) = false) from rfl]

/-- Every thread of a list takes a command into its open batch (R151). -/
def State.joined (s : State) (rs : List Ref) : State := rs.foldl (fun a q => a.modThr q Thread.joinBatch) s

section
variable {add : Bool} {va : BitVec 64} {n pa : Nat} {l : Leaf} {rest : Parts}
  (he : exec i s = .next (s.drainMem i x y f add)) (hi : s.issues i p) (hr : s.active i = r :: rs)
  (ho : s.drainMemCheck i x y f add r = .run)
  (htrans : s.transAccess r ((s.thr r).pairVal y.toNat) (1024 * drainBytes f) { wr := true } 6 = .ok ((va, n, l, pa) :: rest))
include he hi hr ho htrans

/-- An accepted drain to memory joins the engine's queue with its translation. -/
theorem drainMem_accepts (hb : s.buffers r = false) : Becomes i s (State.joined
    { s.passed with
      engine := s.engine ++ [{ s.entryOf i r with
        arg := (s.thr r).pairVal y.toNat, parts := [(1024 * drainBytes f, pa, l.plinth)], joins := s.joinsOf (r :: rs) }]
      stamp := s.stamp + 1 } (r :: rs)) := by
  refine collective_becomes he hi hr ho ?_
  simp only [partsOr_of_ok htrans, hb, Bool.false_eq_true, if_false, passed_accept]
  rfl

/-- In an open region an accepted drain joins the group's buffer with its tile as it stands. -/
theorem drainMem_buffers (hb : s.buffers r = true) : Becomes i s (State.joined
    (s.passed.bufferPush r [{ drainEntry (s.thr r) ((s.team r.team).xasid.setWidth 16) ((s.thr r).pairVal y.toNat) l pa
      ((s.halfOf r).drainOf x.toNat f add (s.thr r).rm (s.thr r).sat) with joins := s.joinsOf (r :: rs) }]) (r :: rs)) := by
  refine collective_becomes he hi hr ho ?_
  simp only [partsOr_of_ok htrans, hb, if_true]
  rfl

end

/-! ## MMV and SPLKG (R335, R350) -/

theorem alignFault_none {va : BitVec 64} {n : Nat} (h : va.toNat % n = 0) (acc : BitVec 3) : alignFault va n acc = none :=
  if_neg (Classical.not_not.2 h)

theorem mmvCheck_run {w : BitVec 2} (hp : (s.thr r).poisoned (copyUses y z) = false) (hd : badMmv ((s.thr r).desc y) w = false)
    (hw : (mmvBase ((s.thr r).desc y) 0).toNat % 256 = 0) (hx : (mmvBase ((s.thr r).desc y) 1).toNat % 2 = 0)
    (hy : (mmvBase ((s.thr r).desc y) 2).toNat % 4 = 0) (hz : z ≠ 0 → ((s.thr r).pairVal z.toNat).toNat % 8 = 0)
    (hperf : s.fragPerformed i false = true) (hroom : s.reportRoom r .run = .run) : s.mmvCheck i y z w r = .run := by
  have hctr : (((s.thr r).ctrOf z).bind fun c => alignFault c 8 6) = none := by
    by_cases h : z = 0
    · rw [Thread.ctrOf, if_pos h, Option.bind_none]
    · rw [Thread.ctrOf, if_neg h, Option.bind_some, alignFault_none (hz h)]
  simp only [State.mmvCheck, hp, hd, alignFault_none hw, alignFault_none hx, alignFault_none hy, hctr, hperf, hroom,
    Option.orElse, Bool.false_eq_true, if_false, if_true]

theorem mmv_becomes {g : BitVec 3} {w : BitVec 2} (hi : s.issues (.mmv g y z w) p) (hr : s.active (.mmv g y z w) = r :: rs)
    (ho : s.mmvCheck (.mmv g y z w) y z w r = .run) : Becomes (.mmv g y z w) s (State.joined
      { s.passed with cmds := s.cmds ++ [{ s.copyCmd .mmv 0 y z r with
        inc := 1, fmt := w.setWidth 4, joins := s.joinsOf (r :: rs) }] } (r :: rs)) := by
  have hc : s.passed.cmds = s.cmds := (congrArg State.cmds (passed_frame s) :)
  refine collective_becomes rfl hi hr ho ?_
  simp only [hc]
  rfl

theorem splkgCheck_run {k : Nat} (hm : s.engineMay i r []) (hs : s.splineMay r k)
    (hp : (s.thr r).poisoned [u4 y] = false)
    (hbad : badKnot ((s.thr r).blockWord y.toNat 0) ((s.thr r).blockWord y.toNat 1) ((s.thr r).blockWord y.toNat 2)
      ((s.thr r).blockWord y.toNat 3) = false)
    (ht0 : (s.thr r).blockTag y.toNat 0 = tagF32) (ht1 : (s.thr r).blockTag y.toNat 1 = tagF32) :
    s.splineHead r (s.hasKnot r k) ((s.thr r).poisoned [u4 y]) (
      if badKnot ((s.thr r).blockWord y.toNat 0) ((s.thr r).blockWord y.toNat 1) ((s.thr r).blockWord y.toNat 2)
        ((s.thr r).blockWord y.toNat 3) then .fail (illegalFault rValue)
      else s.engineStall i [] r (
        if (s.thr r).blockTag y.toNat 0 = tagF32 ∧ (s.thr r).blockTag y.toNat 1 = tagF32 then .run
        else .fail (plainFault .format))) = .run := by
  obtain ⟨hfree, hown⟩ := hm
  obtain ⟨hvit, hknot⟩ := hs
  rw [hp, splineHead_run hvit hown (show s.hasKnot r k = true from decide_eq_true hknot), hbad, if_neg Bool.false_ne_true,
    engineStall_run hfree, if_pos ⟨ht0, ht1⟩]

/-! ## The records of R388 -/

theorem accCheck_run {tile : Option Nat} {save : Bool} {n : Nat} {parts : List (Nat × Nat × Bool)}
    (hfree : s.engineFree i r []) (hown : save = true ∨ s.accOwned r = false)
    (ht : ∀ k, tile = some k → k < (s.halfOf r).tiles.length ∧
      k < (s.half (s.accSource r.team (s.thr r).half).1 (s.accSource r.team (s.thr r).half).2).tiles.length)
    (hp : (s.thr r).poisoned [u2 y] = false) (ha : ((s.thr r).pairVal y.toNat).toNat % 128 = 0)
    (hall : s.allPerformed r true = true) (hparts : s.recordParts r y save n = .ok parts) :
    s.accCheck i tile y save n r = .run := by
  have htile : (tile.any fun k => decide (min
      (s.half (s.accSource r.team (s.thr r).half).1 (s.accSource r.team (s.thr r).half).2).tiles.length
      (s.halfOf r).tiles.length ≤ k)) = false := by
    cases tile with
    | none => rfl
    | some k =>
      obtain ⟨hmine, hsrc⟩ := ht k rfl
      exact decide_eq_false (Nat.not_le.2 (lt_min hsrc hmine))
  have hacc : (!save && s.accOwned r) = false := by
    obtain rfl | h := hown
    · rfl
    · rw [h, Bool.and_false]
  simp only [State.accCheck, htile, hacc, hp, ha, hall, hparts, engineStall_run hfree, ne_eq, not_true_eq_false,
    Bool.not_true, Bool.false_eq_true, if_false]

/-- What a context instruction leaves on its first issue. -/
theorem accWord_holds {tile : Option Nat} {save : Bool} {n : Nat} {parts : List (Nat × Nat × Bool)}
    (he : exec i s = .next (s.accWord i tile y save n)) (hi : s.issues i p) (hr : s.active i = r :: rs)
    (hw : (s.thr r).wait = none) (ho : s.accCheck i tile y save n r = .run) (hparts : s.recordParts r y save n = .ok parts) :
    ∃ t, exec i s = .next t ∧
      t.engine = s.engine ++ [{ s.entryOf i r with arg := (s.thr r).pairVal y.toNat, parts := parts }] ∧
      (∀ q ∈ s.cur, (t.thr q).wait = some (.engine s.stamp) ∧ (t.thr q).pc = (s.thr q).pc) ∧
      (∀ q, (t.thr q).regs = (s.thr q).regs) ∧ ∀ a, readByte t.mem a = readByte s.mem a := by
  obtain ⟨t, ht, heng, hrest⟩ := heldWord_holds he hi hr hw ho
  refine ⟨t, ht, ?_, hrest⟩
  rw [heng]
  simp only [hparts]

end

/-- The words that hold their issuer are held words of the model. -/
theorem exec_held (s : State) {g : BitVec 3} {x y : BitVec 6} {j : BitVec 5} {i : Instr}
    (h : i ∈ [Instr.splkq g j y, .accsave g x y, .accrest g x y, .accsaveV g y, .accrestV g y]) :
    ∃ own entry, exec i s = .next (s.heldWord i own entry) := by
  simp only [List.mem_cons, List.not_mem_nil, or_false] at h
  rcases h with rfl | rfl | rfl | rfl | rfl <;> exact ⟨_, _, rfl⟩

/-- Settles O47: the producers and MMV by their own checks, the held words by whether the engine still holds their entry. -/
theorem engineProducersAndHolders : Obligations.EngineProducersAndHolders := by
  unfold Obligations.EngineProducersAndHolders
  intro s g x y z f w j r rs
  refine ⟨fun i hmem hi hr hm ht hcode hslot => ?_, fun i hmem hi hr hm ht hvit hx hz hs hslot => ?_,
    fun i add va n l pa rest hmem hi hr hm ht hcode halign htrans hfar => ?_,
    fun i hmem hi hr hd hw hx hy hz hperf hroom => ?_, fun i hmem hi hr hm hs hbad ht0 ht1 => ?_,
    fun i id hmem hi hr hw he => ?_, fun i hmem _ hi hr hw hm hs => ?_,
    fun i n save parts hmem _ hi hr hw hfree hown htile ha hall hparts => ?_⟩
  · obtain ⟨hl, hu, hform, hpoison⟩ := hcode
    obtain ⟨hstate, hoff, hfmt, hlen⟩ := hslot
    have ho : s.drainSlotCheck i x y f r = .run := drainSlotCheck_run hm ht (drainCode_of_bounds hl hu)
      (drainFormat_of_not hform) hpoison hstate hoff hfmt hlen
    simp only [List.mem_cons, List.not_mem_nil, or_false] at hmem
    rcases hmem with rfl | rfl
    · exact producer_becomes hi hr ho rfl
    · exact producer_becomes hi hr ho rfl
  · obtain ⟨hstate, hfmt, hlen⟩ := hslot
    subst hmem
    exact producer_becomes hi hr (splstCheck_run hm ht hvit (planesOk_of_bounds hx hz hs) hstate hfmt hlen) rfl
  · obtain ⟨hl, hu, hform, hpoison⟩ := hcode
    have hpure := (of_issues_active hi hr).2
    obtain ⟨he, hclean⟩ : exec i s = .next (s.drainMem i x y f add) ∧ (s.thr r).poisoned [u2 y] = false := by
      simp only [List.mem_cons, List.not_mem_nil, or_false, Prod.mk.injEq] at hmem
      rcases hmem with ⟨rfl, rfl⟩ | ⟨rfl, rfl⟩
      · exact ⟨rfl, hpure⟩
      · exact ⟨rfl, hpure⟩
    have ho := drainMemCheck_run hm ht hclean (drainCode_of_bounds hl hu) (drainFormat_of_not hform) hpoison halign htrans hfar
    refine ⟨fun hb => ?_, fun hb hplace hdrain => ?_⟩
    · exact drainMem_accepts he hi hr (ho fun h => absurd h (by rw [hb]; exact Bool.false_ne_true)) htrans hb
    · exact drainMem_buffers he hi hr (ho fun _ => ⟨hplace, hdrain⟩) htrans hb
  · subst hmem
    obtain ⟨-, hp⟩ := of_issues_active hi hr
    exact mmv_becomes hi hr (mmvCheck_run hp hd hw hx hy hz (fragPerformed_of_all (hr ▸ hperf)) hroom)
  · subst hmem
    obtain ⟨-, hp⟩ := of_issues_active hi hr
    refine collective_becomes rfl hi hr (splkgCheck_run hm hs hp hbad ht0 ht1) ?_
    simp only [passed_accept]
  · obtain ⟨own, entry, hx⟩ := exec_held s hmem
    exact ⟨_, hx, heldWord_over hi hr hw he⟩
  · subst hmem
    have hrc : r ∈ s.cur := (mem_active.1 (hr ▸ List.mem_cons_self)).1
    obtain ⟨hfree, hown⟩ := hm
    obtain ⟨hvit, hknot⟩ := hs
    exact heldWord_holds rfl hi hr (hw r hrc) ((splineHead_run hvit hown (decide_eq_true hknot) _).trans (engineStall_run hfree _))
  · have hrc : r ∈ s.cur := (mem_active.1 (hr ▸ List.mem_cons_self)).1
    have hpure := (of_issues_active hi hr).2
    simp only [List.mem_cons, List.not_mem_nil, or_false, Prod.mk.injEq] at hmem
    rcases hmem with ⟨rfl, rfl, rfl⟩ | ⟨rfl, rfl, rfl⟩ | ⟨rfl, rfl, rfl⟩ | ⟨rfl, rfl, rfl⟩
    · exact accWord_holds rfl hi hr (hw r hrc)
        (accCheck_run hfree hown (by rintro k ⟨⟩; exact htile (.head _)) hpure ha hall hparts) hparts
    · exact accWord_holds rfl hi hr (hw r hrc)
        (accCheck_run hfree hown (by rintro k ⟨⟩; exact htile (.tail _ (.head _))) hpure ha hall hparts) hparts
    · exact accWord_holds rfl hi hr (hw r hrc) (accCheck_run hfree hown nofun hpure ha hall hparts) hparts
    · exact accWord_holds rfl hi hr (hw r hrc) (accCheck_run hfree hown nofun hpure ha hall hparts) hparts

end Sys2Proof.Machine
end


section
/-! PROOFS. The return from a handler, the words that halt a team, and the trap of a control thread; they settle O32 (R363,
R380 to R382, R386). -/

namespace Sys2Proof.Machine

open Sys2Proof

/-! ## ERET (R386) -/

theorem modify_congr {α : Type} {f g : α → α} {l : List α} {n : Nat} {d : α} (h : f (l.getD n d) = g (l.getD n d)) :
    l.modify n f = l.modify n g := by
  refine List.ext_getElem? fun k => ?_
  rw [List.getElem?_modify, List.getElem?_modify]
  by_cases hk : n = k
  · subst hk
    cases hl : l[n]? with
    | none => rfl
    | some x => simpa [List.getD, hl] using h
  · simp only [if_neg hk]

/-- A change of a thread is what it makes of the thread as it is. -/
theorem modThr_congr {s : State} {r : Ref} {f g : Thread → Thread} (h : f (s.thr r) = g (s.thr r)) :
    s.modThr r f = s.modThr r g := by
  refine congrArg (fun l => ({ s with teams := l } : State)) (modify_congr (d := default) ?_)
  exact congrArg (fun l => ({ s.team r.team with threads := l } : Team)) (modify_congr (d := default) h)

theorem each_congr {s : State} {rs : List Ref} {f g : Ref → Thread → Thread} (hn : rs.Nodup)
    (h : ∀ r ∈ rs, f r (s.thr r) = g r (s.thr r)) : s.each rs f = s.each rs g := by
  induction rs generalizing s with
  | nil => rfl
  | cons r rs ih =>
    obtain ⟨hr, hrs⟩ := List.nodup_cons.1 hn
    rw [each_cons, each_cons, modThr_congr (h r List.mem_cons_self)]
    refine ih hrs fun q hq => ?_
    rw [thr_modThr_ne _ _ _ _ fun e : r = q => hr (e ▸ hq)]
    exact h q (List.mem_cons_of_mem _ hq)

section
variable {s : State} {g : BitVec 3} {c : BitVec 6}

/-- ERET sends each active thread to its EPC, outside custodian mode. -/
theorem eret_becomes (hi : s.issues (.eret g) fun _ => True) : Becomes (.eret g) s
    ((s.active (.eret g)).foldl (fun x r => x.modThr r fun u => { u with pc := u.tr.epc, cm := false }) s.passed) := by
  have hepc (r : Ref) (hr : r ∈ s.active (.eret g)) : (s.thr r).tr = (s.passed.thr r).tr := by
    obtain ⟨hc, -⟩ := mem_active.1 hr
    exact (congrArg Thread.tr (thr_each_mem s s.cur (fun _ => Thread.retire) r hi.1.1 (hi.1.2 r hc) hc) :).symm
  refine ⟨_, rfl, ?_⟩
  rw [State.lanewise, perform_veil_of_issues (own := noCheck) _ hi fun _ _ _ _ => rfl]
  refine congrArg State.veil (each_congr (hi.1.1.filter _) fun r hr => ?_)
  rw [hepc r hr]

/-! ## A halt of a team (R363, R380) -/

/-- A thread as a halt of its team leaves it. -/
def Thread.halted (u : Thread) : Thread := if u.exited then u else u.abandon
/-- A team as a halt leaves it. -/
def Team.halted (x : Team) : Team := { x with dbgctl := x.dbgctl ||| 2#32, threads := x.threads.map Thread.halted }

theorem haltTeam_teams (s : State) (n : Nat) : (s.haltTeam n).teams = (s.modTeam n Team.halted).teams := raise_teams _ _ _

theorem team_haltTeam (s : State) (n m : Nat) : (s.haltTeam n).team m = (s.modTeam n Team.halted).team m := by
  rw [State.team, haltTeam_teams, State.team]

/-- A halt leaves each thread as it is, or with its wait abandoned. -/
theorem thr_haltTeam (s : State) (n : Nat) (q : Ref) :
    (s.haltTeam n).thr q = s.thr q ∨ (s.haltTeam n).thr q = (s.thr q).abandon := by
  have hhalted (u : Thread) : u.halted = u ∨ u.halted = u.abandon := by
    by_cases h : u.exited = true
    · exact .inl (if_pos h)
    · exact .inr (if_neg h)
  rw [State.thr, team_haltTeam]
  by_cases hl : n < s.teams.length
  · by_cases hn : n = q.team
    · have hthr : ((s.team q.team).threads.map Thread.halted).getD q.thr default = (s.thr q).halted :=
        getD_map _ _ _ _ rfl
      rw [hn, team_modTeam_eq _ _ _ (hn ▸ hl), Team.halted, hthr]
      exact hhalted _
    · rw [team_modTeam_ne _ _ _ _ hn]
      exact .inl rfl
  · rw [modTeam_out _ _ _ (Nat.not_lt.1 hl)]
    exact .inl rfl

/-- A thread that waits for nothing abandons nothing. -/
theorem abandon_of_idle {u : Thread} (h : u.wait = none) : u.abandon = { u with hint := none, wait := none, walked := [] } := by
  rw [Thread.abandon, h]

theorem abandon_regs (u : Thread) : u.abandon.regs = u.regs := by
  unfold Thread.abandon
  split <;> rfl

theorem abandon_cm (u : Thread) : u.abandon.cm = u.cm := by
  unfold Thread.abandon
  split <;> rfl

/-! What the veil does not hide. -/

theorem pc_of_veil {s t : State} (h : s.veil = t.veil) (q : Ref) : (s.thr q).pc = (t.thr q).pc :=
  (congrArg Thread.pc (thr_of_veil h q) :)
theorem cm_of_veil {s t : State} (h : s.veil = t.veil) (q : Ref) : (s.thr q).cm = (t.thr q).cm :=
  (congrArg Thread.cm (thr_of_veil h q) :)
theorem dbgctl_of_veil {s t : State} (h : s.veil = t.veil) (n : Nat) : (s.team n).dbgctl = (t.team n).dbgctl :=
  (congrArg Team.dbgctl (team_of_veil h n) :)

/-- What a step that halts one team does: each thread stands or abandons its wait, the other teams stand, and the team's DBGCTL
meets `p`. -/
structure Halting (f : State → Nat → State) (p : BitVec 32 → Prop) : Prop where
  thr : ∀ x n q, (f x n).thr q = x.thr q ∨ (f x n).thr q = (x.thr q).abandon
  others : ∀ x n m, n ≠ m → (f x n).team m = x.team m
  teams : ∀ x n, (f x n).teams.length = x.teams.length
  dbgctl : ∀ x n, n < x.teams.length → p ((f x n).team n).dbgctl
  mem : ∀ x n, (f x n).mem = x.mem

section
variable {f : State → Nat → State} {m : BitVec 32 → Prop} (hf : Halting f m) (ts : List Nat) (x : State)
include hf

theorem Halting.keeps {α : Type} {g : Thread → α} (hg : ∀ u : Thread, g u.abandon = g u) (q : Ref) :
    g ((ts.foldl f x).thr q) = g (x.thr q) := by
  refine foldl_keeps (g := fun y => g (y.thr q)) (fun y n => ?_) ts x
  obtain h | h := hf.thr y n q
  · rw [h]
  · rw [h, hg]

/-- A thread that waits for nothing stands where it is. -/
theorem Halting.pc {q : Ref} (h : (x.thr q).wait = none) : ((ts.foldl f x).thr q).pc = (x.thr q).pc := by
  have hidle : ((ts.foldl f x).thr q).wait = none ∧ ((ts.foldl f x).thr q).pc = (x.thr q).pc :=
    List.foldlRecOn (motive := fun y => (y.thr q).wait = none ∧ (y.thr q).pc = (x.thr q).pc) ts f ⟨h, rfl⟩ fun y hy n _ => by
      obtain ⟨hwait, hpc⟩ := hy
      obtain e | e := hf.thr y n q
      · rw [e]
        exact ⟨hwait, hpc⟩
      · rw [e, abandon_of_idle hwait]
        exact ⟨rfl, hpc⟩
  exact hidle.2

theorem Halting.marks {n : Nat} (hn : n ∈ ts) (hl : n < x.teams.length) : m ((ts.foldl f x).team n).dbgctl := by
  induction ts generalizing x with
  | nil => cases hn
  | cons k ks ih =>
    rw [List.foldl_cons]
    have hl' : n < (f x k).teams.length := by rwa [hf.teams]
    by_cases hk : n ∈ ks
    · exact ih _ hk hl'
    · obtain rfl : n = k := (List.mem_cons.1 hn).resolve_right hk
      have hstands : (ks.foldl f (f x n)).team n = (f x n).team n :=
        List.foldlRecOn (motive := fun y => y.team n = (f x n).team n) ks f rfl fun y hy j hj => by
          rw [hf.others y j n fun e => hk (e ▸ hj), hy]
      rw [hstands]
      exact hf.dbgctl x n hl

/-- A word that halts the teams of its active threads leaves them past it. -/
theorem Halting.word {i : Instr} {p : Thread → Prop} {own : Ref → Verdict} (hi : s.issues i p)
    (ho : ∀ r ∈ s.cur, (s.thr r).active i = true → p (s.thr r) → own r = .run)
    (he : exec i s = .next (s.perform (s.judge i own) fun s1 rs => (rs.map (·.team)).eraseDups.foldl f s1)) :
    ∃ t, exec i s = .next t ∧
      (∀ r ∈ s.active i, m (t.team r.team).dbgctl ∧ (t.thr r).pc = (s.thr r).nextPc) ∧
      (∀ q, (t.thr q).regs = (s.thr q).regs ∧ (t.thr q).cm = (s.thr q).cm) ∧
      ∀ a, readByte t.mem a = readByte s.mem a := by
  have hveil := perform_veil_of_issues (fun s1 rs => (rs.map (·.team)).eraseDups.foldl f s1) hi ho
  refine ⟨_, he, fun r hr => ?_, fun q => ?_, fun a => ?_⟩
  · obtain ⟨hrc, -⟩ := mem_active.1 hr
    have hretired : s.passed.thr r = (s.thr r).retire := thr_each_mem s s.cur (fun _ => Thread.retire) r hi.1.1 (hi.1.2 r hrc) hrc
    have hteam : r.team ∈ ((s.active i).map (·.team)).eraseDups := List.mem_eraseDups.2 (List.mem_map_of_mem hr)
    have hmark := hf.marks _ s.passed hteam (passed_has.2 (hi.1.2 r hrc)).1
    have hpc := hf.pc ((s.active i).map (·.team)).eraseDups s.passed (q := r) (by rw [hretired]; rfl)
    refine ⟨?_, ?_⟩
    · rwa [dbgctl_of_veil hveil]
    · rw [pc_of_veil hveil, hpc, hretired, Thread.retire_pc]
  · rw [regs_of_veil hveil, cm_of_veil hveil, hf.keeps _ _ abandon_regs, hf.keeps _ _ abandon_cm]
    exact ⟨passed_regs hi.1 q, passed_keeps (f := Thread.cm) (fun _ => rfl) hi.1 q⟩
  · rw [mem_of_veil hveil, foldl_mem hf.mem, (congrArg State.mem (passed_frame s) :)]

end

theorem halting_haltTeam : Halting State.haltTeam fun d => d.getLsbD 1 = true where
  thr := thr_haltTeam
  others x n m h := by rw [team_haltTeam, team_modTeam_ne _ _ _ _ h]
  teams x n := by rw [haltTeam_teams, State.modTeam, List.length_modify]
  dbgctl x n h := by
    rw [team_haltTeam, team_modTeam_eq _ _ _ h]
    simp [Team.halted]
  mem := State.haltTeam_mem

/-- A team halted at a breakpoint whose code is `c` (R382). -/
def State.haltAt (c : BitVec 6) (x : State) (n : Nat) : State :=
  (x.haltTeam n).modTeam n fun m => { m with dbgctl := (m.dbgctl &&& 0xFFFFC0FF#32) ||| 4#32 ||| (c.setWidth 32 <<< 8) }

theorem thr_modTeam_of_threads (x : State) (n : Nat) {k : Team → Team} (hk : ∀ y, (k y).threads = y.threads) (q : Ref) :
    (x.modTeam n k).thr q = x.thr q := by
  by_cases hl : n < x.teams.length
  · by_cases hn : n = q.team
    · rw [State.thr, hn, team_modTeam_eq _ _ _ (hn ▸ hl), hk, State.thr]
    · rw [State.thr, team_modTeam_ne _ _ _ _ hn, State.thr]
  · rw [modTeam_out _ _ _ (Nat.not_lt.1 hl)]

/-- DBGCTL after a breakpoint: HALTED, the reason bit and the code (R382). -/
theorem breakpoint_bits (d : BitVec 32) (c : BitVec 6) :
    let e := ((d ||| 2#32) &&& 0xFFFFC0FF#32) ||| 4#32 ||| (c.setWidth 32 <<< 8)
    e.getLsbD 1 = true ∧ e.getLsbD 2 = true ∧ e.extractLsb' 8 6 = c := by
  refine ⟨by simp, by simp, ?_⟩
  refine BitVec.eq_of_getLsbD_eq fun k hk => ?_
  interval_cases k <;> simp

theorem halting_haltAt (c : BitVec 6) : Halting (State.haltAt c) fun d =>
    d.getLsbD 1 = true ∧ d.getLsbD 2 = true ∧ d.extractLsb' 8 6 = c where
  thr x n q := by
    rw [State.haltAt, thr_modTeam_of_threads _ _ fun _ => by rfl]
    exact thr_haltTeam x n q
  others x n m h := by rw [State.haltAt, team_modTeam_ne _ _ _ _ h, team_haltTeam, team_modTeam_ne _ _ _ _ h]
  teams x n := by rw [State.haltAt, State.modTeam, List.length_modify, haltTeam_teams, State.modTeam, List.length_modify]
  dbgctl x n h := by
    rw [State.haltAt, team_modTeam_eq _ _ _ (by rwa [haltTeam_teams, State.modTeam, List.length_modify]), team_haltTeam,
      team_modTeam_eq _ _ _ h]
    exact breakpoint_bits _ c
  mem x n := State.haltTeam_mem x n

/-! ## The trap of a control thread (R356, R359, R363) -/

/-- The one lane of a bundle fails: it performs nothing, and its fragment traps. -/
theorem perform_fail {v : Ref → Verdict} {f : LaneFault} {act : State → List Ref → State} {r : Ref} (ha : ∀ x, act x [] = x)
    (hc : s.cur = [r]) (hv : v r = .fail f) : (s.perform v act).veil =
      (s.trapFrag (s.trapping r) (s.groupFaults v r) false (s.thr r).pc).veil := by
  have hbad : s.badLanes v = [r] := by simp [State.badLanes, State.anyLane, State.sameGroup, hc, hv, Verdict.fault?, Verdict.walks]
  have hstall : s.stalledLanes v = [] := by simp [State.stalledLanes, hbad, hc]
  have hgo : s.goLanes v = [] := by simp [State.goLanes, hbad, hc]
  have hlead : s.fragLeads [r] = [r] := by simp [State.fragLeads, State.sameFrag, State.sameGroup]
  rw [State.perform, veil_settleAll]
  simp only [State.trapBad, State.waitStalled, State.notePath, State.countRetired, State.runLanes, hbad, hstall, hgo, hlead,
    ha, List.filter_nil, List.foldl_nil, List.foldl_cons]

section
variable {f : LaneFault} {r : Ref}

/-- A control thread with the record of its trap. -/
def Thread.recorded (f : LaneFault) (addr tvec : BitVec 64) (u : Thread) : Thread :=
  u.enter u.stopPc addr 0 (maskOf [0]) (trapSum f false true 0 0x7F) f f tvec

/-- A control thread takes its record and halts its team. -/
theorem trapFrag_control (h : (s.thr r).ctl = true) (a : BitVec 64) : s.trapFrag [r] [(0, f)] false a =
    (s.modThr r (Thread.recorded f a (s.team r.team).tvec)).haltTeam r.team := by
  simp [State.trapFrag, h, primary]
  rfl

theorem groupFaults_control {v : Ref → Verdict} (h : (s.thr r).ctl = true) (hc : s.cur = [r]) (hv : v r = .fail f) :
    s.groupFaults v r = [(0, f)] := by
  simp [State.groupFaults, State.sameGroup, hc, hv, h, Verdict.fault?]

theorem trapping_control (h : (s.thr r).ctl = true) : s.trapping r = [r] := by
  simp [State.trapping, State.fragOf, h]

theorem stopPc_of_fresh (h : s.fresh r) : (s.thr r).stopPc = (s.thr r).pc := by
  obtain ⟨hbar, -⟩ := h
  unfold Thread.stopPc
  split
  next heq => exact absurd heq (hbar _ _ _ _ _)
  · rfl

/-- What a halt keeps of a thread that waits for nothing. -/
def Thread.stands (u : Thread) : BitVec 64 × Bool × TrapRegs × Vector Reg 64 := (u.pc, u.cm, u.tr, u.regs)

theorem stands_haltTeam (x : State) (n : Nat) (h : (x.thr r).wait = none) :
    ((x.haltTeam n).thr r).stands = (x.thr r).stands := by
  obtain e | e := thr_haltTeam x n r
  · rw [e]
  · rw [e, abandon_of_idle h]
    rfl

theorem stands_recorded {u : Thread} (h : u.ctl = true) (a tvec : BitVec 64) : (u.recorded f a tvec).stands =
    (u.pc, u.cm, (u.recorded f a tvec).tr, u.regs) := by
  simp [Thread.stands, Thread.recorded, Thread.enter, h]

/-- The fragment word of a control thread's trap with no reason code (R359). -/
theorem trapSum_control (h : f.reason = 0x3F) : trapSum f false true 0 0x7F =
    BitVec.ofNat 32 (f.cause.code + 2 ^ 5 + 2 ^ 13 * 0x7F + 2 ^ 20 * 0x3F) := by
  rw [trapSum, h]
  cases f.cause <;> decide

/-- What the trap of a control thread leaves. -/
theorem control_traps {i : Instr} {v : Ref → Verdict} {act : State → List Ref → State} (he : exec i s = .next (s.perform v act))
    (ha : ∀ x, act x [] = x) (hc : s.cur = [r]) (hb : s.bundled) (hctl : (s.thr r).ctl = true) (hfresh : s.fresh r)
    (hv : v r = .fail f) (hreason : f.reason = 0x3F) : ∃ t, exec i s = .next t ∧
      (t.team r.team).isHalted = true ∧ (t.thr r).pc = (s.thr r).pc ∧ (t.thr r).cm = (s.thr r).cm ∧
      (t.thr r).tr.epc = (s.thr r).pc ∧ (t.thr r).tr.trinfo = f.info ∧
      (t.thr r).tr.trsum = BitVec.ofNat 32 (f.cause.code + 2 ^ 5 + 2 ^ 13 * 0x7F + 2 ^ 20 * 0x3F) ∧
      (t.thr r).regs = (s.thr r).regs ∧ ∀ a, readByte t.mem a = readByte s.mem a := by
  have hr : s.has r := hb.2 r (hc ▸ List.mem_cons_self)
  have hveil := perform_fail ha hc hv
  rw [trapping_control hctl, groupFaults_control hctl hc hv, trapFrag_control hctl] at hveil
  generalize hx : s.modThr r (Thread.recorded f (s.thr r).pc (s.team r.team).tvec) = x at hveil
  have hthr : x.thr r = (s.thr r).recorded f (s.thr r).pc (s.team r.team).tvec := hx ▸ thr_modThr_eq _ _ _ hr
  have hl : r.team < x.teams.length := hx ▸ ((has_modThr s r r _).2 hr).1
  have hmem : x.mem = s.mem := hx ▸ rfl
  have hstands : ((s.perform v act).thr r).stands = (x.thr r).stands :=
    (congrArg Thread.stands (thr_of_veil hveil r) :).trans (stands_haltTeam x r.team (by rw [hthr]; rfl))
  rw [hthr, stands_recorded hctl, Thread.stands, Prod.mk.injEq, Prod.mk.injEq, Prod.mk.injEq] at hstands
  obtain ⟨hpc, hcm, htr, hregs⟩ := hstands
  refine ⟨_, he, ?_, hpc, hcm, ?_, ?_, ?_, hregs, fun a => ?_⟩
  · rw [Team.isHalted, dbgctl_of_veil hveil]
    exact halting_haltTeam.dbgctl x r.team hl
  · rw [htr]
    exact stopPc_of_fresh hfresh
  · rw [htr]
    rfl
  · rw [htr, ← trapSum_control hreason]
    rfl
  · rw [mem_of_veil hveil, State.haltTeam_mem, hmem]

end

/-- A control thread's unhinted word that has no operands fails as its own check says. -/
theorem judge_control {i : Instr} {own : Ref → Verdict} {r : Ref} {c : RgnClass} (hi : infoOf i = { g := g, rgn := c })
    (hctl : (s.thr r).ctl = true) (hhint : (s.thr r).hint = none) (hg : (s.thr r).pred g = true) :
    s.judge i own r = own r := by
  simp [State.judge, State.judgeWord, hi, hctl, hhint, hg, badHint, badWide, badMods, noOrd, State.headFault, roleOk,
    State.regionBad, joinRegion]

end

/-- Settles O32: ERET by the lanes that it changes, the halting words by the teams that they halt, a control thread's trap by
its record and its team's halt. -/
theorem returnAndHalt : Obligations.ReturnAndHalt := by
  unfold Obligations.ReturnAndHalt
  intro s g c
  refine ⟨eret_becomes, fun i hmem hi hbp => ?_, fun i f r hmem hc hb hctl hfresh hhint hg _ hdbg => ?_⟩
  · simp only [List.mem_cons, List.not_mem_nil, or_false] at hmem
    rcases hmem with rfl | rfl
    · obtain ⟨t, he, hlanes, hrest⟩ := halting_haltTeam.word hi (own := noCheck) (fun _ _ _ _ => rfl) rfl
      exact ⟨t, he, fun r hr => ⟨(hlanes r hr).1, (hlanes r hr).2, nofun⟩, hrest⟩
    · have ho (r : Ref) (hr : r ∈ s.cur) (ha : (s.thr r).active (.brkpt g c) = true) (_ : True) :
          (if (s.team r.team).dbgctl.getLsbD 0 then .run else .fail { cause := .breakpoint, info := c.setWidth 64 } : Verdict) =
            .run := if_pos (hbp rfl r (mem_active.2 ⟨hr, ha⟩))
      obtain ⟨t, he, hlanes, hrest⟩ := (halting_haltAt c).word hi ho rfl
      refine ⟨t, he, fun r hr => ?_, hrest⟩
      obtain ⟨⟨hhalted, hreason, hcode⟩, hpc⟩ := hlanes r hr
      exact ⟨hhalted, hpc, fun _ => ⟨hreason, hcode⟩⟩
  · simp only [List.mem_cons, List.not_mem_nil, or_false, Prod.mk.injEq] at hmem
    rcases hmem with ⟨rfl, rfl⟩ | ⟨rfl, rfl⟩
    · exact control_traps rfl (fun _ => rfl) hc hb hctl hfresh (judge_control rfl hctl hhint hg) rfl
    · exact control_traps rfl (fun _ => rfl) hc hb hctl hfresh
        ((judge_control rfl hctl hhint hg).trans (if_neg (by rw [hdbg]; exact Bool.false_ne_true))) rfl

end Sys2Proof.Machine
end


section
/-! PROOFS. Probes, the watchdog and deferred reports; they settle O45 (R364 to R367, R377 to R379, R384). -/

namespace Sys2Proof.Machine

open Sys2Proof

/-! ## Changing threads in another order -/

theorem modThr_comm {r q : Ref} (h : r ≠ q) (s : State) (f g : Thread → Thread) :
    (s.modThr r f).modThr q g = (s.modThr q g).modThr r f := by
  refine congrArg (fun l => ({ s with teams := l } : State)) ?_
  by_cases ht : r.team = q.team
  · have hk : r.thr ≠ q.thr := fun hk => h (by cases r; cases q; simp_all)
    simp only [State.modThr, State.modTeam]
    rw [ht, List.modify_modify_eq, List.modify_modify_eq]
    refine congrArg (List.modify s.teams q.team) (funext fun x => ?_)
    exact congrArg (fun l => ({ x with threads := l } : Team)) (List.modify_modify_ne f g x.threads hk)
  · exact List.modify_modify_ne _ _ s.teams ht

theorem each_perm {rs qs : List Ref} (h : rs.Perm qs) (s : State) (f : Ref → Thread → Thread) : s.each rs f = s.each qs f :=
  h.foldl_eq' (fun x _ y _ z => by
    by_cases hxy : x = y
    · rw [hxy]
    · exact modThr_comm hxy z _ _) s

theorem nodup_eraseDups {α : Type} [BEq α] [LawfulBEq α] : ∀ l : List α, l.eraseDups.Nodup
  | [] => List.nodup_nil
  | a :: l => by
    rw [List.eraseDups_cons, List.nodup_cons, List.mem_eraseDups]
    exact ⟨fun h => by simp at h, nodup_eraseDups _⟩
  termination_by l => l.length
  decreasing_by exact Nat.lt_succ_of_le (List.length_filter_le _ _)

/-- Grouping threads by team loses and repeats none. -/
theorem byTeam_perm {rs : List Ref} (h : rs.Nodup) :
    ((rs.map (·.team)).eraseDups.flatMap fun t => rs.filter fun r => r.team == t).Perm rs := by
  refine (List.perm_ext_iff_of_nodup (List.nodup_flatMap.2 ⟨fun t _ => h.filter _, ?_⟩) h).2 fun r => ?_
  · refine (nodup_eraseDups _).imp fun {t k} htk => ?_
    refine List.disjoint_left.2 fun r hr hk => htk ?_
    rw [← eq_of_beq (List.mem_filter.1 hr).2, eq_of_beq (List.mem_filter.1 hk).2]
  · refine ⟨fun hr => ?_, fun hr => ?_⟩
    · obtain ⟨t, -, hrt⟩ := List.mem_flatMap.1 hr
      exact (List.mem_filter.1 hrt).1
    · exact List.mem_flatMap.2
        ⟨r.team, List.mem_eraseDups.2 (List.mem_map_of_mem hr), List.mem_filter.2 ⟨hr, beq_self_eq_true _⟩⟩

/-! ## PROBE (R378, R379, R384) -/

section
variable {s : State} {g : BitVec 3} {d : BitVec 6}

/-- The result word of probes that find no cycle (R379). -/
theorem probeWord_acyclic {codes : List (ProbeUnit × Nat)} (h : ∀ c ∈ codes, c.2 ≠ 1) (n : Nat) :
    probeWord codes n = BitVec.ofNat 32 ((if codes.any (·.2 == 2) then 2 else 0) + 4 * 0x7F) := by
  have hone : codes.any (·.2 == 1) = false := List.any_eq_false.2 fun c hc => mt beq_iff_eq.1 (h c hc)
  have hlow : ((List.range n).find? fun g => codes.any fun c => c.2 == 1 && c.1.2 == g) = none :=
    List.find?_eq_none.2 fun g _ => by
      rw [Bool.not_eq_true]
      exact List.any_eq_false.2 fun c hc => by simp [h c hc]
  rw [probeWord, hone, hlow]
  rfl

/-- The probes of a team with no cycle among its blocked units. -/
theorem probeTeam_acyclic {t : Nat} (h : ∀ u ∈ s.blockedUnits t, s.probeFrom u ≠ 1) : ∀ c ∈ s.probeTeam t, c.2 ≠ 1 := by
  intro c hc
  obtain ⟨u, hu, rfl⟩ := List.mem_map.1 hc
  exact h u hu

theorem probeTeam_unknown (t : Nat) :
    (s.probeTeam t).any (·.2 == 2) = true ↔ ∃ u ∈ s.blockedUnits t, s.probeFrom u = 2 := by
  simp [State.probeTeam]

/-- What PROBE does for the lanes that run. -/
def State.probeAct (s : State) (d : BitVec 6) (x : State) (rs : List Ref) : State :=
  (rs.map (·.team)).eraseDups.foldl (fun x t =>
    ((s.probeTeam t).filter fun c => c.2 == 1).foldl
      (fun y c => y.cycleTrap c.1 (probeWord (s.probeTeam t) (s.team t).groups.length))
      ((rs.filter fun r => r.team == t).foldl (fun y r => y.modThr r fun u =>
        u.set32 d.toNat (probeWord (s.probeTeam t) (s.team t).groups.length) tagI32) x)) x

/-- A thread with the result word of its team's probes. -/
def State.probed (s : State) (d : BitVec 6) (r : Ref) (u : Thread) : Thread :=
  u.set32 d.toNat (probeWord (s.probeTeam r.team) (s.team r.team).groups.length) tagI32

/-- Where no probe finds a cycle, PROBE changes its lanes alone. -/
theorem probeAct_acyclic {rs : List Ref} (hn : rs.Nodup) (h : ∀ r ∈ rs, ∀ c ∈ s.probeTeam r.team, c.2 ≠ 1) (x : State) :
    s.probeAct d x rs = x.each rs (s.probed d) := by
  rw [← each_perm (byTeam_perm hn), State.each, List.foldl_flatMap]
  refine List.foldl_rel (r := Eq) rfl fun t ht y z hyz => ?_
  obtain ⟨r, hr, rfl⟩ := List.mem_map.1 (List.mem_eraseDups.1 ht)
  have hnone : ((s.probeTeam r.team).filter fun c => c.2 == 1) = [] :=
    List.filter_eq_nil_iff.2 fun c hc => mt beq_iff_eq.1 (h r hr c hc)
  rw [hnone, List.foldl_nil, hyz]
  refine List.foldl_rel (r := Eq) rfl fun q hq y z hyz => ?_
  rw [hyz, ← eq_of_beq (List.mem_filter.1 hq).2]
  rfl

/-- Two actions that agree on the lanes that run give the same. -/
theorem perform_congr_running {v : Ref → Verdict} {act act' : State → List Ref → State} (hc : s.clear v)
    (h : act s.passed (s.running v) = act' s.passed (s.running v)) : s.perform v act = s.perform v act' := by
  rw [perform_clear act hc, perform_clear act' hc]
  exact congrArg (fun x => ((s.notePath x s.cur).countRetired s.cur).settleAll s.cur) h

theorem probe_completes (hi : s.issues (.probe g d) fun _ => True)
    (h : ∀ r ∈ s.active (.probe g d), ∀ u ∈ s.blockedUnits r.team, s.probeFrom u ≠ 1) :
    CompletesAt (.probe g d) s fun r => Gives d fun _ =>
      { val := if ∃ u ∈ s.blockedUnits r.team, s.probeFrom u = 2 then 2 + 4 * 0x7F else 4 * 0x7F, tag := tagI32 } := by
  have hcodes (r : Ref) (hr : r ∈ s.active (.probe g d)) : ∀ c ∈ s.probeTeam r.team, c.2 ≠ 1 := probeTeam_acyclic (h r hr)
  have hrun : s.running (s.judge (.probe g d) noCheck) = s.active (.probe g d) := running_of_issues hi fun _ _ _ _ => rfl
  have hclear : s.clear (s.judge (.probe g d) noCheck) := clear_of_issues hi fun _ _ _ _ => rfl
  have he : exec (.probe g d) s =
      .next (s.perform (s.judge (.probe g d) noCheck) fun x rs => x.each rs (s.probed d)) := by
    show Host.Outcome.next (s.perform _ (s.probeAct d)) = _
    refine congrArg _ (perform_congr_running hclear ?_)
    rw [hrun]
    exact probeAct_acyclic (hi.1.1.filter _) hcodes _
  refine completesAt_of_acts (f := fun _ => s.probed d) he (fun _ _ => rfl) hi (fun _ _ _ _ => rfl)
    (fun _ => veiled_lane _ _ _ _) fun r hr ha _ => ?_
  have hw := probeWord_acyclic (hcodes r (mem_active.2 ⟨hr, ha⟩)) (s.team r.team).groups.length
  have hval : (probeWord (s.probeTeam r.team) (s.team r.team).groups.length).setWidth 64 =
      if ∃ u ∈ s.blockedUnits r.team, s.probeFrom u = 2 then 2 + 4 * 0x7F else 4 * 0x7F := by
    rw [hw]
    simp only [probeTeam_unknown]
    split <;> rfl
  rw [← hval]
  exact gives_setReg (s.thr r) d fun _ => _

end

/-! ## The watchdog (R378, R379) -/

section
variable {s : State}

/-- A thread that stands where it is since `n`. -/
def Thread.sinceAt (n : Nat) (t : Thread) : Thread := { t with since := n }

theorem exec_watchdogProbe : exec .watchdogProbe s = .next (
    if !(s.team s.sel).onCore || !s.unitBlocked (s.sel, s.sel2) || decide (s.gtime < s.blockedSince (s.sel, s.sel2) + 1000000) then s
    else if s.probeFrom (s.sel, s.sel2) = 1 then
      s.cycleTrap (s.sel, s.sel2) (probeWord [((s.sel, s.sel2), 1)] (s.team s.sel).groups.length)
    else s.each (s.unitRefs (s.sel, s.sel2)) fun _ => Thread.sinceAt s.gtime) := rfl

theorem foldl_max_le_iff {l : List Nat} {k : Nat} (m : Nat) : l.foldl max m ≤ k ↔ m ≤ k ∧ ∀ n ∈ l, n ≤ k := by
  induction l generalizing m with
  | nil => simp
  | cons a l ih => rw [List.foldl_cons, ih, Nat.max_le, List.forall_mem_cons, and_assoc]

/-- A unit has been blocked since the last of its threads was. -/
theorem since_le_blockedSince {u : ProbeUnit} {r : Ref} (hr : r ∈ s.unitRefs u) : (s.thr r).since ≤ s.blockedSince u := by
  have hmem : r ∈ if u.2 < (s.team u.1).groups.length then s.groupRefs u.1 u.2 else [s.ctlRef u.1] := by
    unfold State.unitRefs at hr
    split at hr
    next h => exact if_pos h ▸ List.mem_of_mem_filter hr
    next h => exact if_neg h ▸ List.mem_of_mem_filter hr
  exact ((foldl_max_le_iff 0).1 le_rfl).2 _ (List.mem_map_of_mem hmem)

theorem watchdogProbe_early {r : Ref} (hr : r ∈ s.unitRefs (s.sel, s.sel2)) (h : s.gtime < (s.thr r).since + 1000000) :
    exec .watchdogProbe s = .next s := by
  have hle := since_le_blockedSince hr
  have hearly : s.gtime < s.blockedSince (s.sel, s.sel2) + 1000000 := by omega
  rw [exec_watchdogProbe, decide_eq_true hearly, Bool.or_true, if_pos rfl]

/-- A probe without a cycle only begins the unit's next millisecond. -/
theorem watchdogProbe_acyclic (hon : (s.team s.sel).onCore = true) (hb : s.unitBlocked (s.sel, s.sel2) = true)
    (ht : s.blockedSince (s.sel, s.sel2) + 1000000 ≤ s.gtime) (hp : s.probeFrom (s.sel, s.sel2) ≠ 1) :
    exec .watchdogProbe s = .next (s.each (s.unitRefs (s.sel, s.sel2)) fun _ => Thread.sinceAt s.gtime) := by
  have hearly : decide (s.gtime < s.blockedSince (s.sel, s.sel2) + 1000000) = false := decide_eq_false (Nat.not_lt.2 ht)
  simp only [exec_watchdogProbe, hon, hb, hearly, hp, Bool.not_true, Bool.or_self, Bool.false_eq_true, if_false]

/-- A change of each thread of a list keeps what the change keeps. -/
theorem each_keeps {α : Type} {f : Ref → Thread → Thread} {k : Thread → α} (h : ∀ r u, k (f r u) = k u) (rs : List Ref)
    (q : Ref) : k ((s.each rs f).thr q) = k (s.thr q) :=
  foldl_keeps (g := fun x => k (x.thr q)) (fun x r => by
    by_cases hq : r = q
    · subst hq
      by_cases hr : x.has r
      · rw [thr_modThr_eq _ _ _ hr, h]
      · rw [modThr_out _ hr]
    · rw [thr_modThr_ne _ _ _ _ hq]) rs s

/-- A field set alike for each thread of a list has its value in each that exists. -/
theorem since_each {n : Nat} {rs : List Ref} {r : Ref} (hr : r ∈ rs) (h : s.has r) :
    ((s.each rs fun _ => Thread.sinceAt n).thr r).since = n := by
  induction rs generalizing s with
  | nil => cases hr
  | cons q rs ih =>
    rw [each_cons]
    by_cases hq : r ∈ rs
    · exact ih hq ((has_modThr _ _ _ _).2 h)
    · obtain rfl : r = q := (List.mem_cons.1 hr).resolve_right hq
      rw [thr_each_notMem _ _ _ _ hq, thr_modThr_eq _ _ _ h, Thread.sinceAt]

/-! ## Deferred reports (R366, R367) -/

theorem exec_deferredReport : exec .deferredReport s = .next (
    match (s.group s.sel s.sel2).reports.find? (s.orphan s.sel) with
    | some x => (s.modGroup s.sel s.sel2 fun y => { y with reports := y.reports.erase x }).errorRecord
        (dieOfCore (s.half s.sel 0).core) 0x11 1 (s.team s.sel).ctxid 0 (BitVec.ofNat 64 (s.half s.sel 0).core)
    | none =>
      match (s.liveRefs s.sel s.sel2).find? fun r => s.reportDue r && (s.team s.sel).onCore && !(s.team s.sel).isHalted with
      | some r =>
        match s.dueReport r with
        | some x => (s.takeReport r x).settle s.sel s.sel2
        | none => s
      | none => s) := rfl

theorem team_of_mem_liveRefs {t k : Nat} {r : Ref} (h : r ∈ s.liveRefs t k) : r.team = t := by
  obtain ⟨j, -, rfl⟩ := List.mem_map.1 (List.mem_of_mem_filter (List.mem_of_mem_filter h))
  rfl

/-- The report that a thread's fragment is due is one of its group's. -/
theorem mem_of_dueReport {r : Ref} {x : Report} (h : s.dueReport r = some x) :
    x ∈ (s.group r.team (s.thr r).group).reports := by
  unfold State.dueReport at h
  dsimp only at h
  split at h
  · cases h
  · exact List.mem_of_find?_eq_some h

theorem isSome_of_reportDue {r : Ref} (h : s.reportDue r = true) : (s.dueReport r).isSome = true := by
  unfold State.reportDue at h
  simp only [Bool.and_eq_true] at h
  obtain ⟨⟨-, hsome⟩, -⟩ := h
  exact hsome

theorem deferredReport_none (h : (s.group s.sel s.sel2).reports = [])
    (hg : ∀ r ∈ s.liveRefs s.sel s.sel2, (s.thr r).group = s.sel2) : exec .deferredReport s = .next s := by
  have hnone : (s.liveRefs s.sel s.sel2).find? (fun r => s.reportDue r && (s.team s.sel).onCore && !(s.team s.sel).isHalted) =
      none := List.find?_eq_none.2 fun r hr hdue => by
    simp only [Bool.and_eq_true] at hdue
    obtain ⟨⟨hdue, -⟩, -⟩ := hdue
    obtain ⟨x, hx⟩ := Option.isSome_iff_exists.1 (isSome_of_reportDue hdue)
    have hmem := mem_of_dueReport hx
    rw [team_of_mem_liveRefs hr, hg r hr, h] at hmem
    cases hmem
  rw [exec_deferredReport, h, hnone]
  rfl

theorem deferredReport_takes {x : Report} {q r : Ref} (h : (s.group s.sel s.sel2).reports = [x])
    (hq : s.reportThread s.sel x = some q)
    (hr : (s.liveRefs s.sel s.sel2).find? (fun r => s.reportDue r && (s.team s.sel).onCore && !(s.team s.sel).isHalted) = some r)
    (ht : r.team = s.sel) (hg : (s.thr r).group = s.sel2) :
    exec .deferredReport s = .next ((s.takeReport r x).settle s.sel s.sel2) := by
  have hheld : [x].find? (s.orphan s.sel) = none := by simp [State.orphan, hq]
  have hdue : s.dueReport r = some x := by
    have hpass := List.find?_some hr
    simp only [Bool.and_eq_true] at hpass
    obtain ⟨⟨hdue, -⟩, -⟩ := hpass
    obtain ⟨y, hy⟩ := Option.isSome_iff_exists.1 (isSome_of_reportDue hdue)
    have hmem := mem_of_dueReport hy
    rw [ht, hg, h, List.mem_singleton] at hmem
    rw [hy, hmem]
  rw [exec_deferredReport, h, hheld, hr]
  simp only [hdue]

theorem errorRecord_teams (x : State) (d unit sev : Nat) (ctx : BitVec 16) (addr : Nat) (detail : BitVec 64) :
    (x.errorRecord d unit sev ctx addr detail).teams = x.teams := raise_teams _ _ _

theorem deferredReport_orphan {x : Report} (h : (s.group s.sel s.sel2).reports = [x])
    (hq : s.reportThread s.sel x = none) : ∃ t, exec .deferredReport s = .next t ∧
      (t.group s.sel s.sel2).reports = [] ∧ (∀ r, t.thr r = s.thr r) ∧ ∀ a, readByte t.mem a = readByte s.mem a := by
  have hdrop : [x].find? (s.orphan s.sel) = some x := by simp [State.orphan, hq]
  have hk : s.sel2 < (s.team s.sel).groups.length := by
    by_contra hk
    rw [State.group, List.getD, List.getElem?_eq_none (Nat.not_lt.1 hk)] at h
    cases h
  have hn : s.sel < s.teams.length := by
    by_contra hn
    rw [State.team, List.getD, List.getElem?_eq_none (Nat.not_lt.1 hn)] at hk
    cases hk
  refine ⟨_, by rw [exec_deferredReport, h, hdrop], ?_, fun r => ?_, fun a => ?_⟩
  · rw [State.group, State.team, errorRecord_teams]
    exact (congrArg Group.reports (group_modGroup_eq hn hk _)).trans (by rw [h, List.erase_cons_head])
  · rw [State.thr, State.team, errorRecord_teams]
    exact thr_modTeam_of_threads s s.sel (fun _ => by rfl) r
  · rw [State.errorRecord_mem]
    rfl

end

/-- Settles O45: PROBE by what its lanes are given, the watchdog by when its unit was blocked, a report by whether a thread is
left to take it. -/
theorem probesAndReports : Obligations.ProbesAndReports := by
  unfold Obligations.ProbesAndReports
  intro s g d
  refine ⟨probe_completes, fun hb => ?_, fun r hr _ ht => watchdogProbe_early hr ht, fun hon hb ht hp => ?_,
    deferredReport_none, fun x r q h hq hr ht hg => deferredReport_takes h hq hr ht hg, fun x => deferredReport_orphan⟩
  · rw [exec_watchdogProbe, hb, Bool.not_false, Bool.or_true, Bool.true_or, if_pos rfl]
  · refine ⟨_, watchdogProbe_acyclic hon hb ht hp, fun r => ⟨?_, ?_⟩, fun r hr h => since_each hr h, fun a => ?_⟩
    · exact each_keeps (f := fun _ => Thread.sinceAt s.gtime) (k := Thread.regs) (fun _ _ => rfl) _ r
    · exact each_keeps (f := fun _ => Thread.sinceAt s.gtime) (k := Thread.pc) (fun _ _ => rfl) _ r
    · exact congrArg (readByte · a) (congrArg State.mem (each_rest s (s.unitRefs (s.sel, s.sel2)) fun _ => Thread.sinceAt s.gtime) :)

end Sys2Proof.Machine
end


section
/-! PROOFS. A team's pre-emption, its wake and its return to its own cores; they settle O11 (R368, R370 to R373, R408). -/

namespace Sys2Proof.Machine

open Sys2Proof

section
variable {s : State}

/-! ## The request, the pre-emption and the wake (R368 to R372) -/

theorem timeSliceRequest_requests (hon : (s.team s.sel).onCore = true) (hh : s.harvest s.sel = false)
    (hs : (s.launchOf s.sel).saves = true) (hr : s.curator.running.isSome = true) (hc : s.curator.restarting = false) :
    exec .timeSliceRequest s = .next (s.modTeam s.sel fun t => { t with preemptReq := true }) := by
  show execTimeSliceRequest s = _
  simp only [execTimeSliceRequest, hon, hh, hs, hr, hc, Bool.not_false, Bool.and_self, if_true]
  rfl

theorem teamPreempt_preempts (h : s.mayPreempt s.sel = true) (ho : s.homesOpen = true) : exec .teamPreempt s = .next
    ((((List.range (s.team s.sel).halves.length).foldl (fun x k => x.holdAcc s.sel k) (s.writeSave s.sel)).modTeam s.sel
      fun x => { x with status := .preempted, preemptReq := false, leftGrant := (s.die (s.team s.sel).die).grant
                        threads := x.threads.zipIdx.map fun p => s.savedThread ⟨s.sel, p.2⟩ p.1 }).freeHalves
        ((s.team s.sel).halves.map fun h => { h with accTiles := [], vitTiles := [] }) (some s.sel)) := by
  show execTeamPreempt s = _
  simp only [execTeamPreempt, h, ho, Bool.not_true, Bool.or_self, Bool.false_eq_true, if_false]

theorem teamPreempt_refused (h : s.mayPreempt s.sel = false) : exec .teamPreempt s = .next s := by
  show execTeamPreempt s = _
  simp only [execTeamPreempt, h, Bool.not_false, Bool.true_or, if_true]

theorem teamWake_wakes (hp : (s.team s.sel).status = .preempted)
    (h : ∃ r ∈ s.allRefs s.sel, (s.thr r).exited = false ∧ ∃ w, (s.thr r).wait = some w ∧ s.wakes r w = true) :
    exec .teamWake s = .next (s.modTeam s.sel fun x => { x with status := .runnable }) := by
  obtain ⟨r, hr, hlive, w, hw, hwake⟩ := h
  have hany : (((s.allRefs s.sel).filter fun r => !(s.thr r).exited).any fun r => (s.thr r).wait.any (s.wakes r)) = true :=
    List.any_eq_true.2 ⟨r, List.mem_filter.2 ⟨hr, by rw [hlive]; rfl⟩, by rw [hw]; exact hwake⟩
  show execTeamWake s = _
  simp only [execTeamWake, hp, hany, and_self, if_true]

/-! ## The return (R372, R374) -/

/-- A pre-empted team back in its seats, its saved contents with it. -/
def State.seatedTeam (s : State) (t : Nat) (seats : List Seat) (x : Team) : Team :=
  { x with
    status := .placed
    halves := x.halves.zipIdx.map fun p => s.savedHalf t p.1 (seats.getD p.2 default)
    threads := x.threads.map fun u => { u with
      slot := if u.ctl then u.slot else slotOn (s.block t) seats u.tidx.toNat
      wait := match u.wait with | some (.far _) => none | w => w } }

/-- The state with a pre-empted team back on its own cores, where it is held no longer. -/
def State.reseated (s : State) (t : Nat) (seats : List Seat) : State :=
  seats.foldl (fun y x => y.modCore x.core fun c => { c with partition := x.part, held := c.held && c.ownerTeam != some t })
    (s.modTeam t (s.seatedTeam t seats))

theorem reseated_teams (t : Nat) (seats : List Seat) : (s.reseated t seats).teams = (s.modTeam t (s.seatedTeam t seats)).teams :=
  foldl_keeps (g := State.teams) (by exact fun _ _ => rfl) seats _

theorem reseated_launches (t : Nat) (seats : List Seat) : (s.reseated t seats).launches = s.launches :=
  foldl_keeps (g := State.launches) (by exact fun _ _ => rfl) seats (s.modTeam t (s.seatedTeam t seats))

theorem reseated_mem (t : Nat) (seats : List Seat) : (s.reseated t seats).mem = s.mem :=
  foldl_mem fun _ _ => rfl

/-- No grid waits to be placed whole. -/
theorem gridsKept_of_closed (h : ∀ l ∈ s.launches, l.openGrid = false) : s.gridsKept = true := by
  refine List.all_eq_true.2 fun l hl => ?_
  have hmem : s.launches.getD l default ∈ s.launches := by
    rw [List.getD_eq_getElem _ _ (List.mem_range.1 hl)]
    exact List.getElem_mem _
  rw [h _ hmem, Bool.not_false, Bool.true_or, Bool.true_or]

theorem teamRestore_returns {seats : List Seat} (hr : (s.team s.sel).status = .runnable) (ho : s.homesOpen = true)
    (hs : s.returnSeats s.sel = some (seats, [])) (hg : ∀ l ∈ s.launches, l.openGrid = false) :
    exec .teamRestore s = .next (((s.reseated s.sel seats).noticeBack s.sel (s.team s.sel).die).startTeams [s.sel]) := by
  have hkept : (s.reseated s.sel seats).gridsKept = true := gridsKept_of_closed (by rwa [reseated_launches])
  have hrun : ¬((s.team s.sel).status ≠ .runnable ∨ s.homesOpen = false) := by simp [hr, ho]
  show execTeamRestore s = _
  simp only [execTeamRestore, if_neg hrun, hs]
  exact congrArg Host.Outcome.next (if_pos hkept)

theorem teamRestore_unseated (hs : s.returnSeats s.sel = none) : exec .teamRestore s = .next s := by
  show execTeamRestore s = _
  simp only [execTeamRestore, hs, ite_self]

/-- What follows a placed team's return: the team starts where it can. -/
theorem status_startTeams {x : State} {n : Nat} (hn : n < x.teams.length) (h : (x.team n).status = .placed) :
    ((x.startTeams [n]).team n).status = .placed ∨ ((x.startTeams [n]).team n).status = .resident := by
  have hstart : (x.startTeams [n]).team n = if (x.team n).canStart then { x.team n with status := .resident } else x.team n :=
    team_modTeam_eq x n _ hn
  rw [hstart]
  split
  · exact .inr rfl
  · exact .inl h

theorem status_noticeBack {x : State} {n : Nat} (hn : n < x.teams.length) (d : Nat) :
    ((x.noticeBack n d).team n).status = (x.team n).status := by
  unfold State.noticeBack
  split
  · rfl
  · rw [team_modTeam_eq _ _ _ hn, Team.notice]

theorem noticeBack_launches (x : State) (n d : Nat) : (x.noticeBack n d).launches = x.launches := by
  unfold State.noticeBack
  split <;> rfl

theorem length_noticeBack (x : State) (n d : Nat) : (x.noticeBack n d).teams.length = x.teams.length := by
  unfold State.noticeBack
  split
  · rfl
  · exact List.length_modify ..

end

/-- Settles O11: each event's guard decides what it does, and a returning team is placed in its seats and starts where it can. -/
theorem preemptionAndReturn : Obligations.PreemptionAndReturn := by
  unfold Obligations.PreemptionAndReturn
  intro s
  refine ⟨timeSliceRequest_requests, teamPreempt_preempts, teamPreempt_refused, teamWake_wakes, fun _ => teamRestore_unseated,
    fun seats hr ho hn hs hg => ⟨_, teamRestore_returns hr ho hs hg, ?_, ?_, fun a => ?_⟩⟩
  · have hlen : s.sel < (s.reseated s.sel seats).teams.length := by
      rwa [reseated_teams, State.modTeam, List.length_modify]
    refine status_startTeams (by rwa [length_noticeBack]) ?_
    rw [status_noticeBack hlen, State.team, reseated_teams]
    exact congrArg Team.status (team_modTeam_eq s s.sel _ hn)
  · rw [startTeams_launches, noticeBack_launches, reseated_launches]
  · rw [State.startTeams_mem, State.noticeBack_mem, reseated_mem]

end Sys2Proof.Machine
end
